-- ==== Sys2Proof/Word.lean ====
section
/-! DEFINITION. The word types of the machine and their plainest arithmetic (R2, R77). -/
namespace Sys2Proof

/-- A byte of memory. -/
abbrev Byte := BitVec 8
/-- A 32-bit word: a sequencer word, a field word, a PE value. -/
abbrev W32 := BitVec 32
/-- A 64-bit word: a g register, an address. -/
abbrev W64 := BitVec 64
/-- A register field: it selects g0 to g31 (R76). -/
abbrev Reg := BitVec 5

/-- Sign extension to 64 bits (R77). -/
abbrev sext {n : Nat} (x : BitVec n) : W64 := x.signExtend 64
/-- Zero extension to 64 bits (R77). -/
abbrev zext {n : Nat} (x : BitVec n) : W64 := x.setWidth 64

end Sys2Proof
end

