-- ==== Sys2Proof/Machine/Bits.lean ====
section
/-! DEFINITION. Bit fields, byte order and sign extension on the machine's words (R2, R46, R47, R77). -/
namespace Sys2Proof.Machine

/-- Bits hi..lo of `x`, as a number (R2): x[lo+n-1 : lo]. -/
def bitsOf (x lo n : Nat) : Nat := (x >>> lo) % 2 ^ n

/-- Bit `k` of `x`. -/
def bitOf (x k : Nat) : Bool := decide ((x >>> k) % 2 = 1)

/-- 1 for true. -/
def b2n (b : Bool) : Nat := if b then 1 else 0

/-- The `n` low bytes of `x`, least significant first (R2: little-endian). -/
def toBytes : Nat → Nat → List Byte
  | 0, _ => []
  | n + 1, x => BitVec.ofNat 8 x :: toBytes n (x / 256)

/-- The number that bytes, least significant first, denote (R2). -/
def ofBytes : List Byte → Nat
  | [] => 0
  | b :: bs => b.toNat + 256 * ofBytes bs

/-- A number below 2^w read as a two's complement integer (R46). -/
def sgn (w x : Nat) : Int := if x % 2 ^ w < 2 ^ (w - 1) then (x % 2 ^ w : Nat) else (x % 2 ^ w : Nat) - (2 ^ w : Nat)

/-- An integer truncated to `w` bits (R6). -/
def wrapTo (w : Nat) (i : Int) : Nat := (i % (2 ^ w : Nat)).toNat

/-- Integer clamp, with whether it clamped. -/
def clampI (lo hi i : Int) : Int × Bool := if i < lo then (lo, true) else if hi < i then (hi, true) else (i, false)

/-- Number of significant bits. -/
def bitLen (n : Nat) : Nat := if n = 0 then 0 else Nat.log2 n + 1

/-- Floor of the square root, one bit at a time. -/
def isqrtGo : Nat → Nat → Nat → Nat
  | 0, _, r => r
  | k + 1, n, r => isqrtGo k n (if (r + 2 ^ k) * (r + 2 ^ k) ≤ n then r + 2 ^ k else r)

/-- Floor of the square root. -/
def isqrt (n : Nat) : Nat := isqrtGo (bitLen n / 2 + 1) n 0

/-- Parity of the low `k` bits of `x`. -/
def parityN : Nat → Nat → Bool
  | 0, _ => false
  | k + 1, x => xor (decide (x % 2 = 1)) (parityN k (x / 2))

/-- Number of 1 bits among the low `k` bits of `x`. -/
def popN : Nat → Nat → Nat
  | 0, _ => 0
  | k + 1, x => x % 2 + popN k (x / 2)

/-- Number of trailing zero bits among `k` bits of `x`. -/
def ctzN : Nat → Nat → Nat
  | 0, _ => 0
  | k + 1, x => if x % 2 = 1 then 0 else 1 + ctzN k (x / 2)

/-- The first element of a list that a test accepts, with its index counted from `i`. -/
def findIdx? {α : Type} (p : α → Bool) : List α → Nat → Option (Nat × α)
  | [], _ => none
  | a :: as, i => if p a then some (i, a) else findIdx? p as (i + 1)

/-- The list without its element at index `i`. -/
def dropAt {α : Type} : List α → Nat → List α
  | [], _ => []
  | _ :: as, 0 => as
  | a :: as, i + 1 => a :: dropAt as i

/-- Change the element at index `i`. -/
def modAt {α : Type} (f : α → α) : List α → Nat → List α
  | [], _ => []
  | a :: as, 0 => f a :: as
  | a :: as, i + 1 => a :: modAt f as i

/-- Element `e` of width `w` of a packed word (R47). -/
def elemOf (w x e : Nat) : Nat := bitsOf x (w * e) w

/-- Pack elements of width `w`, the first at the low end (R47). -/
def packElems (w : Nat) : List Nat → Nat
  | [] => 0
  | x :: xs => x % 2 ^ w + 2 ^ w * packElems w xs

end Sys2Proof.Machine
end

