-- ==== Sys2Proof/Machine/Fp.lean ====
section
/-! DEFINITION. Floating-point formats and arithmetic on exact values (R49-R60, R177-R179, R215-R221): every operation is
computed exactly and rounded once. -/
namespace Sys2Proof.Machine

/-- The floating element formats (R49, R50, R51). -/
inductive FFmt where
  | f64 | f32 | f16 | bf16 | e4m3 | e5m2 | fp4
  deriving DecidableEq, Repr

/-- Exponent bits. -/
def FFmt.eb : FFmt → Nat
  | .f64 => 11 | .f32 => 8 | .f16 => 5 | .bf16 => 8 | .e4m3 => 4 | .e5m2 => 5 | .fp4 => 2

/-- Stored fraction bits. -/
def FFmt.mb : FFmt → Nat
  | .f64 => 52 | .f32 => 23 | .f16 => 10 | .bf16 => 7 | .e4m3 => 3 | .e5m2 => 2 | .fp4 => 1

/-- Exponent bias. -/
def FFmt.bias : FFmt → Nat
  | .f64 => 1023 | .f32 => 127 | .f16 => 15 | .bf16 => 127 | .e4m3 => 7 | .e5m2 => 15 | .fp4 => 1

/-- Width in bits. -/
def FFmt.width (f : FFmt) : Nat := 1 + f.eb + f.mb

/-- Formats with infinities, where an overflow follows R54. -/
def FFmt.ieee : FFmt → Bool
  | .e4m3 => false | .fp4 => false | _ => true

/-- Formats that FTZ and DAZ act on (R59). -/
def FFmt.flushable : FFmt → Bool
  | .f64 => true | .f32 => true | .f16 => true | .bf16 => true | _ => false

/-- The canonical NaN (R49, R50); FP4 has none (R51). -/
def FFmt.canonNaN : FFmt → Nat
  | .f64 => 0x7FF8000000000000 | .f32 => 0x7FC00000 | .f16 => 0x7E00 | .bf16 => 0x7FC0
  | .e4m3 => 0x7F | .e5m2 => 0x7E | .fp4 => 0

/-- The code of the largest finite magnitude. -/
def FFmt.maxCode : FFmt → Nat
  | .e4m3 => 0x7E | .fp4 => 0x7 | f => (2 ^ f.eb - 1) * 2 ^ f.mb - 1

/-- The code of +infinity, for the formats that have it. -/
def FFmt.infCode (f : FFmt) : Nat := (2 ^ f.eb - 1) * 2 ^ f.mb

/-- A decoded value: NaN, infinity, or (-1)^neg * m * 2^e. -/
inductive FVal where
  | nan (sig : Bool)
  | inf (neg : Bool)
  | fin (neg : Bool) (m : Nat) (e : Int)
  deriving DecidableEq, Repr

/-- Decode a code (R49, R50, R51). -/
def FFmt.decode (f : FFmt) (x : Nat) : FVal :=
  let s := bitOf x (f.eb + f.mb)
  let E := bitsOf x f.mb f.eb
  let M := bitsOf x 0 f.mb
  let top : Nat := 2 ^ f.eb - 1
  if f = .e4m3 ∧ E = top ∧ M = 7 then .nan false
  else if f.ieee ∧ E = top then
    if M = 0 then .inf s else .nan (decide (M < 2 ^ (f.mb - 1)))
  else if E = 0 then .fin s M (1 - (f.bias : Int) - f.mb)
  else .fin s (2 ^ f.mb + M) ((E : Int) - f.bias - f.mb)

/-- Whether a code is a subnormal. -/
def FFmt.isSub (f : FFmt) (x : Nat) : Bool := decide (bitsOf x f.mb f.eb = 0) && decide (bitsOf x 0 f.mb ≠ 0)

/-- The code as read under DAZ: a subnormal of a format of R59 becomes zero of its sign. -/
def FFmt.dazCode (f : FFmt) (daz : Bool) (x : Nat) : Nat :=
  if daz && f.flushable && f.isSub x then x / 2 ^ (f.eb + f.mb) * 2 ^ (f.eb + f.mb) else x

/-- Decode as read under DAZ (R59). -/
def FFmt.read (f : FFmt) (daz : Bool) (x : Nat) : FVal := f.decode (f.dazCode daz x)

/-- FPSTAT bits (R57). -/
abbrev Fl := BitVec 10
def flNV : Fl := 1#10
def flDZ : Fl := 2#10
def flOF : Fl := 4#10
def flUF : Fl := 8#10
def flNX : Fl := 16#10
def flSAT : Fl := 32#10
def flOUTL : Fl := 64#10
def flOLOST : Fl := 128#10
def flNANSC : Fl := 256#10
def flTRSVD : Fl := 512#10

/-- A flag when a condition holds. -/
def flIf (b : Bool) (f : Fl) : Fl := if b then f else 0#10

/-- An exact magnitude: in [m*2^e, (m+1)*2^e), equal to m*2^e when `sticky` is false. A sticky value carries at least 128 bits. -/
structure Exact where
  neg : Bool
  m : Nat
  e : Int
  sticky : Bool
  deriving DecidableEq, Repr

/-- The result of an operation before rounding. -/
inductive XRes where
  | nan
  | inf (neg : Bool)
  | ex (x : Exact)
  deriving DecidableEq, Repr

/-- A rounded result: its code, the FPSTAT flags it sets, and whether the stochastic stream took a step (R55). -/
structure FRes where
  bits : Nat
  fl : Fl
  drew : Bool
  deriving DecidableEq, Repr

/-- Compare a*2^ea with b*2^eb. -/
def ltScaled (a : Nat) (ea : Int) (b : Nat) (eb : Int) : Bool :=
  let e := if ea < eb then ea else eb
  decide (a * 2 ^ (ea - e).toNat < b * 2 ^ (eb - e).toNat)

/-- Whether rounding goes to the neighbour of larger magnitude, for a quotient `q`, a remainder `r` of 2^k and a sticky part (R54, R55). -/
def roundsUp (rm : Nat) (neg : Bool) (q r k : Nat) (sticky : Bool) (rnd : Nat) : Bool :=
  match rm with
  | 0 => decide (2 ^ k < 2 * r) || (decide (2 * r = 2 ^ k) && (sticky || decide (q % 2 = 1)))
  | 1 => false
  | 2 => neg && (decide (r ≠ 0) || sticky)
  | 3 => !neg && (decide (r ≠ 0) || sticky)
  | _ => decide (rnd < 2 ^ 32 * r / 2 ^ k)

/-- Round a magnitude to the grid 2^g: the multiple, and whether it was inexact (R54). -/
def roundGrid (rm : Nat) (x : Exact) (g : Int) (rnd : Nat) : Nat × Bool :=
  if g ≤ x.e then (x.m * 2 ^ (x.e - g).toNat, x.sticky)
  else
    let k := (g - x.e).toNat
    let q := x.m / 2 ^ k
    let r := x.m % 2 ^ k
    let inex := decide (r ≠ 0) || x.sticky
    (if inex && roundsUp rm x.neg q r k x.sticky rnd then q + 1 else q, inex)

/-- The exponent of the grid that a magnitude is rounded to: precision mb + 1, never below the smallest subnormal (R54). -/
def FFmt.gridOf (f : FFmt) (x : Exact) : Int :=
  let a := (bitLen x.m : Int) + x.e - 1 - f.mb
  let lo := 1 - (f.bias : Int) - f.mb
  if a < lo then lo else a

/-- The code of q*2^g, a value on the grid not above the largest finite one. -/
def FFmt.packMag (f : FFmt) (q : Nat) (g : Int) : Nat :=
  let q' := if q = 2 ^ (f.mb + 1) then 2 ^ f.mb else q
  let g' := if q = 2 ^ (f.mb + 1) then g + 1 else g
  if q' < 2 ^ f.mb then q' else (g' + f.mb + f.bias).toNat * 2 ^ f.mb + (q' - 2 ^ f.mb)

/-- Put the sign on a magnitude code. -/
def FFmt.withSign (f : FFmt) (neg : Bool) (x : Nat) : Nat := (if neg then 2 ^ (f.eb + f.mb) else 0) + x

/-- How an out-of-range element of a narrowing fares (R67, R68). -/
inductive OutFate where
  | inRange (r : FRes)
  | overflow (drew : Bool)
  deriving DecidableEq, Repr

/-- Whether q*2^g exceeds the largest finite magnitude. -/
def FFmt.exceeds (f : FFmt) (q : Nat) (g : Int) : Bool :=
  match f with
  | .e4m3 => ltScaled 14 5 q g
  | .fp4 => ltScaled 3 1 q g
  | _ => ltScaled (2 ^ (f.mb + 1) - 1) ((2 ^ f.eb : Nat) - 2 - (f.bias : Int) - f.mb) q g

/-- Round an exact finite value into a format, stopping at an overflow (R54, R57, R59). -/
def FFmt.roundFin (f : FFmt) (rm : Nat) (ftz : Bool) (x : Exact) (rnd : Nat) : OutFate :=
  if x.m = 0 ∧ x.sticky = false then .inRange ⟨f.withSign x.neg 0, 0#10, false⟩
  else
    let g := f.gridOf x
    let (q, inex) := roundGrid rm x g rnd
    let drew := inex && decide (4 ≤ rm)
    if f.exceeds q g then .overflow drew
    else
      let tiny := decide (q ≠ 0) && ltScaled q g 1 (1 - (f.bias : Int))
      if tiny && ftz && f.flushable then .inRange ⟨f.withSign x.neg 0, flUF ||| flNX, drew⟩
      else .inRange ⟨f.withSign x.neg (f.packMag q g), flIf inex flNX ||| flIf (tiny && inex) flUF, drew⟩

/-- The code an overflow yields in a format with infinities (R54). -/
def FFmt.overflowCode (f : FFmt) (rm : Nat) (neg : Bool) : Nat :=
  let toInf := match rm with | 1 => false | 2 => neg | 3 => !neg | _ => true
  f.withSign neg (if toInf then f.infCode else f.maxCode)

/-- Round an exact result into FP64, FP32, FP16, BF16 or E5M2 with no outlier ring (R54, R57, R58). -/
def FFmt.finish (f : FFmt) (rm : Nat) (ftz : Bool) (r : XRes) (rnd : Nat) : FRes :=
  match r with
  | .nan => ⟨f.canonNaN, 0#10, false⟩
  | .inf neg => ⟨f.withSign neg f.infCode, 0#10, false⟩
  | .ex x =>
    match f.roundFin rm ftz x rnd with
    | .inRange y => y
    | .overflow drew => ⟨f.overflowCode rm x.neg, flOF ||| flNX, drew⟩

/-- Whether a value is NaN; whether it is a signalling NaN. -/
def FVal.isNaN : FVal → Bool | .nan _ => true | _ => false
def FVal.isSig : FVal → Bool | .nan s => s | _ => false
def FVal.isZero : FVal → Bool | .fin _ m _ => decide (m = 0) | _ => false
def FVal.isInf : FVal → Bool | .inf _ => true | _ => false
def FVal.neg : FVal → Bool | .nan _ => false | .inf s => s | .fin s _ _ => s
def FVal.flip : FVal → FVal | .nan s => .nan s | .inf s => .inf (!s) | .fin s m e => .fin (!s) m e

/-- Signed value at a common exponent. -/
def sgnMag (neg : Bool) (m : Nat) : Int := if neg then -(m : Int) else m

/-- Exact sum of two finite values; an exact zero is -0 for two -0, or under down unless both are +0 (R58, IEEE 754). -/
def addFin (rm : Nat) (n1 : Bool) (m1 : Nat) (e1 : Int) (n2 : Bool) (m2 : Nat) (e2 : Int) : Exact :=
  if m1 = 0 ∧ m2 = 0 then ⟨if n1 = n2 then n1 else decide (rm = 2), 0, 0, false⟩
  else if m1 = 0 then ⟨n2, m2, e2, false⟩
  else if m2 = 0 then ⟨n1, m1, e1, false⟩
  else
    let e := if e1 < e2 then e1 else e2
    let v := sgnMag n1 (m1 * 2 ^ (e1 - e).toNat) + sgnMag n2 (m2 * 2 ^ (e2 - e).toNat)
    if v = 0 then ⟨decide (rm = 2), 0, 0, false⟩ else ⟨decide (v < 0), v.natAbs, e, false⟩

/-- x + y for values that are not NaN; the flag is NV for inf - inf. -/
def xAdd (rm : Nat) : FVal → FVal → XRes × Fl
  | .inf s, .inf t => if s = t then (.inf s, 0#10) else (.nan, flNV)
  | .inf s, _ => (.inf s, 0#10)
  | _, .inf t => (.inf t, 0#10)
  | .fin n1 m1 e1, .fin n2 m2 e2 => (.ex (addFin rm n1 m1 e1 n2 m2 e2), 0#10)
  | _, _ => (.nan, 0#10)

/-- x * y for values that are not NaN, as a value; none for 0 * inf. -/
def xMul : FVal → FVal → Option FVal
  | .inf s, y => if y.isZero then none else some (.inf (xor s y.neg))
  | x, .inf t => if x.isZero then none else some (.inf (xor x.neg t))
  | .fin n1 m1 e1, .fin n2 m2 e2 => some (.fin (xor n1 n2) (m1 * m2) (e1 + e2))
  | _, _ => none

/-- A value as a result to round. -/
def FVal.toX : FVal → XRes
  | .nan _ => .nan
  | .inf s => .inf s
  | .fin s m e => .ex ⟨s, m, e, false⟩

/-- num / den * 2^e with 130 or more quotient bits. -/
def ratio (neg : Bool) (num den : Nat) (e : Int) : Exact :=
  let k := 130 + bitLen den - bitLen num
  ⟨neg, num * 2 ^ k / den, e - k, decide (num * 2 ^ k % den ≠ 0)⟩

/-- The square root of m * 2^e. -/
def sqrtX (m : Nat) (e : Int) : Exact :=
  let odd := e % 2 = 1
  let m' := if odd then 2 * m else m
  let e' := if odd then e - 1 else e
  let k := (262 - bitLen m') / 2 + 1
  let t := m' * 2 ^ (2 * k)
  let r := isqrt t
  ⟨false, r, e' / 2 - k, decide (r * r ≠ t)⟩

/-- 1 / sqrt(m * 2^e), for m > 0. -/
def rsqrtX (m : Nat) (e : Int) : Exact :=
  let odd := e % 2 = 1
  let m' := if odd then 2 * m else m
  let e' := if odd then e - 1 else e
  let k := (262 + bitLen m') / 2 + 1
  let t := 2 ^ (2 * k) / m'
  let r := isqrt t
  ⟨false, r, -(e' / 2) - k, decide (2 ^ (2 * k) % m' ≠ 0) || decide (r * r ≠ t)⟩

/-- The arithmetic operations of R177 and R215. -/
inductive FOp where
  | add | sub | mul | div | sqrt | fma | fnma | rcp | rsq
  deriving DecidableEq, Repr

/-- The exact result of an operation on operands none of which is NaN (R177, R215), with NV or DZ. -/
def xOp (op : FOp) (rm : Nat) (x y z : FVal) : XRes × Fl :=
  match op with
  | .add => xAdd rm x y
  | .sub => xAdd rm x y.flip
  | .mul => match xMul x y with | some p => (p.toX, 0#10) | none => (.nan, flNV)
  | .fma => match xMul x y with | some p => xAdd rm p z | none => (.nan, flNV)
  | .fnma => match xMul x y with | some p => xAdd rm z p.flip | none => (.nan, flNV)
  | .div =>
    match x, y with
    | .inf _, .inf _ => (.nan, flNV)
    | .inf s, _ => (.inf (xor s y.neg), 0#10)
    | _, .inf _ => (.ex ⟨xor x.neg y.neg, 0, 0, false⟩, 0#10)
    | .fin n1 m1 e1, .fin n2 m2 e2 =>
      if m2 = 0 then (if m1 = 0 then (.nan, flNV) else (.inf (xor n1 n2), flDZ))
      else if m1 = 0 then (.ex ⟨xor n1 n2, 0, 0, false⟩, 0#10)
      else (.ex (ratio (xor n1 n2) m1 m2 (e1 - e2)), 0#10)
    | _, _ => (.nan, 0#10)
  | .sqrt =>
    match x with
    | .inf s => if s then (.nan, flNV) else (.inf false, 0#10)
    | .fin s m e =>
      if m = 0 then (.ex ⟨s, 0, 0, false⟩, 0#10) else if s then (.nan, flNV) else (.ex (sqrtX m e), 0#10)
    | .nan _ => (.nan, 0#10)
  | .rcp =>
    match x with
    | .inf s => (.ex ⟨s, 0, 0, false⟩, 0#10)
    | .fin s m e => if m = 0 then (.inf s, flDZ) else (.ex (ratio s 1 m (-e)), 0#10)
    | .nan _ => (.nan, 0#10)
  | .rsq =>
    match x with
    | .inf s => if s then (.nan, flNV) else (.ex ⟨false, 0, 0, false⟩, 0#10)
    | .fin s m e => if m = 0 then (.inf s, flDZ) else if s then (.nan, flNV) else (.ex (rsqrtX m e), 0#10)
    | .nan _ => (.nan, 0#10)

/-- How many operands an operation reads. -/
def FOp.arity : FOp → Nat
  | .add => 2 | .sub => 2 | .mul => 2 | .div => 2 | .sqrt => 1 | .fma => 3 | .fnma => 3 | .rcp => 1 | .rsq => 1

/-- Whether the product of a fused operation is 0 * inf: NV and NaN even when the addend is a quiet NaN (R177, R215). -/
def fusedInvalid (op : FOp) (x y : FVal) : Bool :=
  decide (op.arity = 3) && !x.isNaN && !y.isNaN && (xMul x y).isNone

/-- One floating element operation (R177 FpuArith, R215 FloatElem). -/
def fpArith (op : FOp) (f : FFmt) (rm : Nat) (daz ftz : Bool) (a b c : Nat) (rnd : Nat) : FRes :=
  let x := f.read daz a
  let y := f.read daz b
  let z := f.read daz c
  let ar := op.arity
  let sig := x.isSig || (decide (2 ≤ ar) && y.isSig) || (decide (3 ≤ ar) && z.isSig)
  let nan := x.isNaN || (decide (2 ≤ ar) && y.isNaN) || (decide (3 ≤ ar) && z.isNaN)
  if fusedInvalid op x y then ⟨f.canonNaN, flNV, false⟩
  else if nan then ⟨f.canonNaN, flIf sig flNV, false⟩
  else
    let (r, fl) := xOp op rm x y z
    let o := f.finish rm ftz r rnd
    ⟨o.bits, fl ||| o.fl, o.drew⟩

/-- Order of two values that are not NaN: -1, 0, 1; +0 and -0 are equal. -/
def cmpVal (x y : FVal) : Int :=
  match x, y with
  | .inf s, .inf t => if s = t then 0 else if s then -1 else 1
  | .inf s, _ => if s then -1 else 1
  | _, .inf t => if t then 1 else -1
  | .fin n1 m1 e1, .fin n2 m2 e2 =>
    let e := if e1 < e2 then e1 else e2
    let v := sgnMag n1 (m1 * 2 ^ (e1 - e).toNat) - sgnMag n2 (m2 * 2 ^ (e2 - e).toNat)
    if v < 0 then -1 else if v = 0 then 0 else 1
  | _, _ => 0

/-- Strictly below, with -0 below +0, for the selections of R178. -/
def belowVal (x y : FVal) : Bool := decide (cmpVal x y < 0) || (decide (cmpVal x y = 0) && x.neg && !y.neg)

/-- fmin and fmax (R178). -/
def fpMinMax (isMax : Bool) (f : FFmt) (daz : Bool) (a b : Nat) : FRes :=
  let a := f.dazCode daz a
  let b := f.dazCode daz b
  let x := f.decode a
  let y := f.decode b
  let fl := flIf (x.isSig || y.isSig) flNV
  if x.isNaN && y.isNaN then ⟨f.canonNaN, fl, false⟩
  else if x.isNaN then ⟨b, fl, false⟩
  else if y.isNaN then ⟨a, fl, false⟩
  else if isMax then ⟨if belowVal x y then b else a, fl, false⟩
  else ⟨if belowVal y x then b else a, fl, false⟩

/-- fabs (`clear` true) and fneg (R178). -/
def fpSign (isAbs : Bool) (f : FFmt) (daz : Bool) (a : Nat) : FRes :=
  let a := f.dazCode daz a
  let x := f.decode a
  if x.isNaN then ⟨f.canonNaN, flIf x.isSig flNV, false⟩
  else
    let mag := a % 2 ^ (f.eb + f.mb)
    ⟨f.withSign (if isAbs then false else !bitOf a (f.eb + f.mb)) mag, 0#10, false⟩

/-- The comparisons feq, flt and fle (R178). -/
inductive FCmp where
  | eq | lt | le
  deriving DecidableEq, Repr

/-- A comparison: its truth and its flags (R178). -/
def fpCompare (c : FCmp) (f : FFmt) (daz : Bool) (a b : Nat) : Bool × Fl :=
  let x := f.read daz a
  let y := f.read daz b
  if x.isNaN || y.isNaN then (false, flIf (decide (c ≠ .eq) || x.isSig || y.isSig) flNV)
  else
    let o := cmpVal x y
    (match c with | .eq => decide (o = 0) | .lt => decide (o < 0) | .le => decide (o ≤ 0), 0#10)

/-- fclass (R178): the bit number of the operand's class. -/
def fpClass (f : FFmt) (daz : Bool) (a : Nat) : Nat :=
  let a := f.dazCode daz a
  match f.decode a with
  | .inf s => if s then 0 else 7
  | .nan s => if s then 8 else 9
  | .fin s m _ => if m = 0 then (if s then 3 else 4) else if f.isSub a then (if s then 2 else 5) else (if s then 1 else 6)

/-- Floating to integer of `w` bits, signed or not (R58, R179): the low bits of the result, its flags, and whether a step was drawn.
DESIGN CHOICE (log entry 46): an out-of-range operand with a fraction takes a step of the stochastic stream, though its result has no NX. -/
def fpToInt (f : FFmt) (daz : Bool) (rm w : Nat) (signed : Bool) (a rnd : Nat) : FRes :=
  let lo : Int := if signed then -(2 ^ (w - 1) : Nat) else 0
  let hi : Int := if signed then (2 ^ (w - 1) : Nat) - 1 else (2 ^ w : Nat) - 1
  match f.read daz a with
  | .nan _ => ⟨0, flNV, false⟩
  | .inf s => ⟨wrapTo w (if s then lo else hi), flNV ||| flSAT, false⟩
  | .fin s m e =>
    let (q, inex) := roundGrid rm ⟨s, m, e, false⟩ 0 rnd
    let v := sgnMag s q
    let drew := inex && decide (4 ≤ rm)
    if v < lo then ⟨wrapTo w lo, flNV ||| flSAT, drew⟩
    else if hi < v then ⟨wrapTo w hi, flNV ||| flSAT, drew⟩
    else ⟨wrapTo w v, flIf inex flNX, drew⟩

/-- Integer to floating (R58, R179). -/
def fpOfInt (f : FFmt) (rm : Nat) (ftz : Bool) (i : Int) (rnd : Nat) : FRes :=
  f.finish rm ftz (.ex ⟨decide (i < 0), i.natAbs, 0, false⟩) rnd

/-- Conversion between floating formats other than FP8 and FP4 destinations (R58). -/
def fpConvert (src dst : FFmt) (daz : Bool) (rm : Nat) (ftz : Bool) (a rnd : Nat) : FRes :=
  let x := src.read daz a
  let o := dst.finish rm ftz x.toX rnd
  ⟨o.bits, flIf x.isSig flNV ||| o.fl, o.drew⟩

/-- How an element narrowed to E4M3, E5M2 or FP4 ends (R67-R70): a code with its flags, or out of range. -/
inductive Narrow where
  | code (bits : Nat) (fl : Fl) (drew : Bool)
  | outOfRange (neg isNaN : Bool) (fl : Fl) (drew : Bool)
  deriving DecidableEq, Repr

/-- Narrow an exact value (R67, R70). -/
def FFmt.narrow (f : FFmt) (rm : Nat) (sig : Bool) (r : XRes) (rnd : Nat) : Narrow :=
  match r with
  | .nan => if f = .fp4 then .outOfRange false true (flIf sig flNV) false else .code f.canonNaN (flIf sig flNV) false
  | .inf s => if f.ieee then .code (f.withSign s f.infCode) 0#10 false else .outOfRange s false 0#10 false
  | .ex x =>
    match f.roundFin rm false x rnd with
    | .inRange y => .code y.bits y.fl y.drew
    | .overflow drew => .outOfRange x.neg false 0#10 drew

/-- The element and flags of an out-of-range element with no outlier ring (R68). -/
def FFmt.noRing (f : FFmt) (rm : Nat) (neg isNaN : Bool) : Nat × Fl :=
  match f with
  | .fp4 => if isNaN then (0, flNV) else (f.withSign neg f.maxCode, flOF ||| flSAT ||| flNX)
  | .e4m3 => (f.withSign neg f.maxCode, flOF ||| flSAT ||| flNX)
  | _ => (f.overflowCode rm neg, flOF ||| flNX)

/-- The element and flags of an out-of-range element whose outlier ring is full (R68). -/
def FFmt.ringFull (f : FFmt) (neg isNaN : Bool) : Nat × Fl :=
  if isNaN then (0, flOLOST ||| flOF ||| flSAT ||| flNV) else (f.withSign neg f.maxCode, flOLOST ||| flOF ||| flSAT ||| flNX)

/-- The FP32 value of an outlier entry (R69), with whether it is inexact. -/
def outlierFp32 (r : XRes) : Nat × Bool :=
  let o := FFmt.f32.finish 0 false r 0
  (o.bits, decide (o.fl &&& flNX ≠ 0#10))

/-- One step of a generator stream (R55 Next). -/
def genNext (x : W32) : W32 :=
  let x := x ^^^ (x <<< 13)
  let x := x ^^^ (x >>> 17)
  x ^^^ (x <<< 5)

/-- The state of stream `j` after Seed(v) (R55). -/
def genSeed (v : W32) (j : Nat) : W32 :=
  let x := v ^^^ BitVec.ofNat 32 (j * 0x9E3779B9)
  if x = 0#32 then 0x6D2B79F5#32 else x

end Sys2Proof.Machine
end

