-- ==== Sys2Proof/Machine/Fields.lean ====
section
/-! DEFINITION. The checks of an instruction's own fields: the values that its description refuses with ILLEGAL (R79 step 8), as
tests on the fields alone. WellFormed and the meanings share them. -/
namespace Sys2Proof.Machine

/-- ORD of a fence (R136): acquire, release, acquire-release or sc. -/
def fenceLegal (ord scope : BitVec 3) (pmask : BitVec 5) : Bool :=
  decide (1 ≤ ord.toNat) && decide (ord.toNat ≤ 4) && decide (scope.toNat < 6) && decide (pmask ≠ 0)

/-- `fencex` (R136): masks that are not zero, a scope below 6. -/
def fencexLegal (smask dmask : BitVec 5) (scope : BitVec 3) : Bool :=
  decide (smask ≠ 0) && decide (dmask ≠ 0) && decide (scope.toNat < 6)

/-- ORD and SCOPE of an atomic (R323). -/
def amoLegal (ord scope : BitVec 3) : Bool :=
  decide (ord.toNat ≤ 4) && decide (scope.toNat < 6) && !(decide (ord = 0) && decide (scope ≠ 0))

/-- RMO of an FPU operation that rounds (R176). -/
def rmLegal (rm : BitVec 3) : Bool := decide (rm.toNat ≤ 4) || decide (rm.toNat = 7)

/-- The field combinations of `mxstep` (R241 check 1). -/
def mxstepLegal (sfmt blk : BitVec 2) (acnm1 acb : BitVec 3) (rnb rna fmt : BitVec 4) : Bool :=
  decide (fmt ≠ 0xF#4) && decide (sfmt ≠ 3#2) &&
  (decide (blk = 0) || (decide (4 ≤ fmt.toNat) && decide (fmt.toNat ≤ 8))) &&
  (decide (sfmt = 0) || decide (blk ≠ 0)) && decide (rna ≠ rnb) &&
  (if fmt = 0 then decide (acb.toNat % 2 = 0) && decide (acb.toNat + 2 * acnm1.toNat ≤ 6)
   else decide (acb.toNat + acnm1.toNat ≤ 7))

/-- A range of accumulators: tiles, or pairs for FP64 (R246, R247, R248). -/
def accRangeLegal (pair : Bool) (acb nm1 : BitVec 3) : Bool :=
  if pair then decide (acb.toNat % 2 = 0) && decide (acb.toNat + 2 * nm1.toNat ≤ 6) else decide (acb.toNat + nm1.toNat ≤ 7)

/-- Whether the DFMT table allows a destination format from AK (R244). -/
def dfmtFrom (ak : BitVec 2) (dfmt : BitVec 4) : Bool :=
  let d := dfmt.toNat
  if ak = 1 then decide (8 ≤ d) && decide (d ≤ 11)
  else decide (d ≤ 5) || (decide (ak = 2) && decide (d = 6))

/-- The field combinations of `mxst` (R246 check 1). -/
def mxstLegal (ts : BitVec 2) (ore : BitVec 1) (dfmt : BitVec 4) (ak : BitVec 2) (nm1 acb : BitVec 3) : Bool :=
  decide (ak ≠ 3#2) && decide (ts ≠ 3#2) && dfmtFrom ak dfmt && (decide (ts = 0) || decide (ak ≠ 1#2)) &&
  (decide (ore = 0) || (decide (3 ≤ dfmt.toNat) && decide (dfmt.toNat ≤ 5))) && accRangeLegal (decide (ak = 2#2)) acb nm1

/-- `mxst` without tensor scales names g0 in ga and gb (R244). -/
def mxstRegsLegal (ts : BitVec 2) (ga gb : Reg) : Bool := decide (ts ≠ 0) || (decide (ga = 0) && decide (gb = 0))

/-- CTR of `agcfg`: a counter 0 to 3, or 4 for the mode word (R280). -/
def agcfgLegal (ctr : BitVec 3) : Bool := decide (ctr.toNat ≤ 4)

/-- CNT and LES of `gath` and `scat` (R288). -/
def gathLegal (les : BitVec 3) (cnt : BitVec 16) : Bool := decide (cnt ≠ 0) && decide (les ≠ 7#3)

/-- N, and the address register under AGE, of `ringld` and `ringst` (R287, R288). -/
def ringldLegal (ga : Reg) (age : BitVec 1) (n : BitVec 9) : Bool :=
  decide (1 ≤ n.toNat) && decide (n.toNat ≤ 256) && (decide (age = 0) || decide (ga = 0))

/-- A format code of `cvcopy` (R293): a code of R274 other than raw, t2 and e8m0. -/
def cvFmtLegal (f : BitVec 4) : Bool := decide (1 ≤ f.toNat) && decide (f.toNat ≤ 11)

/-- The formats and outlier ring of `cvcopy` (R293). -/
def cvcopyLegal (ore : BitVec 1) (df sf : BitVec 4) : Bool :=
  cvFmtLegal df && cvFmtLegal sf && (decide (ore = 0) || (decide (9 ≤ df.toNat) && decide (df.toNat ≤ 11)))

end Sys2Proof.Machine
end

