-- ==== Sys2Proof/Syntax.lean ====
section
/-! DEFINITION. The instructions and steps of the Ilkan IK6 as syntax: one constructor for each row of the
opcode table. A constructor's operands are the fields of its encoding (R76, R81-R94, R240-R294); a row of the table that is a
step of an engine, of the memory side, of the front end or of the outside has as operands the data that come from outside the
package; a step of an engine of the package itself has none: the agent it concerns (a strand number, a queue, a partition ...) is
named by the state that runs it, as the docstring of each says. -/
namespace Sys2Proof

/-- One constructor for each row of the opcode table, the encoded words first, then the steps that carry data from outside
the package, then the steps whose agent `State.agent` names (no more constructors can carry operands at run time); each group in the
table's order. -/
inductive Instr where
  /-- ADD (R162): Writes gd := ga + gb. -/
  | add (gd : Reg) (ga : Reg) (gb : Reg)
  /-- SUB (R162): Writes gd := ga - gb. -/
  | sub (gd : Reg) (ga : Reg) (gb : Reg)
  /-- AND (R162): Writes the bitwise and of ga and gb. -/
  | and (gd : Reg) (ga : Reg) (gb : Reg)
  /-- OR (R162): Writes the bitwise or of ga and gb. -/
  | or (gd : Reg) (ga : Reg) (gb : Reg)
  /-- XOR (R162): Writes the bitwise xor of ga and gb. -/
  | xor (gd : Reg) (ga : Reg) (gb : Reg)
  /-- ANDN (R162): Writes ga and not gb. -/
  | andn (gd : Reg) (ga : Reg) (gb : Reg)
  /-- SHL (R162): Shifts ga left by gb[5:0]. -/
  | shl (gd : Reg) (ga : Reg) (gb : Reg)
  /-- SHR (R162): Shifts ga right logically by gb[5:0]. -/
  | shr (gd : Reg) (ga : Reg) (gb : Reg)
  /-- SRA (R162): Shifts ga right arithmetically by gb[5:0]. -/
  | sra (gd : Reg) (ga : Reg) (gb : Reg)
  /-- ROTR (R162): Rotates ga right by gb[5:0]. -/
  | rotr (gd : Reg) (ga : Reg) (gb : Reg)
  /-- SLT (R162): Writes 1 when ga is less than gb as i64. -/
  | slt (gd : Reg) (ga : Reg) (gb : Reg)
  /-- SLTN (R162): Writes 1 when ga is less than gb as n64. -/
  | sltn (gd : Reg) (ga : Reg) (gb : Reg)
  /-- MIN (R162): Writes the signed minimum of ga and gb. -/
  | min (gd : Reg) (ga : Reg) (gb : Reg)
  /-- MAX (R162): Writes the signed maximum of ga and gb. -/
  | max (gd : Reg) (ga : Reg) (gb : Reg)
  /-- MINN (R162): Writes the unsigned minimum of ga and gb. -/
  | minn (gd : Reg) (ga : Reg) (gb : Reg)
  /-- MAXN (R162): Writes the unsigned maximum of ga and gb. -/
  | maxn (gd : Reg) (ga : Reg) (gb : Reg)
  /-- MUL (R162): Writes the low 64 bits of ga times gb. -/
  | mul (gd : Reg) (ga : Reg) (gb : Reg)
  /-- MULH (R162): Writes the high 64 bits of the signed product. -/
  | mulh (gd : Reg) (ga : Reg) (gb : Reg)
  /-- MULHN (R162): Writes the high 64 bits of the unsigned product. -/
  | mulhn (gd : Reg) (ga : Reg) (gb : Reg)
  /-- DIV (R163): Signed division truncated toward zero, never trapping. -/
  | div (gd : Reg) (ga : Reg) (gb : Reg)
  /-- DIVN (R163): Unsigned division, never trapping. -/
  | divn (gd : Reg) (ga : Reg) (gb : Reg)
  /-- REM (R163): Signed remainder with the sign of the dividend. -/
  | rem (gd : Reg) (ga : Reg) (gb : Reg)
  /-- REMN (R163): Unsigned remainder. -/
  | remn (gd : Reg) (ga : Reg) (gb : Reg)
  /-- CLZ (R162): Counts leading zero bits of ga. -/
  | clz (gd : Reg) (ga : Reg)
  /-- CTZ (R162): Counts trailing zero bits of ga. -/
  | ctz (gd : Reg) (ga : Reg)
  /-- POPC (R162): Counts the one bits of ga. -/
  | popc (gd : Reg) (ga : Reg)
  /-- SXB (R162): Sign-extends the low byte of ga. -/
  | sxb (gd : Reg) (ga : Reg)
  /-- SXH (R162): Sign-extends the low half of ga. -/
  | sxh (gd : Reg) (ga : Reg)
  /-- SXW (R162): Sign-extends the low word of ga. -/
  | sxw (gd : Reg) (ga : Reg)
  /-- ZXW (R162): Zero-extends the low word of ga. -/
  | zxw (gd : Reg) (ga : Reg)
  /-- ADDI (R164): Adds a sign-extended immediate to ga. -/
  | addi (gd : Reg) (ga : Reg) (imm : BitVec 16)
  /-- ANDI (R164): Ands ga with a zero-extended immediate. -/
  | andi (gd : Reg) (ga : Reg) (imm : BitVec 16)
  /-- ORI (R164): Ors ga with a zero-extended immediate. -/
  | ori (gd : Reg) (ga : Reg) (imm : BitVec 16)
  /-- XORI (R164): Xors ga with a zero-extended immediate. -/
  | xori (gd : Reg) (ga : Reg) (imm : BitVec 16)
  /-- SHI_L (R165): Shifts ga left by an immediate amount. -/
  | shiL (gd : Reg) (ga : Reg) (sh : BitVec 6)
  /-- SHI_R (R165): Shifts ga right logically by an immediate amount. -/
  | shiR (gd : Reg) (ga : Reg) (sh : BitVec 6)
  /-- SHI_A (R165): Shifts ga right arithmetically by an immediate amount. -/
  | shiA (gd : Reg) (ga : Reg) (sh : BitVec 6)
  /-- SHI_O (R165): Rotates ga right by an immediate amount. -/
  | shiO (gd : Reg) (ga : Reg) (sh : BitVec 6)
  /-- SLTI (R164): Signed compare of ga with an immediate. -/
  | slti (gd : Reg) (ga : Reg) (imm : BitVec 16)
  /-- SLTNI (R164): Unsigned compare of ga with a sign-extended immediate. -/
  | sltni (gd : Reg) (ga : Reg) (imm : BitVec 16)
  /-- LUI (R164): Loads a sign-extended immediate shifted left by 16. -/
  | lui (gd : Reg) (imm : BitVec 16)
  /-- ADDPC (R164): Adds a shifted immediate to the instruction's address. -/
  | addpc (gd : Reg) (imm : BitVec 16)
  /-- MULI (R164): Multiplies ga by a sign-extended immediate. -/
  | muli (gd : Reg) (ga : Reg) (imm : BitVec 16)
  /-- LDB (R166): Loads a sign-extended byte on the LS path. -/
  | ldb (gd : Reg) (ga : Reg) (imm : BitVec 16)
  /-- LDH (R166): Loads a sign-extended half. -/
  | ldh (gd : Reg) (ga : Reg) (imm : BitVec 16)
  /-- LDW (R166): Loads a sign-extended word. -/
  | ldw (gd : Reg) (ga : Reg) (imm : BitVec 16)
  /-- LDD (R166): Loads eight bytes. -/
  | ldd (gd : Reg) (ga : Reg) (imm : BitVec 16)
  /-- LDBN (R166): Loads a zero-extended byte. -/
  | ldbn (gd : Reg) (ga : Reg) (imm : BitVec 16)
  /-- LDHN (R166): Loads a zero-extended half. -/
  | ldhn (gd : Reg) (ga : Reg) (imm : BitVec 16)
  /-- LDWN (R166): Loads a zero-extended word. -/
  | ldwn (gd : Reg) (ga : Reg) (imm : BitVec 16)
  /-- STB (R166): Stores the low byte of gd into the store buffer. -/
  | stb (gd : Reg) (ga : Reg) (imm : BitVec 16)
  /-- STH (R166): Stores the low half of gd. -/
  | sth (gd : Reg) (ga : Reg) (imm : BitVec 16)
  /-- STW (R166): Stores the low word of gd. -/
  | stw (gd : Reg) (ga : Reg) (imm : BitVec 16)
  /-- STD (R166): Stores all eight bytes of gd. -/
  | std (gd : Reg) (ga : Reg) (imm : BitVec 16)
  /-- BEQ (R172): Branches when ga equals gb. -/
  | beq (ga : Reg) (gb : Reg) (imm : BitVec 16)
  /-- BNE (R172): Branches when ga differs from gb. -/
  | bne (ga : Reg) (gb : Reg) (imm : BitVec 16)
  /-- BLT (R172): Branches when ga is less than gb as signed. -/
  | blt (ga : Reg) (gb : Reg) (imm : BitVec 16)
  /-- BGE (R172): Branches when ga is at least gb as signed. -/
  | bge (ga : Reg) (gb : Reg) (imm : BitVec 16)
  /-- BLTN (R172): Branches when ga is less than gb as unsigned. -/
  | bltn (ga : Reg) (gb : Reg) (imm : BitVec 16)
  /-- BGEN (R172): Branches when ga is at least gb as unsigned. -/
  | bgen (ga : Reg) (gb : Reg) (imm : BitVec 16)
  /-- JAL (R173): Jumps PC-relative and writes the link into gd. -/
  | jal (gd : Reg) (imm : BitVec 21)
  /-- JALR (R173): Jumps to ga plus offset and writes the link into gd. -/
  | jalr (gd : Reg) (ga : Reg) (imm : BitVec 16)
  /-- NOP (R174): Does nothing. -/
  | nop
  /-- HALT (R175): Traps if a loop runs, else waits for all commands and accesses to be performed before ending the strand. -/
  | halt
  /-- TRAPI (R174): Raises TRAPI with an 8-bit code. -/
  | trapi (code : BitVec 8)
  /-- RETT (R157): Returns from a handler, resumes halted engines and delivers any held engine trap. -/
  | rett
  /-- BREAK (R174): Raises BREAK. -/
  | brk
  /-- CRR (R174): Reads a control register into gd. -/
  | crr (gd : Reg) (creg : BitVec 12)
  /-- CRW (R149): Writes a control register field by field, seeding the generators for FPCTL. -/
  | crw (ga : Reg) (creg : BitVec 12)
  /-- CRS (R149): Sets bits of a control register. -/
  | crs (ga : Reg) (creg : BitVec 12)
  /-- CRC (R149): Clears bits of a control register. -/
  | crc (ga : Reg) (creg : BitVec 12)
  /-- FENCE (R137): Release and/or acquire barrier over the paths and scope named. -/
  | fence (ord : BitVec 3) (scope : BitVec 3) (pmask : BitVec 5)
  /-- FENCEX (R138): Orders later accesses on destination paths after earlier accesses on source paths. -/
  | fencex (smask : BitVec 5) (dmask : BitVec 5) (scope : BitVec 3)
  /-- AMOADD_32 (R320): Atomic 32-bit add at the home slice, returning the old value. -/
  | amoadd32 (gd : Reg) (ga : Reg) (gb : Reg) (ord : BitVec 3) (scope : BitVec 3)
  /-- AMOADD_64 (R320): Atomic 64-bit add returning the old value. -/
  | amoadd64 (gd : Reg) (ga : Reg) (gb : Reg) (ord : BitVec 3) (scope : BitVec 3)
  /-- AMOMIN_I32 (R320): Atomic signed 32-bit minimum. -/
  | amominI32 (gd : Reg) (ga : Reg) (gb : Reg) (ord : BitVec 3) (scope : BitVec 3)
  /-- AMOMIN_N32 (R320): Atomic unsigned 32-bit minimum. -/
  | amominN32 (gd : Reg) (ga : Reg) (gb : Reg) (ord : BitVec 3) (scope : BitVec 3)
  /-- AMOMIN_I64 (R320): Atomic signed 64-bit minimum. -/
  | amominI64 (gd : Reg) (ga : Reg) (gb : Reg) (ord : BitVec 3) (scope : BitVec 3)
  /-- AMOMIN_N64 (R320): Atomic unsigned 64-bit minimum. -/
  | amominN64 (gd : Reg) (ga : Reg) (gb : Reg) (ord : BitVec 3) (scope : BitVec 3)
  /-- AMOMAX_I32 (R320): Atomic signed 32-bit maximum. -/
  | amomaxI32 (gd : Reg) (ga : Reg) (gb : Reg) (ord : BitVec 3) (scope : BitVec 3)
  /-- AMOMAX_N32 (R320): Atomic unsigned 32-bit maximum. -/
  | amomaxN32 (gd : Reg) (ga : Reg) (gb : Reg) (ord : BitVec 3) (scope : BitVec 3)
  /-- AMOMAX_I64 (R320): Atomic signed 64-bit maximum. -/
  | amomaxI64 (gd : Reg) (ga : Reg) (gb : Reg) (ord : BitVec 3) (scope : BitVec 3)
  /-- AMOMAX_N64 (R320): Atomic unsigned 64-bit maximum. -/
  | amomaxN64 (gd : Reg) (ga : Reg) (gb : Reg) (ord : BitVec 3) (scope : BitVec 3)
  /-- AMOFADD_F32 (R320): Atomic FP32 add rounded to nearest even. -/
  | amofaddF32 (gd : Reg) (ga : Reg) (gb : Reg) (ord : BitVec 3) (scope : BitVec 3)
  /-- AMOFADD_F64 (R320): Atomic FP64 add rounded to nearest even. -/
  | amofaddF64 (gd : Reg) (ga : Reg) (gb : Reg) (ord : BitVec 3) (scope : BitVec 3)
  /-- AMOFADD_BF16X2 (R320): Atomic add of two BF16 elements. -/
  | amofaddBf16x2 (gd : Reg) (ga : Reg) (gb : Reg) (ord : BitVec 3) (scope : BitVec 3)
  /-- AMOAND_32 (R320): Atomic 32-bit and. -/
  | amoand32 (gd : Reg) (ga : Reg) (gb : Reg) (ord : BitVec 3) (scope : BitVec 3)
  /-- AMOAND_64 (R320): Atomic 64-bit and. -/
  | amoand64 (gd : Reg) (ga : Reg) (gb : Reg) (ord : BitVec 3) (scope : BitVec 3)
  /-- AMOOR_32 (R320): Atomic 32-bit or. -/
  | amoor32 (gd : Reg) (ga : Reg) (gb : Reg) (ord : BitVec 3) (scope : BitVec 3)
  /-- AMOOR_64 (R320): Atomic 64-bit or. -/
  | amoor64 (gd : Reg) (ga : Reg) (gb : Reg) (ord : BitVec 3) (scope : BitVec 3)
  /-- AMOXOR_32 (R320): Atomic 32-bit xor. -/
  | amoxor32 (gd : Reg) (ga : Reg) (gb : Reg) (ord : BitVec 3) (scope : BitVec 3)
  /-- AMOXOR_64 (R320): Atomic 64-bit xor. -/
  | amoxor64 (gd : Reg) (ga : Reg) (gb : Reg) (ord : BitVec 3) (scope : BitVec 3)
  /-- AMOSWAP_32 (R320): Atomic 32-bit swap. -/
  | amoswap32 (gd : Reg) (ga : Reg) (gb : Reg) (ord : BitVec 3) (scope : BitVec 3)
  /-- AMOSWAP_64 (R320): Atomic 64-bit swap. -/
  | amoswap64 (gd : Reg) (ga : Reg) (gb : Reg) (ord : BitVec 3) (scope : BitVec 3)
  /-- AMOINC_32 (R320): Atomic 32-bit wrapping increment against a bound. -/
  | amoinc32 (gd : Reg) (ga : Reg) (gb : Reg) (ord : BitVec 3) (scope : BitVec 3)
  /-- AMOINC_64 (R320): Atomic 64-bit wrapping increment against a bound. -/
  | amoinc64 (gd : Reg) (ga : Reg) (gb : Reg) (ord : BitVec 3) (scope : BitVec 3)
  /-- AMODEC_32 (R320): Atomic 32-bit wrapping decrement against a bound. -/
  | amodec32 (gd : Reg) (ga : Reg) (gb : Reg) (ord : BitVec 3) (scope : BitVec 3)
  /-- AMODEC_64 (R320): Atomic 64-bit wrapping decrement against a bound. -/
  | amodec64 (gd : Reg) (ga : Reg) (gb : Reg) (ord : BitVec 3) (scope : BitVec 3)
  /-- AMOCAS_32 (R325): Atomic 32-bit compare-and-swap with expected value in gd. -/
  | amocas32 (gd : Reg) (ga : Reg) (gb : Reg) (ord : BitVec 3) (scope : BitVec 3)
  /-- AMOCAS_64 (R325): Atomic 64-bit compare-and-swap with expected value in gd. -/
  | amocas64 (gd : Reg) (ga : Reg) (gb : Reg) (ord : BitVec 3) (scope : BitVec 3)
  /-- REDADD_32 (R326): Reduction 32-bit add, plain or redirected by the descriptor in gd. -/
  | redadd32 (gd : Reg) (ga : Reg) (gb : Reg) (ord : BitVec 3) (scope : BitVec 3)
  /-- REDADD_64 (R326): Reduction 64-bit add. -/
  | redadd64 (gd : Reg) (ga : Reg) (gb : Reg) (ord : BitVec 3) (scope : BitVec 3)
  /-- REDMIN_I32 (R326): Reduction signed 32-bit minimum. -/
  | redminI32 (gd : Reg) (ga : Reg) (gb : Reg) (ord : BitVec 3) (scope : BitVec 3)
  /-- REDMIN_N32 (R326): Reduction unsigned 32-bit minimum. -/
  | redminN32 (gd : Reg) (ga : Reg) (gb : Reg) (ord : BitVec 3) (scope : BitVec 3)
  /-- REDMIN_I64 (R326): Reduction signed 64-bit minimum. -/
  | redminI64 (gd : Reg) (ga : Reg) (gb : Reg) (ord : BitVec 3) (scope : BitVec 3)
  /-- REDMIN_N64 (R326): Reduction unsigned 64-bit minimum. -/
  | redminN64 (gd : Reg) (ga : Reg) (gb : Reg) (ord : BitVec 3) (scope : BitVec 3)
  /-- REDMAX_I32 (R326): Reduction signed 32-bit maximum. -/
  | redmaxI32 (gd : Reg) (ga : Reg) (gb : Reg) (ord : BitVec 3) (scope : BitVec 3)
  /-- REDMAX_N32 (R326): Reduction unsigned 32-bit maximum. -/
  | redmaxN32 (gd : Reg) (ga : Reg) (gb : Reg) (ord : BitVec 3) (scope : BitVec 3)
  /-- REDMAX_I64 (R326): Reduction signed 64-bit maximum. -/
  | redmaxI64 (gd : Reg) (ga : Reg) (gb : Reg) (ord : BitVec 3) (scope : BitVec 3)
  /-- REDMAX_N64 (R326): Reduction unsigned 64-bit maximum. -/
  | redmaxN64 (gd : Reg) (ga : Reg) (gb : Reg) (ord : BitVec 3) (scope : BitVec 3)
  /-- REDFADD_F32 (R326): Reduction FP32 add. -/
  | redfaddF32 (gd : Reg) (ga : Reg) (gb : Reg) (ord : BitVec 3) (scope : BitVec 3)
  /-- REDFADD_F64 (R326): Reduction FP64 add. -/
  | redfaddF64 (gd : Reg) (ga : Reg) (gb : Reg) (ord : BitVec 3) (scope : BitVec 3)
  /-- REDFADD_BF16X2 (R326): Reduction add of two BF16 elements. -/
  | redfaddBf16x2 (gd : Reg) (ga : Reg) (gb : Reg) (ord : BitVec 3) (scope : BitVec 3)
  /-- REDAND_32 (R326): Reduction 32-bit and. -/
  | redand32 (gd : Reg) (ga : Reg) (gb : Reg) (ord : BitVec 3) (scope : BitVec 3)
  /-- REDAND_64 (R326): Reduction 64-bit and. -/
  | redand64 (gd : Reg) (ga : Reg) (gb : Reg) (ord : BitVec 3) (scope : BitVec 3)
  /-- REDOR_32 (R326): Reduction 32-bit or. -/
  | redor32 (gd : Reg) (ga : Reg) (gb : Reg) (ord : BitVec 3) (scope : BitVec 3)
  /-- REDOR_64 (R326): Reduction 64-bit or. -/
  | redor64 (gd : Reg) (ga : Reg) (gb : Reg) (ord : BitVec 3) (scope : BitVec 3)
  /-- REDXOR_32 (R326): Reduction 32-bit xor. -/
  | redxor32 (gd : Reg) (ga : Reg) (gb : Reg) (ord : BitVec 3) (scope : BitVec 3)
  /-- REDXOR_64 (R326): Reduction 64-bit xor. -/
  | redxor64 (gd : Reg) (ga : Reg) (gb : Reg) (ord : BitVec 3) (scope : BitVec 3)
  /-- REDSWAP_32 (R326): Reduction 32-bit swap. -/
  | redswap32 (gd : Reg) (ga : Reg) (gb : Reg) (ord : BitVec 3) (scope : BitVec 3)
  /-- REDSWAP_64 (R326): Reduction 64-bit swap. -/
  | redswap64 (gd : Reg) (ga : Reg) (gb : Reg) (ord : BitVec 3) (scope : BitVec 3)
  /-- REDINC_32 (R326): Reduction 32-bit bounded increment. -/
  | redinc32 (gd : Reg) (ga : Reg) (gb : Reg) (ord : BitVec 3) (scope : BitVec 3)
  /-- REDINC_64 (R326): Reduction 64-bit bounded increment. -/
  | redinc64 (gd : Reg) (ga : Reg) (gb : Reg) (ord : BitVec 3) (scope : BitVec 3)
  /-- REDDEC_32 (R326): Reduction 32-bit bounded decrement. -/
  | reddec32 (gd : Reg) (ga : Reg) (gb : Reg) (ord : BitVec 3) (scope : BitVec 3)
  /-- REDDEC_64 (R326): Reduction 64-bit bounded decrement. -/
  | reddec64 (gd : Reg) (ga : Reg) (gb : Reg) (ord : BitVec 3) (scope : BitVec 3)
  /-- FADD (R177): Scalar floating add. -/
  | fadd (gd : Reg) (ga : Reg) (gb : Reg) (p : BitVec 1) (rm : BitVec 3)
  /-- FSUB (R177): Scalar floating subtract. -/
  | fsub (gd : Reg) (ga : Reg) (gb : Reg) (p : BitVec 1) (rm : BitVec 3)
  /-- FMUL (R177): Scalar floating multiply. -/
  | fmul (gd : Reg) (ga : Reg) (gb : Reg) (p : BitVec 1) (rm : BitVec 3)
  /-- FDIV (R177): Scalar floating divide. -/
  | fdiv (gd : Reg) (ga : Reg) (gb : Reg) (p : BitVec 1) (rm : BitVec 3)
  /-- FSQRT (R177): Scalar floating square root. -/
  | fsqrt (gd : Reg) (ga : Reg) (p : BitVec 1) (rm : BitVec 3)
  /-- FMAC (R177): Fused multiply-add into gd. -/
  | fmac (gd : Reg) (ga : Reg) (gb : Reg) (p : BitVec 1) (rm : BitVec 3)
  /-- FNMAC (R177): Fused negated multiply-add into gd. -/
  | fnmac (gd : Reg) (ga : Reg) (gb : Reg) (p : BitVec 1) (rm : BitVec 3)
  /-- FMIN (R178): Floating minimum. -/
  | fmin (gd : Reg) (ga : Reg) (gb : Reg) (p : BitVec 1)
  /-- FMAX (R178): Floating maximum. -/
  | fmax (gd : Reg) (ga : Reg) (gb : Reg) (p : BitVec 1)
  /-- FABS (R178): Floating absolute value. -/
  | fabs (gd : Reg) (ga : Reg) (p : BitVec 1)
  /-- FNEG (R178): Floating negation. -/
  | fneg (gd : Reg) (ga : Reg) (p : BitVec 1)
  /-- FEQ (R178): Floating equality compare. -/
  | feq (gd : Reg) (ga : Reg) (gb : Reg) (p : BitVec 1)
  /-- FLT (R178): Floating less-than compare. -/
  | flt (gd : Reg) (ga : Reg) (gb : Reg) (p : BitVec 1)
  /-- FLE (R178): Floating less-or-equal compare. -/
  | fle (gd : Reg) (ga : Reg) (gb : Reg) (p : BitVec 1)
  /-- FCLASS (R178): Classifies a floating operand into a one-hot mask. -/
  | fclass (gd : Reg) (ga : Reg) (p : BitVec 1)
  /-- FCVTFI (R179): Converts floating to i64. -/
  | fcvtfi (gd : Reg) (ga : Reg) (p : BitVec 1) (rm : BitVec 3)
  /-- FCVTFN (R179): Converts floating to n64. -/
  | fcvtfn (gd : Reg) (ga : Reg) (p : BitVec 1) (rm : BitVec 3)
  /-- FCVTIF (R179): Converts i64 to floating. -/
  | fcvtif (gd : Reg) (ga : Reg) (p : BitVec 1) (rm : BitVec 3)
  /-- FCVTNF (R179): Converts n64 to floating. -/
  | fcvtnf (gd : Reg) (ga : Reg) (p : BitVec 1) (rm : BitVec 3)
  /-- FCVTFF (R179): Converts between FP32 and FP64. -/
  | fcvtff (gd : Reg) (ga : Reg) (p : BitVec 1) (rm : BitVec 3)
  /-- PIN (R332): Pins the line holding ga at its home slice and returns a code. -/
  | pin (gd : Reg) (ga : Reg)
  /-- UNPIN (R332): Unpins the line holding ga and returns a code. -/
  | unpin (gd : Reg) (ga : Reg)
  /-- DISCARD (R333): Drops the lines of a range without write-back. -/
  | discard (ga : Reg) (gb : Reg)
  /-- WBACK (R334): Writes back the dirty backed lines of a range. -/
  | wback (ga : Reg) (gb : Reg)
  /-- L1INV (R335): Invalidates every L1-mode line of the core. -/
  | l1inv
  /-- ARRINIT (R272): Sets an arrival object's TARGET and clears COUNT, FLAGS and STATUS_CUR. -/
  | arrinit (ga : Reg) (gb : Reg)
  /-- ARRADD (R272): Makes an arrival of gb[31:0] on an object. -/
  | arradd (ga : Reg) (gb : Reg)
  /-- ARRWAIT (R272): Waits until an object's GEN differs from gb, acting as an acquire. -/
  | arrwait (ga : Reg) (gb : Reg)
  /-- ARRPOLL (R272): Returns an object's GEN without waiting. -/
  | arrpoll (gd : Reg) (ga : Reg)
  /-- CTXLD (R190): Reads, checks and loads a context block, directly or into the shadow. -/
  | ctxld (ga : Reg)
  /-- LPGO (R200): Checks and starts a loop instance from a header slot. -/
  | lpgo (ga : Reg) (gb : Reg)
  /-- LPSTOP (R205): Sets EXIT of a running loop with EXITIX all ones. -/
  | lpstop
  /-- LPSTAT (R205): Returns a snapshot of the region sequencer. -/
  | lpstat (gd : Reg)
  /-- SQW (R205): Writes sq at once or at the next wrap. -/
  | sqw (ga : Reg)
  /-- TOKSEND (R207): Sends a token to a channel of a footprint core. -/
  | toksend (ga : Reg) (ch : BitVec 4)
  /-- TOKWAIT (R207): Waits until a token channel is set, then clears it. -/
  | tokwait (ch : BitVec 4)
  /-- TOKBC (R207): Sends a token to every core of an aligned subgroup. -/
  | tokbc (ga : Reg) (ch : BitVec 4)
  /-- TOKPOLL (R207): Returns and clears a token channel bit. -/
  | tokpoll (gd : Reg) (ch : BitVec 4)
  /-- GIVE (R267): Checks a bank give, marks the source slot draining and waits for its accesses. -/
  | give (ga : Reg) (gb : Reg)
  /-- BL1 (R265): Starts switching a slot to L1 mode after a drain. -/
  | bl1 (n : BitVec 4)
  /-- BSCR (R265): Starts switching a slot to scratch mode after a drain. -/
  | bscr (n : BitVec 4)
  /-- RGLD (R276): Loads and checks a ring descriptor from memory. -/
  | rgld (ga : Reg) (n : BitVec 4)
  /-- RGSV (R276): Stores a ring descriptor to memory. -/
  | rgsv (ga : Reg) (n : BitVec 4)
  /-- RGOFF (R276): Clears a ring descriptor. -/
  | rgoff (n : BitVec 4)
  /-- RGPUSH (R276): Reserves and pushes the next ring tile from LS-written bytes. -/
  | rgpush (n : BitVec 4)
  /-- RGPOP (R276): Pops the head tile of a ring. -/
  | rgpop (n : BitVec 4)
  /-- RGSTAT (R276): Returns a snapshot of a ring's counts. -/
  | rgstat (gd : Reg) (n : BitVec 4)
  /-- SEND (R296): Queues a message send to footprint cores. -/
  | send (gd : Reg) (ga : Reg) (gb : Reg)
  /-- POST (R297): Registers a receive or consumes a matching overflow entry. -/
  | post (gd : Reg) (ga : Reg) (gb : Reg)
  /-- UNPOST (R297): Removes a posted receive. -/
  | unpost (gd : Reg) (ga : Reg)
  /-- SHQ (R359): Returns the start and kind of a future shutter. -/
  | shq (gd : Reg) (ga : Reg)
  /-- SHWAIT (R359): Waits until the current shutter has ended. -/
  | shwait
  /-- SHSPAN (R359): Returns the ck left before the next shutter drain. -/
  | shspan (gd : Reg)
  /-- NRUN (R360): Submits a node program request to a memory node. -/
  | nrun (gd : Reg) (ga : Reg) (gb : Reg)
  /-- PCQ (R361): Returns the pseudo-channel and stack of an address. -/
  | pcq (gd : Reg) (ga : Reg)
  /-- KSET (R407): Loads keys into an idle key slot and zeroes the key block. -/
  | kset (gd : Reg) (ga : Reg) (gb : Reg)
  /-- KZERO (R407): Zeroes a loaded key slot's keys. -/
  | kzero (gd : Reg) (ga : Reg)
  /-- SCRGO (R407): Starts the scrub of a zeroed key slot. -/
  | scrgo (gd : Reg) (ga : Reg)
  /-- SCRQ (R407): Returns a snapshot of SCRPROG. -/
  | scrq (gd : Reg) (ga : Reg)
  /-- MXSTEP (R241): Checks and queues a tile step in the matrix sub-queue. -/
  | mxstep (ga gc : Reg) (fresh : BitVec 1) (sfmt blk : BitVec 2) (pb pa : BitVec 3) (shape : BitVec 2) (acnm1 acb : BitVec 3) (rnb rna fmt : BitVec 4)
  /-- MXZERO (R248): Queues zeroing of a range of accumulator tiles. -/
  | mxzero (nm1 acb : BitVec 3)
  /-- MXLD (R247): Queues loading of accumulators from a ring. -/
  | mxld (gc : Reg) (lf : BitVec 2) (nm1 acb : BitVec 3) (rs : BitVec 4)
  /-- MXST (R244): Queues storing of accumulators to a ring with conversion. -/
  | mxst (ga gb gc : Reg) (ts : BitVec 2) (orn : BitVec 4) (ore : BitVec 1) (dfmt : BitVec 4) (ak : BitVec 2) (nm1 acb : BitVec 3) (rd : BitVec 4)
  /-- MXMOV (R248): Queues a copy or transpose of one accumulator tile. -/
  | mxmov (tr : BitVec 1) (dst src : BitVec 3)
  /-- MXSYNC (R249): Waits until the matrix sub-queue is empty and its pushes landed. -/
  | mxsync
  /-- AGCFG (R280): Configures a counter or mode of an address-generator tile. -/
  | agcfg (ga gb : Reg) (ctr : BitVec 3) (ag : BitVec 2)
  /-- AGRUN (R281): Starts a bound address-generator tile. -/
  | agrun (fch : BitVec 4) (fen : BitVec 1) (sch : BitVec 4) (sen : BitVec 1) (ag : BitVec 2)
  /-- COPY (R290): Queues a block copy. -/
  | copy (ga gb gc gd : Reg)
  /-- GATH (R291): Queues a gather by index vector. -/
  | gath (ga gb gc gd : Reg) (les : BitVec 3) (cnt : BitVec 16)
  /-- SCAT (R291): Queues a scatter by index vector. -/
  | scat (ga gb gc gd : Reg) (les : BitVec 3) (cnt : BitVec 16)
  /-- RINGLD (R292): Queues filling of ring tiles from memory. -/
  | ringld (ga : Reg) (ag : BitVec 2) (age : BitVec 1) (n : BitVec 9) (rg : BitVec 4)
  /-- RINGST (R292): Queues draining of ring tiles to memory. -/
  | ringst (ga : Reg) (ag : BitVec 2) (age : BitVec 1) (n : BitVec 9) (rg : BitVec 4)
  /-- TSLOAD (R285): Queues loading of a tensor descriptor into a slot. -/
  | tsload (ga : Reg) (slot : BitVec 6)
  /-- DELIV (R294): Queues a core-to-core delivery. -/
  | deliv (ga gb gc gd : Reg) (dst : BitVec 20)
  /-- CVCOPY (R293): Queues a copy with format conversion. -/
  | cvcopy (ga gb gc gd : Reg) (ore : BitVec 1) (orn df sf : BitVec 4)
  /-- AGSTOP (R282): Stops an address-generator tile at its next element boundary. -/
  | agstop (ag : BitVec 2)
  /-- EDGE_ATOMIC (R328): A peer atomic is performed in the UALink edge cache; its operands carry their poison (R73). -/
  | edgeAtomic (src pa : Nat) (cas : Bool) (op : BitVec 5) (b e : BitVec 64 × Bool)
  /-- HOST_ATOMIC_COMPLETION (R329): A PCIe AtomicOp completion returns the old value, with its poison (R73). -/
  | hostAtomicCompletion (k : Nat) (ok : Bool) (old : BitVec 64 × Bool)
  /-- FORWARDED_ACCESS (R349): An access to a host or peer page is forwarded at line grain; its bytes carry their poison (R337). -/
  | forwardedAccess (sn id : Nat) (ok : Bool) (data : List (BitVec 8 × Bool))
  /-- REMAP_TABLE_ERROR (R341): An uncorrectable remap-table copy error switches copies or takes a pseudo-channel offline. -/
  | remapTableError (stack cp pc : Nat)
  /-- SLWCMD_GO (R307): Starts a way-mask change for a partition on one or all slices. -/
  | slwcmdGo (v : BitVec 64)
  /-- RSVPTR_TAIL_WRITE (R316): Provides reserve frames, releasing held spills. -/
  | rsvptrTailWrite (p d : Nat) (v : BitVec 64)
  /-- PORTCTL_HOSTEN_WRITE (R330): Enables host frames or is refused with REF. -/
  | portctlHostenWrite (p : Nat) (v : BitVec 64)
  /-- XINV_GO (R346): Starts a translation invalidation. -/
  | xinvGo (p : Nat) (v : BitVec 64)
  /-- FBCTL_FLUSH (R348): Advances GEN and retries every parked access. -/
  | fbctlFlush (p : Nat)
  /-- MGCTL_MOVE (R350): Migration job moving a page and rewriting its entry. -/
  | mgctlMove (d : Nat) (v : BitVec 64)
  /-- MGCTL_CHECKPOINT_READ (R350): Migration job copying a page without remap. -/
  | mgctlCheckpointRead (d : Nat) (v : BitVec 64)
  /-- MGCTL_REHOME (R350): Migration job re-homing an unbacked page. -/
  | mgctlRehome (d : Nat) (v : BitVec 64)
  /-- NEND (R354): Ends the node program and returns the completion word. -/
  | nend
  /-- NSCAN (R352): Reads an address range into a stream. -/
  | nscan (ty : BitVec 3) (ds : BitVec 3) (imm : BitVec 4)
  /-- NGATH (R352): Gathers elements by index stream. -/
  | ngath (ty : BitVec 3) (ds : BitVec 3) (sa : BitVec 3) (imm : BitVec 4)
  /-- NFILT (R352): Forms a comparison mask stream. -/
  | nfilt (ty : BitVec 3) (ds : BitVec 3) (sa : BitVec 3) (sb : BitVec 3) (cmp : BitVec 3) (sel : BitVec 1) (imm : BitVec 4)
  /-- NCMPK (R352): Compacts a stream by a mask. -/
  | ncmpk (ty : BitVec 3) (ds : BitVec 3) (sa : BitVec 3) (sb : BitVec 3)
  /-- NSUM (R353): Sums a stream in order. -/
  | nsum (ty : BitVec 3) (ds : BitVec 3) (sa : BitVec 3)
  /-- NMIN (R353): Takes the minimum of a stream. -/
  | nmin (ty : BitVec 3) (ds : BitVec 3) (sa : BitVec 3)
  /-- NMAX (R353): Takes the maximum of a stream. -/
  | nmax (ty : BitVec 3) (ds : BitVec 3) (sa : BitVec 3)
  /-- NCNT (R353): Counts the elements of a stream. -/
  | ncnt (ty : BitVec 3) (ds : BitVec 3) (sa : BitVec 3)
  /-- NEMIT (R354): Pushes a stream into the requesting strand's ring. -/
  | nemit (ty : BitVec 3) (sa : BitVec 3) (imm : BitVec 4)
  /-- QUEUE_TAIL_NOTICE (R365): The front end notices a TAIL write and reads new packets. -/
  | queueTailNotice (q : Nat)
  /-- QCTL_RUN (R364): Makes a stopped queue active. -/
  | qctlRun (q : Nat)
  /-- QCTL_SKIP (R364): Completes the packet at HEAD with error 0x01 and passes over it. -/
  | qctlSkip (q : Nat)
  /-- PREEMPT_REQUEST (R40): A strand's engines halt at their next boundaries. -/
  | preemptRequest (sn : Nat)
  /-- PLACER_MOVE (R39): The placer moves an instance to a new position. -/
  | placerMove (kinst : Nat)
  /-- PRECTL_RST (R386): Firmware resets a partition. -/
  | prectlRst (v : BitVec 64)
  /-- PRECTL_EVICT (R387): Evicts an instance and completes its packet with 0x0B. -/
  | prectlEvict (v : BitVec 64)
  /-- PRECTL_FREE (R387): Frees the image slots of an instance. -/
  | prectlFree (v : BitVec 64)
  /-- UNCONTAINED_FAULT (R31): A device error in a route header triggers partition reset. -/
  | uncontainedFault (p : Nat) (header : BitVec 64)
  /-- VF_FLR (R399): A function-level reset marks the function's ranges uncleared. -/
  | vfFlr (v : Nat)
  /-- KEY_SLOT_REG_WRITE (R401): A write of PCTX, PCBANK or KRANGE, refused unless the slot is idle. -/
  | keySlotRegWrite (off : Nat) (v : BitVec 64)
  /-- SECLAUNCH_GO (R405): The monitor starts a privileged launch. -/
  | seclaunchGo (v : BitVec 64)
  /-- CLAIM (R408): A management master claims ownership. -/
  | claim (m : Nat)
  /-- HANDOVER (R408): The owner offers ownership to another master. -/
  | handover (m t : Nat)
  /-- RELEASE (R408): The owner releases ownership. -/
  | release (m : Nat)
  /-- CURRENT_GATE (R410): A die's current above LIMA gates its cores. -/
  | currentGate (die : Nat)
  /-- TICKET_WRITE (R413): The edge accepts or drops a member's segment or ticket write. -/
  | ticketWrite (desc pkg member : Nat) (ticket : Bool) (off : Nat) (data : List (BitVec 8 × Bool))
  /-- CFG_REGISTER_WRITE (R391): A write to a configuration register without behaviour of its own; `v` is the bytes stored, the lowest first. -/
  | cfgRegisterWrite (mode off : Nat) (v : List (BitVec 8))
  /-- UNASSIGNED_OPCODE (R81): The sequencer decodes a word whose major opcode is reserved, such as 0x0000_0000, and raises ILLEGAL. -/
  | unassignedOpcode (w : BitVec 32)
  /-- ATTESTATION_REPORT (R397): On request of the owner or a tenant's function, the monitor signs a report with the alias key carrying the nonce, DIGEST, VERSION and configuration digests. -/
  | attestationReport (who : Nat) (nonce : BitVec 256)
  /-- ARRAY_STEP (R192): On an offered wheel slot, executes one row of the strand's loop and commits or holds it (agent: a strand number). -/
  | arrayStep
  /-- ARRAY_CHECKS_ANSWERED (R193): The check replies of a step's accesses arrive, and the step commits or is discarded (agent: a strand number). -/
  | arrayChecksAnswered
  /-- ARRAY_FLUSH_SLOT (R199): In FLUSH, an offered slot ages the flight registers by one (agent: a strand number). -/
  | arrayFlushSlot
  /-- LOAD_QUEUE_FILL (R196): A reply fills a PE load-queue entry (agent: a strand number, b PE, c index). -/
  | loadQueueFill
  /-- MX_INTERVAL (R242): On a matrix wheel interval, performs one interval of the head tile step (agent: a strand number). -/
  | mxInterval
  /-- MX_TRANSFER_UNIT (R250): Moves 128 bytes of an mxld or mxst tile on an interval slot (agent: a strand number). -/
  | mxTransferUnit
  /-- MX_TILE_UNIT (R248): Zeroes or moves one tile of an mxzero or mxmov (agent: a strand number). -/
  | mxTileUnit
  /-- STREAM_ELEMENT_STEP (R289): Performs one element of the strand's current stream command (agent: a strand number). -/
  | streamElementStep
  /-- AG_ELEMENT (R281): A bound address-generator tile feeds or drains one PE queue element (agent: a strand number, b tile). -/
  | agElement
  /-- RING_TILE_LANDED (R275): A reserved tile's bytes land and TAIL advances in reservation order (agent: a strand number, b ring). -/
  | ringTileLanded
  /-- DELIVERY_CHUNK (R268): A delivery chunk reaches the target hatch and lands or is refused (agent: a index). -/
  | deliveryChunk
  /-- DELIVERY_RETRY (R294): A chunk refused by a saved target is retried after 256 ck (agent: a index). -/
  | deliveryRetry
  /-- MESSAGE_ARRIVE (R298): A message is matched to a receive, queued in overflow or dropped (agent: a index). -/
  | messageArrive
  /-- SEND_COMPLETION (R296): The send's completion word is written to gd when every target has answered (agent: a strand number, b access). -/
  | sendCompletion
  /-- GIVE_ATTACH (R267): After the drain, the bank detaches, attaches to the target slot and arrives 65,536 (agent: a strand number). -/
  | giveAttach
  /-- BANK_MODE_SET (R265): After the drain, a slot's mode is switched and L1 invalidated (agent: a strand number). -/
  | bankModeSet
  /-- BSCR_ZERO_DONE (R265): The zeroing of a bank switched to scratch ends and DRAINING clears (agent: a strand number, b slot). -/
  | bscrZeroDone
  /-- LOAD_REPLY (R160): Load data return, are written to the destination and free a load-table entry (agent: a strand number, b access). -/
  | loadReply
  /-- ATOMIC_REPLY (R322): An atomic or reduction reply returns and sets gd and FPSTAT (agent: a strand number, b access). -/
  | atomicReply
  /-- STORE_PERFORM (R160): A store leaves the store buffer and is performed (agent: a strand number, b index). -/
  | storePerform
  /-- ACK_RETURN (R125): An acknowledgement returns and decrements ACKCNT (agent: a strand number). -/
  | ackReturn
  /-- TOKEN_ARRIVE (R206): A token sets a channel bit of the target strand (agent: a index). -/
  | tokenArrive
  /-- RSEQ_ENTRY (R129): A slice enters a broadcast released sequence in its table (agent: a strand number, b slice). -/
  | rseqEntry
  /-- ESCALATION (R156): The front end ends the instance, keeping the escalating strand's record and image (agent: a strand number). -/
  | escalation
  /-- RACE_SWEEP (R130): Each 8,192 ck a slice empties race entries of released regions (agent: a slice). -/
  | raceSweep
  /-- SLICE_ACCESS (R110): An access reaches its home slice and is serialised there (agent: a strand number, b access). -/
  | sliceAccess
  /-- BACK_PART (R315): A part's unbacked lines are spilled to a frame taken from the reserve list (agent: a index). -/
  | backPart
  /-- SPILL_TIMEOUT (R317): No frame within 210,000 ck ends the held access's instance (agent: a index). -/
  | spillTimeout
  /-- ATOMIC_UPDATE (R320): The atomic unit performs one update on a word (agent: a strand number, b access). -/
  | atomicUpdate
  /-- REDIRECT_LAND (R327): A redirected old value lands in the target window and arrives (agent: a index). -/
  | redirectLand
  /-- REDIRECT_RETRY (R327): A refused redirected value is retried after 256 ck (agent: a index). -/
  | redirectRetry
  /-- EDGE_WRITEBACK (R328): A dirty edge entry is written back after 65,536 ck (agent: a die, b index). -/
  | edgeWriteback
  /-- COMPLETION_TIMEOUT (R329): An AtomicOp without completion times out with a poisoned zero (agent: a index). -/
  | completionTimeout
  /-- SHUTTER_DRAIN (R356): At S(n)-252 ck device-memory issue stops. -/
  | shutterDrain
  /-- SHUTTER_BEGIN (R355): A shutter begins its refresh or maintenance work. -/
  | shutterBegin
  /-- SHUTTER_OVERRUN (R357): At the nominal end with work undone the shutter overruns and is reported. -/
  | shutterOverrun
  /-- SHUTTER_END (R357): A shutter ends and held memory requests proceed. -/
  | shutterEnd
  /-- SCHEDULE_ENTRY (R34): Every 32 ck the next tenant schedule entry comes into force. -/
  | scheduleEntry
  /-- PSCHEDLD_GO (R36): Requests a copy of the staging registers into the live schedule. -/
  | pschedldGo
  /-- PSCHED_LOAD (R36): At the period boundary the staged schedule becomes live. -/
  | pschedLoad
  /-- WHEEL_TAKE_EFFECT (R29): A rewritten wheel takes effect at a clock with t mod 32 = 0 (agent: a core). -/
  | wheelTakeEffect
  /-- MASK_CHANGE_SET (R308): Processes one set of a mask change, moving, writing back or backing lines. -/
  | maskChangeSet
  /-- XINV_COMPLETE (R346): The invalidation completes and BUSY clears (agent: a partition). -/
  | xinvComplete
  /-- NODE_REQUEST_START (R351): A memory node starts its next queued program (agent: a stack, b node). -/
  | nodeRequestStart
  /-- LAUNCH (R380): LAUNCH packet: checks, waits for a candidate and starts an instance (agent: a queue). -/
  | launch
  /-- LAUNCH_PLACE (R38): A waiting launch or restore is placed once a candidate exists (agent: a partition). -/
  | launchPlace
  /-- FENCE_PACKET (R376): FENCE packet writes the replay record (agent: a queue). -/
  | fencePacket
  /-- WAIT (R368): WAIT packet holds its queue until its condition holds (agent: a queue). -/
  | wait
  /-- WAIT_TEST (R368): A WAIT tests its signal on a line write or every 4,096 ck (agent: a queue). -/
  | waitTest
  /-- SIGNAL (R367): SIGNAL packet updates a completion signal (agent: a queue). -/
  | signal
  /-- MIGRATE (R367): MIGRATE packet runs a migration job for a page (agent: a queue). -/
  | migrate
  /-- HASHSET (R340): HASHSET packet rewrites a stack under new hash rows (agent: a queue). -/
  | hashset
  /-- HASHSET_DONE (R340): The stack rewrite ends, rows take effect and held requests proceed (agent: a stack). -/
  | hashsetDone
  /-- MEMBER_REMOVE (R415): MEMBER packet removes a collective member (agent: a queue). -/
  | memberRemove
  /-- MEMBER_ADMIT (R415): MEMBER packet admits a spare in place of a removed member (agent: a queue). -/
  | memberAdmit
  /-- PRIORITY_PROMOTION (R371): A launch waiting 2^20 ck rises one level (agent: a partition, b index). -/
  | priorityPromotion
  /-- COMPACTION_PASS (R374): The front end moves instances to make room for a launch (agent: a partition). -/
  | compactionPass
  /-- PRIORITY_PREEMPT (R375): Lower-priority instances are pre-empted for a waiting launch (agent: a partition). -/
  | priorityPreempt
  /-- QUANTUM_EXPIRY (R375): An instance that has run its quantum is pre-empted (agent: a instance). -/
  | quantumExpiry
  /-- SAVE_COMPLETE (R41): The last outstanding reply completes the save and the image is written (agent: a strand number). -/
  | saveComplete
  /-- RESTORE (R203): A saved strand is rebuilt and resumes at its saved state (agent: a instance). -/
  | restore
  /-- STRAND_END (R175): A waiting halt completes and the strand ends, completing the instance when last (agent: a strand number). -/
  | strandEnd
  /-- HANG (R389): An instance's watchdog count reaches LIMIT and the partition resets (agent: a instance). -/
  | hang
  /-- PARTITION_RESET (R386): Stops a partition without save, drops its state and replays its queues (agent: a partition). -/
  | partitionReset
  /-- VF_CLEAR_UNIT (R399): The clear engine zeroes one 64 KiB unit (agent: a function). -/
  | vfClearUnit
  /-- SCRUB_UNIT (R403): One bank or 64 KiB unit of a scrub completes. -/
  | scrubUnit
  /-- PACKAGE_RESET (R394): The boot ROM checks and loads the firmware image or enters recovery. -/
  | packageReset
  /-- RMCMD_VERIFY (R395): Verifies a staged image and writes it to flash when accepted. -/
  | rmcmdVerify
  /-- FUSE_MINVER (R394): The monitor's fuse command raises MINVER to the running VERSION. -/
  | fuseMinver
  /-- HANDOVER_TIMEOUT (R408): An unclaimed handover expires after 1 s. -/
  | handoverTimeout
  /-- GRANT_PERIOD (R410): Every 2,100 ck the arbiter grants each core its running ck. -/
  | grantPeriod
  /-- PERFORM_RECORD (R414): The collective engine combines a record and advances DSEQ (agent: a descriptor). -/
  | performRecord
  /-- FETCH_FAULT (R168): An instruction fetch from the window, from a page without X, or of a poisoned word raises PERM, XLATE or POISON with DETAIL 1. -/
  | fetchFault
  /-- MASK_CHANGE_FRAME_TIMEOUT (R309): A way-mask change whose part backing has waited 210,000 ck for a frame is refused with ERR 4. -/
  | maskChangeFrameTimeout
  /-- MIGRATION_FRAME_TIMEOUT (R350): An unbacked re-home that finds no reserve frame within 210,000 ck ends with ERR 3, leaving the parts already moved in place (agent: a die). -/
  | migrationFrameTimeout
  /-- RACE_CHECK_REPLY (R416): The home slice's pass or fail reply for a store on an RC page returns, and the store retires or is trapped with RACE (agent: a strand number). -/
  | raceCheckReply
  deriving DecidableEq, Repr

end Sys2Proof
end

