-- ==== Sys2Proof/WellFormed.lean ====
section
/-! DEFINITION. The well-formed terms: the field values that the instruction's own description allows (R79 step 8), and for a step of
an engine or of the outside an agent that exists (R10, R13, R18). -/
namespace Sys2Proof
open Machine

/-- The major opcodes R81 reserves. -/
def opReserved (w : W32) : Bool :=
  let op := (w.extractLsb' 26 6).toNat
  decide (op = 0) || (decide (0x0C ≤ op) && decide (op ≤ 0x0F)) || decide (op = 0x17) || (decide (0x1C ≤ op) && decide (op ≤ 0x1F)) ||
  (decide (0x37 ≤ op) && decide (op ≤ 0x3D))

/-- Well-formed instructions and steps. -/
def Instr.wf : Instr → Bool
  | .add _ _ _ => true
  | .sub _ _ _ => true
  | .and _ _ _ => true
  | .or _ _ _ => true
  | .xor _ _ _ => true
  | .andn _ _ _ => true
  | .shl _ _ _ => true
  | .shr _ _ _ => true
  | .sra _ _ _ => true
  | .rotr _ _ _ => true
  | .slt _ _ _ => true
  | .sltn _ _ _ => true
  | .min _ _ _ => true
  | .max _ _ _ => true
  | .minn _ _ _ => true
  | .maxn _ _ _ => true
  | .mul _ _ _ => true
  | .mulh _ _ _ => true
  | .mulhn _ _ _ => true
  | .div _ _ _ => true
  | .divn _ _ _ => true
  | .rem _ _ _ => true
  | .remn _ _ _ => true
  | .clz _ _ => true
  | .ctz _ _ => true
  | .popc _ _ => true
  | .sxb _ _ => true
  | .sxh _ _ => true
  | .sxw _ _ => true
  | .zxw _ _ => true
  | .addi _ _ _ => true
  | .andi _ _ _ => true
  | .ori _ _ _ => true
  | .xori _ _ _ => true
  | .shiL _ _ _ => true
  | .shiR _ _ _ => true
  | .shiA _ _ _ => true
  | .shiO _ _ _ => true
  | .slti _ _ _ => true
  | .sltni _ _ _ => true
  | .lui _ _ => true
  | .addpc _ _ => true
  | .muli _ _ _ => true
  | .ldb _ _ _ => true
  | .ldh _ _ _ => true
  | .ldw _ _ _ => true
  | .ldd _ _ _ => true
  | .ldbn _ _ _ => true
  | .ldhn _ _ _ => true
  | .ldwn _ _ _ => true
  | .stb _ _ _ => true
  | .sth _ _ _ => true
  | .stw _ _ _ => true
  | .std _ _ _ => true
  | .beq _ _ _ => true
  | .bne _ _ _ => true
  | .blt _ _ _ => true
  | .bge _ _ _ => true
  | .bltn _ _ _ => true
  | .bgen _ _ _ => true
  | .jal _ _ => true
  | .jalr _ _ _ => true
  | .nop => true
  | .halt => true
  | .trapi _ => true
  | .rett => true
  | .brk => true
  | .crr _ _ => true
  | .crw _ _ => true
  | .crs _ _ => true
  | .crc _ _ => true
  | .fence ord scope pmask => fenceLegal ord scope pmask
  | .fencex smask dmask scope => fencexLegal smask dmask scope
  | .amoadd32 _ _ _ ord scope => amoLegal ord scope
  | .amoadd64 _ _ _ ord scope => amoLegal ord scope
  | .amominI32 _ _ _ ord scope => amoLegal ord scope
  | .amominN32 _ _ _ ord scope => amoLegal ord scope
  | .amominI64 _ _ _ ord scope => amoLegal ord scope
  | .amominN64 _ _ _ ord scope => amoLegal ord scope
  | .amomaxI32 _ _ _ ord scope => amoLegal ord scope
  | .amomaxN32 _ _ _ ord scope => amoLegal ord scope
  | .amomaxI64 _ _ _ ord scope => amoLegal ord scope
  | .amomaxN64 _ _ _ ord scope => amoLegal ord scope
  | .amofaddF32 _ _ _ ord scope => amoLegal ord scope
  | .amofaddF64 _ _ _ ord scope => amoLegal ord scope
  | .amofaddBf16x2 _ _ _ ord scope => amoLegal ord scope
  | .amoand32 _ _ _ ord scope => amoLegal ord scope
  | .amoand64 _ _ _ ord scope => amoLegal ord scope
  | .amoor32 _ _ _ ord scope => amoLegal ord scope
  | .amoor64 _ _ _ ord scope => amoLegal ord scope
  | .amoxor32 _ _ _ ord scope => amoLegal ord scope
  | .amoxor64 _ _ _ ord scope => amoLegal ord scope
  | .amoswap32 _ _ _ ord scope => amoLegal ord scope
  | .amoswap64 _ _ _ ord scope => amoLegal ord scope
  | .amoinc32 _ _ _ ord scope => amoLegal ord scope
  | .amoinc64 _ _ _ ord scope => amoLegal ord scope
  | .amodec32 _ _ _ ord scope => amoLegal ord scope
  | .amodec64 _ _ _ ord scope => amoLegal ord scope
  | .amocas32 _ _ _ ord scope => amoLegal ord scope
  | .amocas64 _ _ _ ord scope => amoLegal ord scope
  | .redadd32 _ _ _ ord scope => amoLegal ord scope
  | .redadd64 _ _ _ ord scope => amoLegal ord scope
  | .redminI32 _ _ _ ord scope => amoLegal ord scope
  | .redminN32 _ _ _ ord scope => amoLegal ord scope
  | .redminI64 _ _ _ ord scope => amoLegal ord scope
  | .redminN64 _ _ _ ord scope => amoLegal ord scope
  | .redmaxI32 _ _ _ ord scope => amoLegal ord scope
  | .redmaxN32 _ _ _ ord scope => amoLegal ord scope
  | .redmaxI64 _ _ _ ord scope => amoLegal ord scope
  | .redmaxN64 _ _ _ ord scope => amoLegal ord scope
  | .redfaddF32 _ _ _ ord scope => amoLegal ord scope
  | .redfaddF64 _ _ _ ord scope => amoLegal ord scope
  | .redfaddBf16x2 _ _ _ ord scope => amoLegal ord scope
  | .redand32 _ _ _ ord scope => amoLegal ord scope
  | .redand64 _ _ _ ord scope => amoLegal ord scope
  | .redor32 _ _ _ ord scope => amoLegal ord scope
  | .redor64 _ _ _ ord scope => amoLegal ord scope
  | .redxor32 _ _ _ ord scope => amoLegal ord scope
  | .redxor64 _ _ _ ord scope => amoLegal ord scope
  | .redswap32 _ _ _ ord scope => amoLegal ord scope
  | .redswap64 _ _ _ ord scope => amoLegal ord scope
  | .redinc32 _ _ _ ord scope => amoLegal ord scope
  | .redinc64 _ _ _ ord scope => amoLegal ord scope
  | .reddec32 _ _ _ ord scope => amoLegal ord scope
  | .reddec64 _ _ _ ord scope => amoLegal ord scope
  | .fadd _ _ _ _ rm => rmLegal rm
  | .fsub _ _ _ _ rm => rmLegal rm
  | .fmul _ _ _ _ rm => rmLegal rm
  | .fdiv _ _ _ _ rm => rmLegal rm
  | .fsqrt _ _ _ rm => rmLegal rm
  | .fmac _ _ _ _ rm => rmLegal rm
  | .fnmac _ _ _ _ rm => rmLegal rm
  | .fmin _ _ _ _ => true
  | .fmax _ _ _ _ => true
  | .fabs _ _ _ => true
  | .fneg _ _ _ => true
  | .feq _ _ _ _ => true
  | .flt _ _ _ _ => true
  | .fle _ _ _ _ => true
  | .fclass _ _ _ => true
  | .fcvtfi _ _ _ rm => rmLegal rm
  | .fcvtfn _ _ _ rm => rmLegal rm
  | .fcvtif _ _ _ rm => rmLegal rm
  | .fcvtnf _ _ _ rm => rmLegal rm
  | .fcvtff _ _ _ rm => rmLegal rm
  | .pin _ _ => true
  | .unpin _ _ => true
  | .discard _ _ => true
  | .wback _ _ => true
  | .l1inv => true
  | .arrinit _ _ => true
  | .arradd _ _ => true
  | .arrwait _ _ => true
  | .arrpoll _ _ => true
  | .ctxld _ => true
  | .lpgo _ _ => true
  | .lpstop => true
  | .lpstat _ => true
  | .sqw _ => true
  | .toksend _ _ => true
  | .tokwait _ => true
  | .tokbc _ _ => true
  | .tokpoll _ _ => true
  | .give _ _ => true
  | .bl1 _ => true
  | .bscr _ => true
  | .rgld _ _ => true
  | .rgsv _ _ => true
  | .rgoff _ => true
  | .rgpush _ => true
  | .rgpop _ => true
  | .rgstat _ _ => true
  | .send _ _ _ => true
  | .post _ _ _ => true
  | .unpost _ _ => true
  | .shq _ _ => true
  | .shwait => true
  | .shspan _ => true
  | .nrun _ _ _ => true
  | .pcq _ _ => true
  | .kset _ _ _ => true
  | .kzero _ _ => true
  | .scrgo _ _ => true
  | .scrq _ _ => true
  | .mxstep _ _ _ sfmt blk _ _ _ acnm1 acb rnb rna fmt => mxstepLegal sfmt blk acnm1 acb rnb rna fmt
  | .mxzero nm1 acb => accRangeLegal false acb nm1
  | .mxld _ lf nm1 acb _ => accRangeLegal (decide (lf = 3#2)) acb nm1
  | .mxst ga gb _ ts _ ore dfmt ak nm1 acb _ => mxstLegal ts ore dfmt ak nm1 acb && mxstRegsLegal ts ga gb
  | .mxmov _ _ _ => true
  | .mxsync => true
  | .agcfg _ _ ctr _ => agcfgLegal ctr
  | .agrun _ _ _ _ _ => true
  | .copy _ _ _ _ => true
  | .gath _ _ _ _ les cnt => gathLegal les cnt
  | .scat _ _ _ _ les cnt => gathLegal les cnt
  | .ringld ga _ age n _ => ringldLegal ga age n
  | .ringst ga _ age n _ => ringldLegal ga age n
  | .tsload _ _ => true
  | .deliv _ _ _ _ _ => true
  | .cvcopy _ _ _ _ ore _ df sf => cvcopyLegal ore df sf
  | .agstop _ => true
  | .edgeAtomic _ _ _ _ _ _ => true
  | .hostAtomicCompletion _ _ _ => true
  | .forwardedAccess sn _ _ data => decide (sn < 6144) && decide (data.length ≤ 128)
  | .remapTableError stack cp pc => decide (stack < 8) && decide (cp < 2) && decide (pc < 128)
  | .slwcmdGo _ => true
  | .rsvptrTailWrite p d _ => decide (p < 12) && decide (d < 4)
  | .portctlHostenWrite p _ => decide (p < 12)
  | .xinvGo p _ => decide (p < 12)
  | .fbctlFlush p => decide (p < 12)
  | .mgctlMove d _ => decide (d < 4)
  | .mgctlCheckpointRead d _ => decide (d < 4)
  | .mgctlRehome d _ => decide (d < 4)
  | .nend => true
  | .nscan ty _ imm => decide (ty ≠ 7#3) && decide (imm ≠ 15#4)
  | .ngath ty _ _ _ => decide (ty ≠ 7#3)
  | .nfilt ty _ _ _ cmp _ _ => decide (ty ≠ 7#3) && decide (cmp ≠ 7#3)
  | .ncmpk ty _ _ _ => decide (ty ≠ 7#3)
  | .nsum ty _ _ => decide (ty ≠ 7#3)
  | .nmin ty _ _ => decide (ty ≠ 7#3)
  | .nmax ty _ _ => decide (ty ≠ 7#3)
  | .ncnt ty _ _ => decide (ty ≠ 7#3)
  | .nemit ty _ _ => decide (ty ≠ 7#3)
  | .queueTailNotice q => decide (q < 4096)
  | .qctlRun q => decide (q < 4096)
  | .qctlSkip q => decide (q < 4096)
  | .preemptRequest sn => decide (sn < 6144)
  | .placerMove kinst => decide (kinst < 65536)
  | .prectlRst _ => true
  | .prectlEvict _ => true
  | .prectlFree _ => true
  | .uncontainedFault p _ => decide (p < 12)
  | .vfFlr v => decide (1 ≤ v) && decide (v ≤ 192)
  | .keySlotRegWrite _ _ => true
  | .seclaunchGo _ => true
  | .claim m => decide (m < 4)
  | .handover m t => decide (m < 4) && decide (t < 4)
  | .release m => decide (m < 4)
  | .currentGate die => decide (die < 4)
  | .ticketWrite _ _ i _ _ _ => decide (i < 64)
  | .cfgRegisterWrite mode _ _ => decide (mode < 4)
  | .unassignedOpcode w => opReserved w
  | .attestationReport who _ => decide (who ≤ 192)
  | .arrayStep => true
  | .arrayChecksAnswered => true
  | .arrayFlushSlot => true
  | .loadQueueFill => true
  | .mxInterval => true
  | .mxTransferUnit => true
  | .mxTileUnit => true
  | .streamElementStep => true
  | .agElement => true
  | .ringTileLanded => true
  | .deliveryChunk => true
  | .deliveryRetry => true
  | .messageArrive => true
  | .sendCompletion => true
  | .giveAttach => true
  | .bankModeSet => true
  | .bscrZeroDone => true
  | .loadReply => true
  | .atomicReply => true
  | .storePerform => true
  | .ackReturn => true
  | .tokenArrive => true
  | .rseqEntry => true
  | .escalation => true
  | .raceSweep => true
  | .sliceAccess => true
  | .backPart => true
  | .spillTimeout => true
  | .atomicUpdate => true
  | .redirectLand => true
  | .redirectRetry => true
  | .edgeWriteback => true
  | .completionTimeout => true
  | .shutterDrain => true
  | .shutterBegin => true
  | .shutterOverrun => true
  | .shutterEnd => true
  | .scheduleEntry => true
  | .pschedldGo => true
  | .pschedLoad => true
  | .wheelTakeEffect => true
  | .maskChangeSet => true
  | .xinvComplete => true
  | .nodeRequestStart => true
  | .launch => true
  | .launchPlace => true
  | .fencePacket => true
  | .wait => true
  | .waitTest => true
  | .signal => true
  | .migrate => true
  | .hashset => true
  | .hashsetDone => true
  | .memberRemove => true
  | .memberAdmit => true
  | .priorityPromotion => true
  | .compactionPass => true
  | .priorityPreempt => true
  | .quantumExpiry => true
  | .saveComplete => true
  | .restore => true
  | .strandEnd => true
  | .hang => true
  | .partitionReset => true
  | .vfClearUnit => true
  | .scrubUnit => true
  | .packageReset => true
  | .rmcmdVerify => true
  | .fuseMinver => true
  | .handoverTimeout => true
  | .grantPeriod => true
  | .performRecord => true
  | .fetchFault => true
  | .maskChangeFrameTimeout => true
  | .migrationFrameTimeout => true
  | .raceCheckReply => true

/-- The node rows (R93), which are a space of words of their own. -/
def Instr.isRow : Instr → Bool
  | .nend => true
  | .nscan _ _ _ => true
  | .ngath _ _ _ _ => true
  | .nfilt _ _ _ _ _ _ _ => true
  | .ncmpk _ _ _ _ => true
  | .nsum _ _ _ => true
  | .nmin _ _ _ => true
  | .nmax _ _ _ => true
  | .ncnt _ _ _ => true
  | .nemit _ _ _ => true
  | _ => false

end Sys2Proof
end

