-- ==== Sys2Proof/Decode.lean ====
section
/-! DEFINITION. Decoding and encoding (R75-R94). Sequencer words decode by major opcode and selector; a reserved opcode decodes to
the table's own row UNASSIGNED_OPCODE; an unassigned selector value and a non-zero reserved field are rejected by name. Node rows
are a space of their own (R92) with their own decoder. -/
namespace Sys2Proof

/-- Why a word is no instruction: each raises ILLEGAL, or PRIV first for major opcode 0x36 (R79). -/
inductive DecErr where
  /-- an unassigned fn, sub or SYS function value (R79 step 5) -/
  | unassigned
  /-- a reserved field that is not zero (R79 step 6) -/
  | reserved
  /-- fewer bytes than the instruction has; never raised by the machine, which fetches both words (R79) -/
  | short
  deriving DecidableEq, Repr

/-- The instruction when its reserved fields hold what they must (R78). -/
def resv (c : Prop) [Decidable c] (i : Instr) : Except DecErr Instr := if c then .ok i else .error .reserved

/-- Major opcode, bits [31:26] (R76). -/
def fOp (w : W32) : BitVec 6 := w.extractLsb' 26 6
/-- Bits [25:21] of SR, SI, SJ; ga of SB (R76). -/
def fGd (w : W32) : Reg := w.extractLsb' 21 5
/-- Bits [20:16]; gb of SB (R76). -/
def fGa (w : W32) : Reg := w.extractLsb' 16 5
/-- Bits [15:11] of SR (R76). -/
def fGb (w : W32) : Reg := w.extractLsb' 11 5
/-- Bits [10:0] of SR (R76). -/
def fFn (w : W32) : BitVec 11 := w.extractLsb' 0 11
/-- Bits [15:0] of SI and SB (R76). -/
def fImm (w : W32) : BitVec 16 := w.extractLsb' 0 16
/-- Bits [20:0] of SJ (R76). -/
def fOff21 (w : W32) : BitVec 21 := w.extractLsb' 0 21

/-- OPR (R161): fn[5:0] selects, fn[10:6] is reserved. -/
def decOpr (gd ga gb : Reg) (fn : BitVec 11) : Except DecErr Instr :=
  match fn.extractLsb' 0 6 with
  | 0x00#6 => resv (fn.extractLsb' 6 5 = 0) (.add gd ga gb)
  | 0x01#6 => resv (fn.extractLsb' 6 5 = 0) (.sub gd ga gb)
  | 0x02#6 => resv (fn.extractLsb' 6 5 = 0) (.and gd ga gb)
  | 0x03#6 => resv (fn.extractLsb' 6 5 = 0) (.or gd ga gb)
  | 0x04#6 => resv (fn.extractLsb' 6 5 = 0) (.xor gd ga gb)
  | 0x05#6 => resv (fn.extractLsb' 6 5 = 0) (.andn gd ga gb)
  | 0x06#6 => resv (fn.extractLsb' 6 5 = 0) (.shl gd ga gb)
  | 0x07#6 => resv (fn.extractLsb' 6 5 = 0) (.shr gd ga gb)
  | 0x08#6 => resv (fn.extractLsb' 6 5 = 0) (.sra gd ga gb)
  | 0x09#6 => resv (fn.extractLsb' 6 5 = 0) (.rotr gd ga gb)
  | 0x0A#6 => resv (fn.extractLsb' 6 5 = 0) (.slt gd ga gb)
  | 0x0B#6 => resv (fn.extractLsb' 6 5 = 0) (.sltn gd ga gb)
  | 0x0C#6 => resv (fn.extractLsb' 6 5 = 0) (.min gd ga gb)
  | 0x0D#6 => resv (fn.extractLsb' 6 5 = 0) (.max gd ga gb)
  | 0x0E#6 => resv (fn.extractLsb' 6 5 = 0) (.minn gd ga gb)
  | 0x0F#6 => resv (fn.extractLsb' 6 5 = 0) (.maxn gd ga gb)
  | 0x10#6 => resv (fn.extractLsb' 6 5 = 0) (.mul gd ga gb)
  | 0x11#6 => resv (fn.extractLsb' 6 5 = 0) (.mulh gd ga gb)
  | 0x12#6 => resv (fn.extractLsb' 6 5 = 0) (.mulhn gd ga gb)
  | 0x13#6 => resv (fn.extractLsb' 6 5 = 0) (.div gd ga gb)
  | 0x14#6 => resv (fn.extractLsb' 6 5 = 0) (.divn gd ga gb)
  | 0x15#6 => resv (fn.extractLsb' 6 5 = 0) (.rem gd ga gb)
  | 0x16#6 => resv (fn.extractLsb' 6 5 = 0) (.remn gd ga gb)
  | 0x17#6 => resv (gb = 0 ∧ fn.extractLsb' 6 5 = 0) (.clz gd ga)
  | 0x18#6 => resv (gb = 0 ∧ fn.extractLsb' 6 5 = 0) (.ctz gd ga)
  | 0x19#6 => resv (gb = 0 ∧ fn.extractLsb' 6 5 = 0) (.popc gd ga)
  | 0x1A#6 => resv (gb = 0 ∧ fn.extractLsb' 6 5 = 0) (.sxb gd ga)
  | 0x1B#6 => resv (gb = 0 ∧ fn.extractLsb' 6 5 = 0) (.sxh gd ga)
  | 0x1C#6 => resv (gb = 0 ∧ fn.extractLsb' 6 5 = 0) (.sxw gd ga)
  | 0x1D#6 => resv (gb = 0 ∧ fn.extractLsb' 6 5 = 0) (.zxw gd ga)
  | _ => .error .unassigned

/-- AMO (R323, R324): fn[4:0] is AOP, fn[7:5] SCOPE, fn[10:8] ORD. -/
def decAmo (gd ga gb : Reg) (fn : BitVec 11) : Except DecErr Instr :=
  match fn.extractLsb' 0 5 with
  | 0x00#5 => .ok (.amoadd32 gd ga gb (fn.extractLsb' 8 3) (fn.extractLsb' 5 3))
  | 0x01#5 => .ok (.amoadd64 gd ga gb (fn.extractLsb' 8 3) (fn.extractLsb' 5 3))
  | 0x02#5 => .ok (.amominI32 gd ga gb (fn.extractLsb' 8 3) (fn.extractLsb' 5 3))
  | 0x03#5 => .ok (.amominN32 gd ga gb (fn.extractLsb' 8 3) (fn.extractLsb' 5 3))
  | 0x04#5 => .ok (.amominI64 gd ga gb (fn.extractLsb' 8 3) (fn.extractLsb' 5 3))
  | 0x05#5 => .ok (.amominN64 gd ga gb (fn.extractLsb' 8 3) (fn.extractLsb' 5 3))
  | 0x06#5 => .ok (.amomaxI32 gd ga gb (fn.extractLsb' 8 3) (fn.extractLsb' 5 3))
  | 0x07#5 => .ok (.amomaxN32 gd ga gb (fn.extractLsb' 8 3) (fn.extractLsb' 5 3))
  | 0x08#5 => .ok (.amomaxI64 gd ga gb (fn.extractLsb' 8 3) (fn.extractLsb' 5 3))
  | 0x09#5 => .ok (.amomaxN64 gd ga gb (fn.extractLsb' 8 3) (fn.extractLsb' 5 3))
  | 0x0A#5 => .ok (.amofaddF32 gd ga gb (fn.extractLsb' 8 3) (fn.extractLsb' 5 3))
  | 0x0B#5 => .ok (.amofaddF64 gd ga gb (fn.extractLsb' 8 3) (fn.extractLsb' 5 3))
  | 0x0C#5 => .ok (.amofaddBf16x2 gd ga gb (fn.extractLsb' 8 3) (fn.extractLsb' 5 3))
  | 0x0D#5 => .ok (.amoand32 gd ga gb (fn.extractLsb' 8 3) (fn.extractLsb' 5 3))
  | 0x0E#5 => .ok (.amoand64 gd ga gb (fn.extractLsb' 8 3) (fn.extractLsb' 5 3))
  | 0x0F#5 => .ok (.amoor32 gd ga gb (fn.extractLsb' 8 3) (fn.extractLsb' 5 3))
  | 0x10#5 => .ok (.amoor64 gd ga gb (fn.extractLsb' 8 3) (fn.extractLsb' 5 3))
  | 0x11#5 => .ok (.amoxor32 gd ga gb (fn.extractLsb' 8 3) (fn.extractLsb' 5 3))
  | 0x12#5 => .ok (.amoxor64 gd ga gb (fn.extractLsb' 8 3) (fn.extractLsb' 5 3))
  | 0x13#5 => .ok (.amoswap32 gd ga gb (fn.extractLsb' 8 3) (fn.extractLsb' 5 3))
  | 0x14#5 => .ok (.amoswap64 gd ga gb (fn.extractLsb' 8 3) (fn.extractLsb' 5 3))
  | 0x15#5 => .ok (.amoinc32 gd ga gb (fn.extractLsb' 8 3) (fn.extractLsb' 5 3))
  | 0x16#5 => .ok (.amoinc64 gd ga gb (fn.extractLsb' 8 3) (fn.extractLsb' 5 3))
  | 0x17#5 => .ok (.amodec32 gd ga gb (fn.extractLsb' 8 3) (fn.extractLsb' 5 3))
  | 0x18#5 => .ok (.amodec64 gd ga gb (fn.extractLsb' 8 3) (fn.extractLsb' 5 3))
  | _ => .error .unassigned

/-- AMOC (R325). -/
def decAmoc (gd ga gb : Reg) (fn : BitVec 11) : Except DecErr Instr :=
  match fn.extractLsb' 0 5 with
  | 0x00#5 => .ok (.amocas32 gd ga gb (fn.extractLsb' 8 3) (fn.extractLsb' 5 3))
  | 0x01#5 => .ok (.amocas64 gd ga gb (fn.extractLsb' 8 3) (fn.extractLsb' 5 3))
  | _ => .error .unassigned

/-- RED (R324, R326). -/
def decRed (gd ga gb : Reg) (fn : BitVec 11) : Except DecErr Instr :=
  match fn.extractLsb' 0 5 with
  | 0x00#5 => .ok (.redadd32 gd ga gb (fn.extractLsb' 8 3) (fn.extractLsb' 5 3))
  | 0x01#5 => .ok (.redadd64 gd ga gb (fn.extractLsb' 8 3) (fn.extractLsb' 5 3))
  | 0x02#5 => .ok (.redminI32 gd ga gb (fn.extractLsb' 8 3) (fn.extractLsb' 5 3))
  | 0x03#5 => .ok (.redminN32 gd ga gb (fn.extractLsb' 8 3) (fn.extractLsb' 5 3))
  | 0x04#5 => .ok (.redminI64 gd ga gb (fn.extractLsb' 8 3) (fn.extractLsb' 5 3))
  | 0x05#5 => .ok (.redminN64 gd ga gb (fn.extractLsb' 8 3) (fn.extractLsb' 5 3))
  | 0x06#5 => .ok (.redmaxI32 gd ga gb (fn.extractLsb' 8 3) (fn.extractLsb' 5 3))
  | 0x07#5 => .ok (.redmaxN32 gd ga gb (fn.extractLsb' 8 3) (fn.extractLsb' 5 3))
  | 0x08#5 => .ok (.redmaxI64 gd ga gb (fn.extractLsb' 8 3) (fn.extractLsb' 5 3))
  | 0x09#5 => .ok (.redmaxN64 gd ga gb (fn.extractLsb' 8 3) (fn.extractLsb' 5 3))
  | 0x0A#5 => .ok (.redfaddF32 gd ga gb (fn.extractLsb' 8 3) (fn.extractLsb' 5 3))
  | 0x0B#5 => .ok (.redfaddF64 gd ga gb (fn.extractLsb' 8 3) (fn.extractLsb' 5 3))
  | 0x0C#5 => .ok (.redfaddBf16x2 gd ga gb (fn.extractLsb' 8 3) (fn.extractLsb' 5 3))
  | 0x0D#5 => .ok (.redand32 gd ga gb (fn.extractLsb' 8 3) (fn.extractLsb' 5 3))
  | 0x0E#5 => .ok (.redand64 gd ga gb (fn.extractLsb' 8 3) (fn.extractLsb' 5 3))
  | 0x0F#5 => .ok (.redor32 gd ga gb (fn.extractLsb' 8 3) (fn.extractLsb' 5 3))
  | 0x10#5 => .ok (.redor64 gd ga gb (fn.extractLsb' 8 3) (fn.extractLsb' 5 3))
  | 0x11#5 => .ok (.redxor32 gd ga gb (fn.extractLsb' 8 3) (fn.extractLsb' 5 3))
  | 0x12#5 => .ok (.redxor64 gd ga gb (fn.extractLsb' 8 3) (fn.extractLsb' 5 3))
  | 0x13#5 => .ok (.redswap32 gd ga gb (fn.extractLsb' 8 3) (fn.extractLsb' 5 3))
  | 0x14#5 => .ok (.redswap64 gd ga gb (fn.extractLsb' 8 3) (fn.extractLsb' 5 3))
  | 0x15#5 => .ok (.redinc32 gd ga gb (fn.extractLsb' 8 3) (fn.extractLsb' 5 3))
  | 0x16#5 => .ok (.redinc64 gd ga gb (fn.extractLsb' 8 3) (fn.extractLsb' 5 3))
  | 0x17#5 => .ok (.reddec32 gd ga gb (fn.extractLsb' 8 3) (fn.extractLsb' 5 3))
  | 0x18#5 => .ok (.reddec64 gd ga gb (fn.extractLsb' 8 3) (fn.extractLsb' 5 3))
  | _ => .error .unassigned

/-- FPU (R176, R177): fn[5:0] is FOP, fn[8:6] RMO, fn[9] P, fn[10] reserved; an operation that never rounds carries RMO 0b111. -/
def decFpu (gd ga gb : Reg) (fn : BitVec 11) : Except DecErr Instr :=
  match fn.extractLsb' 0 6 with
  | 0x00#6 => resv (fn.extractLsb' 10 1 = 0) (.fadd gd ga gb (fn.extractLsb' 9 1) (fn.extractLsb' 6 3))
  | 0x01#6 => resv (fn.extractLsb' 10 1 = 0) (.fsub gd ga gb (fn.extractLsb' 9 1) (fn.extractLsb' 6 3))
  | 0x02#6 => resv (fn.extractLsb' 10 1 = 0) (.fmul gd ga gb (fn.extractLsb' 9 1) (fn.extractLsb' 6 3))
  | 0x03#6 => resv (fn.extractLsb' 10 1 = 0) (.fdiv gd ga gb (fn.extractLsb' 9 1) (fn.extractLsb' 6 3))
  | 0x04#6 => resv (gb = 0 ∧ fn.extractLsb' 10 1 = 0) (.fsqrt gd ga (fn.extractLsb' 9 1) (fn.extractLsb' 6 3))
  | 0x05#6 => resv (fn.extractLsb' 10 1 = 0) (.fmac gd ga gb (fn.extractLsb' 9 1) (fn.extractLsb' 6 3))
  | 0x06#6 => resv (fn.extractLsb' 10 1 = 0) (.fnmac gd ga gb (fn.extractLsb' 9 1) (fn.extractLsb' 6 3))
  | 0x07#6 => resv (fn.extractLsb' 10 1 = 0 ∧ fn.extractLsb' 6 3 = 7) (.fmin gd ga gb (fn.extractLsb' 9 1))
  | 0x08#6 => resv (fn.extractLsb' 10 1 = 0 ∧ fn.extractLsb' 6 3 = 7) (.fmax gd ga gb (fn.extractLsb' 9 1))
  | 0x09#6 => resv (gb = 0 ∧ fn.extractLsb' 10 1 = 0 ∧ fn.extractLsb' 6 3 = 7) (.fabs gd ga (fn.extractLsb' 9 1))
  | 0x0A#6 => resv (gb = 0 ∧ fn.extractLsb' 10 1 = 0 ∧ fn.extractLsb' 6 3 = 7) (.fneg gd ga (fn.extractLsb' 9 1))
  | 0x0B#6 => resv (fn.extractLsb' 10 1 = 0 ∧ fn.extractLsb' 6 3 = 7) (.feq gd ga gb (fn.extractLsb' 9 1))
  | 0x0C#6 => resv (fn.extractLsb' 10 1 = 0 ∧ fn.extractLsb' 6 3 = 7) (.flt gd ga gb (fn.extractLsb' 9 1))
  | 0x0D#6 => resv (fn.extractLsb' 10 1 = 0 ∧ fn.extractLsb' 6 3 = 7) (.fle gd ga gb (fn.extractLsb' 9 1))
  | 0x0E#6 => resv (gb = 0 ∧ fn.extractLsb' 10 1 = 0 ∧ fn.extractLsb' 6 3 = 7) (.fclass gd ga (fn.extractLsb' 9 1))
  | 0x10#6 => resv (gb = 0 ∧ fn.extractLsb' 10 1 = 0) (.fcvtfi gd ga (fn.extractLsb' 9 1) (fn.extractLsb' 6 3))
  | 0x11#6 => resv (gb = 0 ∧ fn.extractLsb' 10 1 = 0) (.fcvtfn gd ga (fn.extractLsb' 9 1) (fn.extractLsb' 6 3))
  | 0x12#6 => resv (gb = 0 ∧ fn.extractLsb' 10 1 = 0) (.fcvtif gd ga (fn.extractLsb' 9 1) (fn.extractLsb' 6 3))
  | 0x13#6 => resv (gb = 0 ∧ fn.extractLsb' 10 1 = 0) (.fcvtnf gd ga (fn.extractLsb' 9 1) (fn.extractLsb' 6 3))
  | 0x14#6 => resv (gb = 0 ∧ fn.extractLsb' 10 1 = 0) (.fcvtff gd ga (fn.extractLsb' 9 1) (fn.extractLsb' 6 3))
  | _ => .error .unassigned

/-- CACHE (R331). -/
def decCache (gd ga gb : Reg) (fn : BitVec 11) : Except DecErr Instr :=
  match fn.extractLsb' 0 6 with
  | 0x00#6 => resv (gb = 0 ∧ fn.extractLsb' 6 5 = 0) (.pin gd ga)
  | 0x01#6 => resv (gb = 0 ∧ fn.extractLsb' 6 5 = 0) (.unpin gd ga)
  | 0x02#6 => resv (gd = 0 ∧ fn.extractLsb' 6 5 = 0) (.discard ga gb)
  | 0x03#6 => resv (gd = 0 ∧ fn.extractLsb' 6 5 = 0) (.wback ga gb)
  | 0x04#6 => resv (gd = 0 ∧ ga = 0 ∧ gb = 0 ∧ fn.extractLsb' 6 5 = 0) (.l1inv)
  | _ => .error .unassigned

/-- ARR (R272). -/
def decArr (gd ga gb : Reg) (fn : BitVec 11) : Except DecErr Instr :=
  match fn.extractLsb' 0 6 with
  | 0x00#6 => resv (gd = 0 ∧ fn.extractLsb' 6 5 = 0) (.arrinit ga gb)
  | 0x01#6 => resv (gd = 0 ∧ fn.extractLsb' 6 5 = 0) (.arradd ga gb)
  | 0x02#6 => resv (gd = 0 ∧ fn.extractLsb' 6 5 = 0) (.arrwait ga gb)
  | 0x03#6 => resv (gb = 0 ∧ fn.extractLsb' 6 5 = 0) (.arrpoll gd ga)
  | _ => .error .unassigned

/-- LOOP (R205). -/
def decLoop (gd ga gb : Reg) (fn : BitVec 11) : Except DecErr Instr :=
  match fn.extractLsb' 0 6 with
  | 0x00#6 => resv (gd = 0 ∧ gb = 0 ∧ fn.extractLsb' 6 5 = 0) (.ctxld ga)
  | 0x01#6 => resv (gd = 0 ∧ fn.extractLsb' 6 5 = 0) (.lpgo ga gb)
  | 0x02#6 => resv (gd = 0 ∧ ga = 0 ∧ gb = 0 ∧ fn.extractLsb' 6 5 = 0) (.lpstop)
  | 0x03#6 => resv (ga = 0 ∧ gb = 0 ∧ fn.extractLsb' 6 5 = 0) (.lpstat gd)
  | 0x04#6 => resv (gd = 0 ∧ gb = 0 ∧ fn.extractLsb' 6 5 = 0) (.sqw ga)
  | _ => .error .unassigned

/-- TOK (R207): fn[5:4] is TOP, fn[3:0] CH. -/
def decTok (gd ga gb : Reg) (fn : BitVec 11) : Except DecErr Instr :=
  match fn.extractLsb' 4 2 with
  | 0#2 => resv (gd = 0 ∧ gb = 0 ∧ fn.extractLsb' 6 5 = 0) (.toksend ga (fn.extractLsb' 0 4))
  | 1#2 => resv (gd = 0 ∧ ga = 0 ∧ gb = 0 ∧ fn.extractLsb' 6 5 = 0) (.tokwait (fn.extractLsb' 0 4))
  | 2#2 => resv (gd = 0 ∧ gb = 0 ∧ fn.extractLsb' 6 5 = 0) (.tokbc ga (fn.extractLsb' 0 4))
  | 3#2 => resv (ga = 0 ∧ gb = 0 ∧ fn.extractLsb' 6 5 = 0) (.tokpoll gd (fn.extractLsb' 0 4))
  | _ => .error .unassigned

/-- BANK (R264): fn[5:0] selects, fn[9:6] is N, fn[10] reserved. -/
def decBank (gd ga gb : Reg) (fn : BitVec 11) : Except DecErr Instr :=
  match fn.extractLsb' 0 6 with
  | 0x00#6 => resv (gd = 0 ∧ fn.extractLsb' 10 1 = 0 ∧ fn.extractLsb' 6 4 = 0) (.give ga gb)
  | 0x01#6 => resv (gd = 0 ∧ ga = 0 ∧ gb = 0 ∧ fn.extractLsb' 10 1 = 0) (.bl1 (fn.extractLsb' 6 4))
  | 0x02#6 => resv (gd = 0 ∧ ga = 0 ∧ gb = 0 ∧ fn.extractLsb' 10 1 = 0) (.bscr (fn.extractLsb' 6 4))
  | 0x08#6 => resv (gd = 0 ∧ gb = 0 ∧ fn.extractLsb' 10 1 = 0) (.rgld ga (fn.extractLsb' 6 4))
  | 0x09#6 => resv (gd = 0 ∧ gb = 0 ∧ fn.extractLsb' 10 1 = 0) (.rgsv ga (fn.extractLsb' 6 4))
  | 0x0A#6 => resv (gd = 0 ∧ ga = 0 ∧ gb = 0 ∧ fn.extractLsb' 10 1 = 0) (.rgoff (fn.extractLsb' 6 4))
  | 0x0B#6 => resv (gd = 0 ∧ ga = 0 ∧ gb = 0 ∧ fn.extractLsb' 10 1 = 0) (.rgpush (fn.extractLsb' 6 4))
  | 0x0C#6 => resv (gd = 0 ∧ ga = 0 ∧ gb = 0 ∧ fn.extractLsb' 10 1 = 0) (.rgpop (fn.extractLsb' 6 4))
  | 0x0D#6 => resv (ga = 0 ∧ gb = 0 ∧ fn.extractLsb' 10 1 = 0) (.rgstat gd (fn.extractLsb' 6 4))
  | _ => .error .unassigned

/-- MSG (R295). -/
def decMsg (gd ga gb : Reg) (fn : BitVec 11) : Except DecErr Instr :=
  match fn.extractLsb' 0 6 with
  | 0x00#6 => resv (fn.extractLsb' 6 5 = 0) (.send gd ga gb)
  | 0x01#6 => resv (fn.extractLsb' 6 5 = 0) (.post gd ga gb)
  | 0x02#6 => resv (gb = 0 ∧ fn.extractLsb' 6 5 = 0) (.unpost gd ga)
  | _ => .error .unassigned

/-- SHUT (R359). -/
def decShut (gd ga gb : Reg) (fn : BitVec 11) : Except DecErr Instr :=
  match fn.extractLsb' 0 6 with
  | 0x00#6 => resv (gb = 0 ∧ fn.extractLsb' 6 5 = 0) (.shq gd ga)
  | 0x01#6 => resv (gd = 0 ∧ ga = 0 ∧ gb = 0 ∧ fn.extractLsb' 6 5 = 0) (.shwait)
  | 0x02#6 => resv (ga = 0 ∧ gb = 0 ∧ fn.extractLsb' 6 5 = 0) (.shspan gd)
  | _ => .error .unassigned

/-- MEMQ (R360, R361). -/
def decMemq (gd ga gb : Reg) (fn : BitVec 11) : Except DecErr Instr :=
  match fn.extractLsb' 0 6 with
  | 0x00#6 => resv (fn.extractLsb' 6 5 = 0) (.nrun gd ga gb)
  | 0x01#6 => resv (gb = 0 ∧ fn.extractLsb' 6 5 = 0) (.pcq gd ga)
  | _ => .error .unassigned

/-- SEC (R406). -/
def decSec (gd ga gb : Reg) (fn : BitVec 11) : Except DecErr Instr :=
  match fn.extractLsb' 0 6 with
  | 0x00#6 => resv (fn.extractLsb' 6 5 = 0) (.kset gd ga gb)
  | 0x01#6 => resv (gb = 0 ∧ fn.extractLsb' 6 5 = 0) (.kzero gd ga)
  | 0x02#6 => resv (gb = 0 ∧ fn.extractLsb' 6 5 = 0) (.scrgo gd ga)
  | 0x03#6 => resv (gb = 0 ∧ fn.extractLsb' 6 5 = 0) (.scrq gd ga)
  | _ => .error .unassigned

/-- SYS (R82): imm16[15:12] selects. -/
def decSys (gd ga : Reg) (imm : BitVec 16) : Except DecErr Instr :=
  match imm.extractLsb' 12 4 with
  | 0x0#4 => resv (gd = 0 ∧ ga = 0 ∧ imm.extractLsb' 0 12 = 0) (.nop)
  | 0x1#4 => resv (gd = 0 ∧ ga = 0 ∧ imm.extractLsb' 0 12 = 0) (.halt)
  | 0x2#4 => resv (gd = 0 ∧ ga = 0 ∧ imm.extractLsb' 8 4 = 0) (.trapi (imm.extractLsb' 0 8))
  | 0x3#4 => resv (gd = 0 ∧ ga = 0 ∧ imm.extractLsb' 0 12 = 0) (.rett)
  | 0x4#4 => resv (gd = 0 ∧ ga = 0 ∧ imm.extractLsb' 0 12 = 0) (.brk)
  | 0x5#4 => resv (ga = 0) (.crr gd (imm.extractLsb' 0 12))
  | 0x6#4 => resv (gd = 0) (.crw ga (imm.extractLsb' 0 12))
  | 0x7#4 => resv (gd = 0) (.crs ga (imm.extractLsb' 0 12))
  | 0x8#4 => resv (gd = 0) (.crc ga (imm.extractLsb' 0 12))
  | _ => .error .unassigned

/-- FENCE (R136): imm16[15] tells `fence` from `fencex`. -/
def decFence (gd ga : Reg) (imm : BitVec 16) : Except DecErr Instr :=
  if imm.extractLsb' 15 1 = 0 then
    resv (gd = 0 ∧ ga = 0 ∧ imm.extractLsb' 5 4 = 0) (.fence (imm.extractLsb' 12 3) (imm.extractLsb' 9 3) (imm.extractLsb' 0 5))
  else
    resv (gd = 0 ∧ ga = 0 ∧ imm.extractLsb' 3 2 = 0) (.fencex (imm.extractLsb' 10 5) (imm.extractLsb' 5 5) (imm.extractLsb' 0 3))

/-- `shi` (R165): imm16[7:6] is KIND, imm16[5:0] the amount, imm16[15:8] reserved. -/
def decShi (gd ga : Reg) (imm : BitVec 16) : Except DecErr Instr :=
  let sh := imm.extractLsb' 0 6
  resv (imm.extractLsb' 8 8 = 0)
    (match imm.extractLsb' 6 2 with
     | 0#2 => .shiL gd ga sh
     | 1#2 => .shiR gd ga sh
     | 2#2 => .shiA gd ga sh
     | _ => .shiO gd ga sh)

/-- The word of a one-word instruction (R76, R81): total; a reserved major opcode is the step UNASSIGNED_OPCODE. -/
def decodeWord (w : W32) : Except DecErr Instr :=
  let gd := fGd w
  let ga := fGa w
  let gb := fGb w
  let fn := fFn w
  let imm := fImm w
  match fOp w with
  | 0x01#6 => decOpr gd ga gb fn
  | 0x02#6 => .ok (.addi gd ga imm)
  | 0x03#6 => .ok (.andi gd ga imm)
  | 0x04#6 => .ok (.ori gd ga imm)
  | 0x05#6 => .ok (.xori gd ga imm)
  | 0x06#6 => decShi gd ga imm
  | 0x07#6 => .ok (.slti gd ga imm)
  | 0x08#6 => .ok (.sltni gd ga imm)
  | 0x09#6 => resv (ga = 0) (.lui gd imm)
  | 0x0A#6 => resv (ga = 0) (.addpc gd imm)
  | 0x0B#6 => .ok (.muli gd ga imm)
  | 0x10#6 => .ok (.ldb gd ga imm)
  | 0x11#6 => .ok (.ldh gd ga imm)
  | 0x12#6 => .ok (.ldw gd ga imm)
  | 0x13#6 => .ok (.ldd gd ga imm)
  | 0x14#6 => .ok (.ldbn gd ga imm)
  | 0x15#6 => .ok (.ldhn gd ga imm)
  | 0x16#6 => .ok (.ldwn gd ga imm)
  | 0x18#6 => .ok (.stb gd ga imm)
  | 0x19#6 => .ok (.sth gd ga imm)
  | 0x1A#6 => .ok (.stw gd ga imm)
  | 0x1B#6 => .ok (.std gd ga imm)
  | 0x20#6 => .ok (.beq gd ga imm)
  | 0x21#6 => .ok (.bne gd ga imm)
  | 0x22#6 => .ok (.blt gd ga imm)
  | 0x23#6 => .ok (.bge gd ga imm)
  | 0x24#6 => .ok (.bltn gd ga imm)
  | 0x25#6 => .ok (.bgen gd ga imm)
  | 0x26#6 => .ok (.jal gd (fOff21 w))
  | 0x27#6 => .ok (.jalr gd ga imm)
  | 0x28#6 => decSys gd ga imm
  | 0x29#6 => decFence gd ga imm
  | 0x2A#6 => decAmo gd ga gb fn
  | 0x2B#6 => decAmoc gd ga gb fn
  | 0x2C#6 => decRed gd ga gb fn
  | 0x2D#6 => decFpu gd ga gb fn
  | 0x2E#6 => decCache gd ga gb fn
  | 0x2F#6 => decArr gd ga gb fn
  | 0x30#6 => decLoop gd ga gb fn
  | 0x31#6 => decTok gd ga gb fn
  | 0x32#6 => decBank gd ga gb fn
  | 0x33#6 => decMsg gd ga gb fn
  | 0x34#6 => decShut gd ga gb fn
  | 0x35#6 => decMemq gd ga gb fn
  | 0x36#6 => decSec gd ga gb fn
  | 0x3E#6 => .error .short
  | 0x3F#6 => .error .short
  | _ => .ok (.unassignedOpcode w)

/-- MXL (R84, R240, R244, R247-R249). DESIGN CHOICE (log entry 46): OR of `mxst` takes any value while ORE = 0. -/
def decMxl (sub : BitVec 6) (ga gb gc gd : Reg) (f : W32) : Except DecErr Instr :=
  match sub with
  | 0x00#6 => resv (gb = 0 ∧ gd = 0 ∧ f.extractLsb' 31 1 = 0) (.mxstep ga gc (f.extractLsb' 30 1) (f.extractLsb' 28 2) (f.extractLsb' 26 2) (f.extractLsb' 23 3) (f.extractLsb' 20 3) (f.extractLsb' 18 2) (f.extractLsb' 15 3) (f.extractLsb' 12 3) (f.extractLsb' 8 4) (f.extractLsb' 4 4) (f.extractLsb' 0 4))
  | 0x01#6 => resv (ga = 0 ∧ gb = 0 ∧ gc = 0 ∧ gd = 0 ∧ f.extractLsb' 6 26 = 0) (.mxzero (f.extractLsb' 3 3) (f.extractLsb' 0 3))
  | 0x02#6 => resv (ga = 0 ∧ gb = 0 ∧ gd = 0 ∧ f.extractLsb' 12 20 = 0) (.mxld gc (f.extractLsb' 10 2) (f.extractLsb' 7 3) (f.extractLsb' 4 3) (f.extractLsb' 0 4))
  | 0x03#6 => resv (gd = 0 ∧ f.extractLsb' 23 9 = 0) (.mxst ga gb gc (f.extractLsb' 21 2) (f.extractLsb' 17 4) (f.extractLsb' 16 1) (f.extractLsb' 12 4) (f.extractLsb' 10 2) (f.extractLsb' 7 3) (f.extractLsb' 4 3) (f.extractLsb' 0 4))
  | 0x04#6 => resv (ga = 0 ∧ gb = 0 ∧ gc = 0 ∧ gd = 0 ∧ f.extractLsb' 7 25 = 0) (.mxmov (f.extractLsb' 6 1) (f.extractLsb' 3 3) (f.extractLsb' 0 3))
  | 0x05#6 => resv (ga = 0 ∧ gb = 0 ∧ gc = 0 ∧ gd = 0 ∧ f.extractLsb' 0 32 = 0) (.mxsync)
  | _ => .error .unassigned

/-- STL (R85, R280-R282, R287). DESIGN CHOICE (log entry 46): OR of `cvcopy` with ORE = 0 and AG of `ringld` and `ringst` with AGE = 0 take
any value. -/
def decStl (sub : BitVec 6) (ga gb gc gd : Reg) (f : W32) : Except DecErr Instr :=
  match sub with
  | 0x00#6 => resv (gc = 0 ∧ gd = 0 ∧ f.extractLsb' 5 27 = 0) (.agcfg ga gb (f.extractLsb' 2 3) (f.extractLsb' 0 2))
  | 0x01#6 => resv (ga = 0 ∧ gb = 0 ∧ gc = 0 ∧ gd = 0 ∧ f.extractLsb' 12 20 = 0) (.agrun (f.extractLsb' 8 4) (f.extractLsb' 7 1) (f.extractLsb' 3 4) (f.extractLsb' 2 1) (f.extractLsb' 0 2))
  | 0x02#6 => resv (f.extractLsb' 0 32 = 0) (.copy ga gb gc gd)
  | 0x03#6 => resv (f.extractLsb' 19 13 = 0) (.gath ga gb gc gd (f.extractLsb' 16 3) (f.extractLsb' 0 16))
  | 0x04#6 => resv (f.extractLsb' 19 13 = 0) (.scat ga gb gc gd (f.extractLsb' 16 3) (f.extractLsb' 0 16))
  | 0x05#6 => resv (gb = 0 ∧ gc = 0 ∧ gd = 0 ∧ f.extractLsb' 16 16 = 0) (.ringld ga (f.extractLsb' 14 2) (f.extractLsb' 13 1) (f.extractLsb' 4 9) (f.extractLsb' 0 4))
  | 0x06#6 => resv (gb = 0 ∧ gc = 0 ∧ gd = 0 ∧ f.extractLsb' 16 16 = 0) (.ringst ga (f.extractLsb' 14 2) (f.extractLsb' 13 1) (f.extractLsb' 4 9) (f.extractLsb' 0 4))
  | 0x07#6 => resv (gb = 0 ∧ gc = 0 ∧ gd = 0 ∧ f.extractLsb' 6 26 = 0) (.tsload ga (f.extractLsb' 0 6))
  | 0x08#6 => resv (f.extractLsb' 20 12 = 0) (.deliv ga gb gc gd (f.extractLsb' 0 20))
  | 0x09#6 => resv (f.extractLsb' 13 19 = 0) (.cvcopy ga gb gc gd (f.extractLsb' 12 1) (f.extractLsb' 8 4) (f.extractLsb' 4 4) (f.extractLsb' 0 4))
  | 0x0A#6 => resv (ga = 0 ∧ gb = 0 ∧ gc = 0 ∧ gd = 0 ∧ f.extractLsb' 2 30 = 0) (.agstop (f.extractLsb' 0 2))
  | _ => .error .unassigned

/-- A node row (R92-R94): its own space of 32-bit words; a reserved code or a non-zero unlisted field is refused. DESIGN CHOICE (log entry
46): `nfilt` lists 'SB or IMM', and both may be non-zero whatever IMM[11] is. -/
def decodeRow (w : W32) : Except DecErr Instr :=
  let ty := w.extractLsb' 24 3
  let ds := w.extractLsb' 21 3
  let sa := w.extractLsb' 18 3
  let sb := w.extractLsb' 15 3
  let cmp := w.extractLsb' 12 3
  let imm := w.extractLsb' 0 4
  match w.extractLsb' 27 5 with
  | 0x00#5 => resv (ty = 0 ∧ ds = 0 ∧ sa = 0 ∧ sb = 0 ∧ cmp = 0 ∧ w.extractLsb' 0 12 = 0) (.nend)
  | 0x01#5 => resv (sa = 0 ∧ sb = 0 ∧ cmp = 0 ∧ w.extractLsb' 4 8 = 0 ∧ ty ≠ 7 ∧ imm ≠ 15) (.nscan ty ds imm)
  | 0x02#5 => resv (sb = 0 ∧ cmp = 0 ∧ w.extractLsb' 4 8 = 0 ∧ ty ≠ 7) (.ngath ty ds sa imm)
  | 0x03#5 => resv (w.extractLsb' 4 7 = 0 ∧ ty ≠ 7 ∧ cmp ≠ 7) (.nfilt ty ds sa sb cmp (w.extractLsb' 11 1) imm)
  | 0x04#5 => resv (cmp = 0 ∧ w.extractLsb' 0 12 = 0 ∧ ty ≠ 7) (.ncmpk ty ds sa sb)
  | 0x05#5 => resv (sb = 0 ∧ cmp = 0 ∧ w.extractLsb' 0 12 = 0 ∧ ty ≠ 7) (.nsum ty ds sa)
  | 0x06#5 => resv (sb = 0 ∧ cmp = 0 ∧ w.extractLsb' 0 12 = 0 ∧ ty ≠ 7) (.nmin ty ds sa)
  | 0x07#5 => resv (sb = 0 ∧ cmp = 0 ∧ w.extractLsb' 0 12 = 0 ∧ ty ≠ 7) (.nmax ty ds sa)
  | 0x08#5 => resv (sb = 0 ∧ cmp = 0 ∧ w.extractLsb' 0 12 = 0 ∧ ty ≠ 7) (.ncnt ty ds sa)
  | 0x09#5 => resv (ds = 0 ∧ sb = 0 ∧ cmp = 0 ∧ w.extractLsb' 4 8 = 0 ∧ ty ≠ 7) (.nemit ty sa imm)
  | _ => .error .unassigned

/-- Whether a first word is a long form (R76): major opcode 0x3E or 0x3F. -/
def isLong (w : W32) : Bool := decide (fOp w = 0x3E#6) || decide (fOp w = 0x3F#6)

/-- A long form from its first word and its field word (R76, R83). -/
def decodeLong (w f : W32) : Except DecErr Instr :=
  let sub := w.extractLsb' 20 6
  let ga := w.extractLsb' 15 5
  let gb := w.extractLsb' 10 5
  let gc := w.extractLsb' 5 5
  let gd := w.extractLsb' 0 5
  if fOp w = 0x3E#6 then decMxl sub ga gb gc gd f else decStl sub ga gb gc gd f

/-- The instruction whose first word is `w` and whose next word, used by a long form only, is `f`. -/
def decodeWords (w f : W32) : Except DecErr Instr := if isLong w then decodeLong w f else decodeWord w

/-- A 32-bit word from its four bytes, the lowest address first (R2, R75). -/
def wordOf (b0 b1 b2 b3 : Byte) : W32 := b3 ++ b2 ++ b1 ++ b0

/-- Decode the first instruction of a list of bytes, total: the instruction and the bytes after it, or the error's name. -/
def decode : List Byte → Except DecErr (Instr × List Byte)
  | b0 :: b1 :: b2 :: b3 :: rest =>
    if isLong (wordOf b0 b1 b2 b3) then
      match rest with
      | c0 :: c1 :: c2 :: c3 :: rest' =>
        (decodeLong (wordOf b0 b1 b2 b3) (wordOf c0 c1 c2 c3)).map (fun i => (i, rest'))
      | _ => .error .short
    else (decodeWord (wordOf b0 b1 b2 b3)).map (fun i => (i, rest))
  | _ => .error .short

/-- SR (R76). -/
def encSR (op : BitVec 6) (gd ga gb : Reg) (fn : BitVec 11) : W32 := op ++ gd ++ ga ++ gb ++ fn
/-- SI, and SB with ga in the place of gd and gb in the place of ga (R76). -/
def encSI (op : BitVec 6) (gd ga : Reg) (imm : BitVec 16) : W32 := op ++ gd ++ ga ++ imm
/-- SJ (R76). -/
def encSJ (op : BitVec 6) (gd : Reg) (off : BitVec 21) : W32 := op ++ gd ++ off
/-- SL, first word (R76). -/
def encSL (op sub : BitVec 6) (ga gb gc gd : Reg) : W32 := op ++ sub ++ ga ++ gb ++ gc ++ gd
/-- A node row (R92). -/
def encRow (op : BitVec 5) (ty ds sa sb cmp : BitVec 3) (imm : BitVec 12) : W32 := op ++ ty ++ ds ++ sa ++ sb ++ cmp ++ imm

/-- The words of an instruction (R76-R94, R240-R294); a step that is no instruction has none. -/
def encode : Instr → List W32
  | .add gd ga gb => [encSR 0x01#6 gd ga gb 0x00#11]
  | .sub gd ga gb => [encSR 0x01#6 gd ga gb 0x01#11]
  | .and gd ga gb => [encSR 0x01#6 gd ga gb 0x02#11]
  | .or gd ga gb => [encSR 0x01#6 gd ga gb 0x03#11]
  | .xor gd ga gb => [encSR 0x01#6 gd ga gb 0x04#11]
  | .andn gd ga gb => [encSR 0x01#6 gd ga gb 0x05#11]
  | .shl gd ga gb => [encSR 0x01#6 gd ga gb 0x06#11]
  | .shr gd ga gb => [encSR 0x01#6 gd ga gb 0x07#11]
  | .sra gd ga gb => [encSR 0x01#6 gd ga gb 0x08#11]
  | .rotr gd ga gb => [encSR 0x01#6 gd ga gb 0x09#11]
  | .slt gd ga gb => [encSR 0x01#6 gd ga gb 0x0A#11]
  | .sltn gd ga gb => [encSR 0x01#6 gd ga gb 0x0B#11]
  | .min gd ga gb => [encSR 0x01#6 gd ga gb 0x0C#11]
  | .max gd ga gb => [encSR 0x01#6 gd ga gb 0x0D#11]
  | .minn gd ga gb => [encSR 0x01#6 gd ga gb 0x0E#11]
  | .maxn gd ga gb => [encSR 0x01#6 gd ga gb 0x0F#11]
  | .mul gd ga gb => [encSR 0x01#6 gd ga gb 0x10#11]
  | .mulh gd ga gb => [encSR 0x01#6 gd ga gb 0x11#11]
  | .mulhn gd ga gb => [encSR 0x01#6 gd ga gb 0x12#11]
  | .div gd ga gb => [encSR 0x01#6 gd ga gb 0x13#11]
  | .divn gd ga gb => [encSR 0x01#6 gd ga gb 0x14#11]
  | .rem gd ga gb => [encSR 0x01#6 gd ga gb 0x15#11]
  | .remn gd ga gb => [encSR 0x01#6 gd ga gb 0x16#11]
  | .clz gd ga => [encSR 0x01#6 gd ga 0 0x17#11]
  | .ctz gd ga => [encSR 0x01#6 gd ga 0 0x18#11]
  | .popc gd ga => [encSR 0x01#6 gd ga 0 0x19#11]
  | .sxb gd ga => [encSR 0x01#6 gd ga 0 0x1A#11]
  | .sxh gd ga => [encSR 0x01#6 gd ga 0 0x1B#11]
  | .sxw gd ga => [encSR 0x01#6 gd ga 0 0x1C#11]
  | .zxw gd ga => [encSR 0x01#6 gd ga 0 0x1D#11]
  | .addi gd ga imm => [encSI 0x02#6 gd ga imm]
  | .andi gd ga imm => [encSI 0x03#6 gd ga imm]
  | .ori gd ga imm => [encSI 0x04#6 gd ga imm]
  | .xori gd ga imm => [encSI 0x05#6 gd ga imm]
  | .shiL gd ga sh => [encSI 0x06#6 gd ga (0x00#8 ++ 0#2 ++ sh)]
  | .shiR gd ga sh => [encSI 0x06#6 gd ga (0x00#8 ++ 1#2 ++ sh)]
  | .shiA gd ga sh => [encSI 0x06#6 gd ga (0x00#8 ++ 2#2 ++ sh)]
  | .shiO gd ga sh => [encSI 0x06#6 gd ga (0x00#8 ++ 3#2 ++ sh)]
  | .slti gd ga imm => [encSI 0x07#6 gd ga imm]
  | .sltni gd ga imm => [encSI 0x08#6 gd ga imm]
  | .lui gd imm => [encSI 0x09#6 gd 0 imm]
  | .addpc gd imm => [encSI 0x0A#6 gd 0 imm]
  | .muli gd ga imm => [encSI 0x0B#6 gd ga imm]
  | .ldb gd ga imm => [encSI 0x10#6 gd ga imm]
  | .ldh gd ga imm => [encSI 0x11#6 gd ga imm]
  | .ldw gd ga imm => [encSI 0x12#6 gd ga imm]
  | .ldd gd ga imm => [encSI 0x13#6 gd ga imm]
  | .ldbn gd ga imm => [encSI 0x14#6 gd ga imm]
  | .ldhn gd ga imm => [encSI 0x15#6 gd ga imm]
  | .ldwn gd ga imm => [encSI 0x16#6 gd ga imm]
  | .stb gd ga imm => [encSI 0x18#6 gd ga imm]
  | .sth gd ga imm => [encSI 0x19#6 gd ga imm]
  | .stw gd ga imm => [encSI 0x1A#6 gd ga imm]
  | .std gd ga imm => [encSI 0x1B#6 gd ga imm]
  | .beq ga gb imm => [encSI 0x20#6 ga gb imm]
  | .bne ga gb imm => [encSI 0x21#6 ga gb imm]
  | .blt ga gb imm => [encSI 0x22#6 ga gb imm]
  | .bge ga gb imm => [encSI 0x23#6 ga gb imm]
  | .bltn ga gb imm => [encSI 0x24#6 ga gb imm]
  | .bgen ga gb imm => [encSI 0x25#6 ga gb imm]
  | .jal gd imm => [encSJ 0x26#6 gd imm]
  | .jalr gd ga imm => [encSI 0x27#6 gd ga imm]
  | .nop => [encSI 0x28#6 0 0 (0x0#4 ++ 0x000#12)]
  | .halt => [encSI 0x28#6 0 0 (0x1#4 ++ 0x000#12)]
  | .trapi code => [encSI 0x28#6 0 0 (0x2#4 ++ (0x0#4 ++ code))]
  | .rett => [encSI 0x28#6 0 0 (0x3#4 ++ 0x000#12)]
  | .brk => [encSI 0x28#6 0 0 (0x4#4 ++ 0x000#12)]
  | .crr gd creg => [encSI 0x28#6 gd 0 (0x5#4 ++ creg)]
  | .crw ga creg => [encSI 0x28#6 0 ga (0x6#4 ++ creg)]
  | .crs ga creg => [encSI 0x28#6 0 ga (0x7#4 ++ creg)]
  | .crc ga creg => [encSI 0x28#6 0 ga (0x8#4 ++ creg)]
  | .fence ord scope pmask => [encSI 0x29#6 0 0 (0#1 ++ ord ++ scope ++ 0x0#4 ++ pmask)]
  | .fencex smask dmask scope => [encSI 0x29#6 0 0 (1#1 ++ smask ++ dmask ++ 0#2 ++ scope)]
  | .amoadd32 gd ga gb ord scope => [encSR 0x2A#6 gd ga gb (ord ++ scope ++ 0x00#5)]
  | .amoadd64 gd ga gb ord scope => [encSR 0x2A#6 gd ga gb (ord ++ scope ++ 0x01#5)]
  | .amominI32 gd ga gb ord scope => [encSR 0x2A#6 gd ga gb (ord ++ scope ++ 0x02#5)]
  | .amominN32 gd ga gb ord scope => [encSR 0x2A#6 gd ga gb (ord ++ scope ++ 0x03#5)]
  | .amominI64 gd ga gb ord scope => [encSR 0x2A#6 gd ga gb (ord ++ scope ++ 0x04#5)]
  | .amominN64 gd ga gb ord scope => [encSR 0x2A#6 gd ga gb (ord ++ scope ++ 0x05#5)]
  | .amomaxI32 gd ga gb ord scope => [encSR 0x2A#6 gd ga gb (ord ++ scope ++ 0x06#5)]
  | .amomaxN32 gd ga gb ord scope => [encSR 0x2A#6 gd ga gb (ord ++ scope ++ 0x07#5)]
  | .amomaxI64 gd ga gb ord scope => [encSR 0x2A#6 gd ga gb (ord ++ scope ++ 0x08#5)]
  | .amomaxN64 gd ga gb ord scope => [encSR 0x2A#6 gd ga gb (ord ++ scope ++ 0x09#5)]
  | .amofaddF32 gd ga gb ord scope => [encSR 0x2A#6 gd ga gb (ord ++ scope ++ 0x0A#5)]
  | .amofaddF64 gd ga gb ord scope => [encSR 0x2A#6 gd ga gb (ord ++ scope ++ 0x0B#5)]
  | .amofaddBf16x2 gd ga gb ord scope => [encSR 0x2A#6 gd ga gb (ord ++ scope ++ 0x0C#5)]
  | .amoand32 gd ga gb ord scope => [encSR 0x2A#6 gd ga gb (ord ++ scope ++ 0x0D#5)]
  | .amoand64 gd ga gb ord scope => [encSR 0x2A#6 gd ga gb (ord ++ scope ++ 0x0E#5)]
  | .amoor32 gd ga gb ord scope => [encSR 0x2A#6 gd ga gb (ord ++ scope ++ 0x0F#5)]
  | .amoor64 gd ga gb ord scope => [encSR 0x2A#6 gd ga gb (ord ++ scope ++ 0x10#5)]
  | .amoxor32 gd ga gb ord scope => [encSR 0x2A#6 gd ga gb (ord ++ scope ++ 0x11#5)]
  | .amoxor64 gd ga gb ord scope => [encSR 0x2A#6 gd ga gb (ord ++ scope ++ 0x12#5)]
  | .amoswap32 gd ga gb ord scope => [encSR 0x2A#6 gd ga gb (ord ++ scope ++ 0x13#5)]
  | .amoswap64 gd ga gb ord scope => [encSR 0x2A#6 gd ga gb (ord ++ scope ++ 0x14#5)]
  | .amoinc32 gd ga gb ord scope => [encSR 0x2A#6 gd ga gb (ord ++ scope ++ 0x15#5)]
  | .amoinc64 gd ga gb ord scope => [encSR 0x2A#6 gd ga gb (ord ++ scope ++ 0x16#5)]
  | .amodec32 gd ga gb ord scope => [encSR 0x2A#6 gd ga gb (ord ++ scope ++ 0x17#5)]
  | .amodec64 gd ga gb ord scope => [encSR 0x2A#6 gd ga gb (ord ++ scope ++ 0x18#5)]
  | .amocas32 gd ga gb ord scope => [encSR 0x2B#6 gd ga gb (ord ++ scope ++ 0x00#5)]
  | .amocas64 gd ga gb ord scope => [encSR 0x2B#6 gd ga gb (ord ++ scope ++ 0x01#5)]
  | .redadd32 gd ga gb ord scope => [encSR 0x2C#6 gd ga gb (ord ++ scope ++ 0x00#5)]
  | .redadd64 gd ga gb ord scope => [encSR 0x2C#6 gd ga gb (ord ++ scope ++ 0x01#5)]
  | .redminI32 gd ga gb ord scope => [encSR 0x2C#6 gd ga gb (ord ++ scope ++ 0x02#5)]
  | .redminN32 gd ga gb ord scope => [encSR 0x2C#6 gd ga gb (ord ++ scope ++ 0x03#5)]
  | .redminI64 gd ga gb ord scope => [encSR 0x2C#6 gd ga gb (ord ++ scope ++ 0x04#5)]
  | .redminN64 gd ga gb ord scope => [encSR 0x2C#6 gd ga gb (ord ++ scope ++ 0x05#5)]
  | .redmaxI32 gd ga gb ord scope => [encSR 0x2C#6 gd ga gb (ord ++ scope ++ 0x06#5)]
  | .redmaxN32 gd ga gb ord scope => [encSR 0x2C#6 gd ga gb (ord ++ scope ++ 0x07#5)]
  | .redmaxI64 gd ga gb ord scope => [encSR 0x2C#6 gd ga gb (ord ++ scope ++ 0x08#5)]
  | .redmaxN64 gd ga gb ord scope => [encSR 0x2C#6 gd ga gb (ord ++ scope ++ 0x09#5)]
  | .redfaddF32 gd ga gb ord scope => [encSR 0x2C#6 gd ga gb (ord ++ scope ++ 0x0A#5)]
  | .redfaddF64 gd ga gb ord scope => [encSR 0x2C#6 gd ga gb (ord ++ scope ++ 0x0B#5)]
  | .redfaddBf16x2 gd ga gb ord scope => [encSR 0x2C#6 gd ga gb (ord ++ scope ++ 0x0C#5)]
  | .redand32 gd ga gb ord scope => [encSR 0x2C#6 gd ga gb (ord ++ scope ++ 0x0D#5)]
  | .redand64 gd ga gb ord scope => [encSR 0x2C#6 gd ga gb (ord ++ scope ++ 0x0E#5)]
  | .redor32 gd ga gb ord scope => [encSR 0x2C#6 gd ga gb (ord ++ scope ++ 0x0F#5)]
  | .redor64 gd ga gb ord scope => [encSR 0x2C#6 gd ga gb (ord ++ scope ++ 0x10#5)]
  | .redxor32 gd ga gb ord scope => [encSR 0x2C#6 gd ga gb (ord ++ scope ++ 0x11#5)]
  | .redxor64 gd ga gb ord scope => [encSR 0x2C#6 gd ga gb (ord ++ scope ++ 0x12#5)]
  | .redswap32 gd ga gb ord scope => [encSR 0x2C#6 gd ga gb (ord ++ scope ++ 0x13#5)]
  | .redswap64 gd ga gb ord scope => [encSR 0x2C#6 gd ga gb (ord ++ scope ++ 0x14#5)]
  | .redinc32 gd ga gb ord scope => [encSR 0x2C#6 gd ga gb (ord ++ scope ++ 0x15#5)]
  | .redinc64 gd ga gb ord scope => [encSR 0x2C#6 gd ga gb (ord ++ scope ++ 0x16#5)]
  | .reddec32 gd ga gb ord scope => [encSR 0x2C#6 gd ga gb (ord ++ scope ++ 0x17#5)]
  | .reddec64 gd ga gb ord scope => [encSR 0x2C#6 gd ga gb (ord ++ scope ++ 0x18#5)]
  | .fadd gd ga gb p rm => [encSR 0x2D#6 gd ga gb (0#1 ++ p ++ rm ++ 0x00#6)]
  | .fsub gd ga gb p rm => [encSR 0x2D#6 gd ga gb (0#1 ++ p ++ rm ++ 0x01#6)]
  | .fmul gd ga gb p rm => [encSR 0x2D#6 gd ga gb (0#1 ++ p ++ rm ++ 0x02#6)]
  | .fdiv gd ga gb p rm => [encSR 0x2D#6 gd ga gb (0#1 ++ p ++ rm ++ 0x03#6)]
  | .fsqrt gd ga p rm => [encSR 0x2D#6 gd ga 0 (0#1 ++ p ++ rm ++ 0x04#6)]
  | .fmac gd ga gb p rm => [encSR 0x2D#6 gd ga gb (0#1 ++ p ++ rm ++ 0x05#6)]
  | .fnmac gd ga gb p rm => [encSR 0x2D#6 gd ga gb (0#1 ++ p ++ rm ++ 0x06#6)]
  | .fmin gd ga gb p => [encSR 0x2D#6 gd ga gb (0#1 ++ p ++ 7#3 ++ 0x07#6)]
  | .fmax gd ga gb p => [encSR 0x2D#6 gd ga gb (0#1 ++ p ++ 7#3 ++ 0x08#6)]
  | .fabs gd ga p => [encSR 0x2D#6 gd ga 0 (0#1 ++ p ++ 7#3 ++ 0x09#6)]
  | .fneg gd ga p => [encSR 0x2D#6 gd ga 0 (0#1 ++ p ++ 7#3 ++ 0x0A#6)]
  | .feq gd ga gb p => [encSR 0x2D#6 gd ga gb (0#1 ++ p ++ 7#3 ++ 0x0B#6)]
  | .flt gd ga gb p => [encSR 0x2D#6 gd ga gb (0#1 ++ p ++ 7#3 ++ 0x0C#6)]
  | .fle gd ga gb p => [encSR 0x2D#6 gd ga gb (0#1 ++ p ++ 7#3 ++ 0x0D#6)]
  | .fclass gd ga p => [encSR 0x2D#6 gd ga 0 (0#1 ++ p ++ 7#3 ++ 0x0E#6)]
  | .fcvtfi gd ga p rm => [encSR 0x2D#6 gd ga 0 (0#1 ++ p ++ rm ++ 0x10#6)]
  | .fcvtfn gd ga p rm => [encSR 0x2D#6 gd ga 0 (0#1 ++ p ++ rm ++ 0x11#6)]
  | .fcvtif gd ga p rm => [encSR 0x2D#6 gd ga 0 (0#1 ++ p ++ rm ++ 0x12#6)]
  | .fcvtnf gd ga p rm => [encSR 0x2D#6 gd ga 0 (0#1 ++ p ++ rm ++ 0x13#6)]
  | .fcvtff gd ga p rm => [encSR 0x2D#6 gd ga 0 (0#1 ++ p ++ rm ++ 0x14#6)]
  | .pin gd ga => [encSR 0x2E#6 gd ga 0 0x00#11]
  | .unpin gd ga => [encSR 0x2E#6 gd ga 0 0x01#11]
  | .discard ga gb => [encSR 0x2E#6 0 ga gb 0x02#11]
  | .wback ga gb => [encSR 0x2E#6 0 ga gb 0x03#11]
  | .l1inv => [encSR 0x2E#6 0 0 0 0x04#11]
  | .arrinit ga gb => [encSR 0x2F#6 0 ga gb 0x00#11]
  | .arradd ga gb => [encSR 0x2F#6 0 ga gb 0x01#11]
  | .arrwait ga gb => [encSR 0x2F#6 0 ga gb 0x02#11]
  | .arrpoll gd ga => [encSR 0x2F#6 gd ga 0 0x03#11]
  | .ctxld ga => [encSR 0x30#6 0 ga 0 0x00#11]
  | .lpgo ga gb => [encSR 0x30#6 0 ga gb 0x01#11]
  | .lpstop => [encSR 0x30#6 0 0 0 0x02#11]
  | .lpstat gd => [encSR 0x30#6 gd 0 0 0x03#11]
  | .sqw ga => [encSR 0x30#6 0 ga 0 0x04#11]
  | .toksend ga ch => [encSR 0x31#6 0 ga 0 (0x00#5 ++ 0#2 ++ ch)]
  | .tokwait ch => [encSR 0x31#6 0 0 0 (0x00#5 ++ 1#2 ++ ch)]
  | .tokbc ga ch => [encSR 0x31#6 0 ga 0 (0x00#5 ++ 2#2 ++ ch)]
  | .tokpoll gd ch => [encSR 0x31#6 gd 0 0 (0x00#5 ++ 3#2 ++ ch)]
  | .give ga gb => [encSR 0x32#6 0 ga gb (0#1 ++ 0#4 ++ 0x00#6)]
  | .bl1 n => [encSR 0x32#6 0 0 0 (0#1 ++ n ++ 0x01#6)]
  | .bscr n => [encSR 0x32#6 0 0 0 (0#1 ++ n ++ 0x02#6)]
  | .rgld ga n => [encSR 0x32#6 0 ga 0 (0#1 ++ n ++ 0x08#6)]
  | .rgsv ga n => [encSR 0x32#6 0 ga 0 (0#1 ++ n ++ 0x09#6)]
  | .rgoff n => [encSR 0x32#6 0 0 0 (0#1 ++ n ++ 0x0A#6)]
  | .rgpush n => [encSR 0x32#6 0 0 0 (0#1 ++ n ++ 0x0B#6)]
  | .rgpop n => [encSR 0x32#6 0 0 0 (0#1 ++ n ++ 0x0C#6)]
  | .rgstat gd n => [encSR 0x32#6 gd 0 0 (0#1 ++ n ++ 0x0D#6)]
  | .send gd ga gb => [encSR 0x33#6 gd ga gb 0x00#11]
  | .post gd ga gb => [encSR 0x33#6 gd ga gb 0x01#11]
  | .unpost gd ga => [encSR 0x33#6 gd ga 0 0x02#11]
  | .shq gd ga => [encSR 0x34#6 gd ga 0 0x00#11]
  | .shwait => [encSR 0x34#6 0 0 0 0x01#11]
  | .shspan gd => [encSR 0x34#6 gd 0 0 0x02#11]
  | .nrun gd ga gb => [encSR 0x35#6 gd ga gb 0x00#11]
  | .pcq gd ga => [encSR 0x35#6 gd ga 0 0x01#11]
  | .kset gd ga gb => [encSR 0x36#6 gd ga gb 0x00#11]
  | .kzero gd ga => [encSR 0x36#6 gd ga 0 0x01#11]
  | .scrgo gd ga => [encSR 0x36#6 gd ga 0 0x02#11]
  | .scrq gd ga => [encSR 0x36#6 gd ga 0 0x03#11]
  | .mxstep ga gc fresh sfmt blk pb pa shape acnm1 acb rnb rna fmt => [encSL 0x3E#6 0x00#6 ga 0 gc 0, 0#1 ++ fresh ++ sfmt ++ blk ++ pb ++ pa ++ shape ++ acnm1 ++ acb ++ rnb ++ rna ++ fmt]
  | .mxzero nm1 acb => [encSL 0x3E#6 0x01#6 0 0 0 0, 0#26 ++ nm1 ++ acb]
  | .mxld gc lf nm1 acb rs => [encSL 0x3E#6 0x02#6 0 0 gc 0, 0#20 ++ lf ++ nm1 ++ acb ++ rs]
  | .mxst ga gb gc ts orn ore dfmt ak nm1 acb rd => [encSL 0x3E#6 0x03#6 ga gb gc 0, 0#9 ++ ts ++ orn ++ ore ++ dfmt ++ ak ++ nm1 ++ acb ++ rd]
  | .mxmov tr dst src => [encSL 0x3E#6 0x04#6 0 0 0 0, 0#25 ++ tr ++ dst ++ src]
  | .mxsync => [encSL 0x3E#6 0x05#6 0 0 0 0, 0#32]
  | .agcfg ga gb ctr ag => [encSL 0x3F#6 0x00#6 ga gb 0 0, 0#27 ++ ctr ++ ag]
  | .agrun fch fen sch sen ag => [encSL 0x3F#6 0x01#6 0 0 0 0, 0#20 ++ fch ++ fen ++ sch ++ sen ++ ag]
  | .copy ga gb gc gd => [encSL 0x3F#6 0x02#6 ga gb gc gd, 0#32]
  | .gath ga gb gc gd les cnt => [encSL 0x3F#6 0x03#6 ga gb gc gd, 0#13 ++ les ++ cnt]
  | .scat ga gb gc gd les cnt => [encSL 0x3F#6 0x04#6 ga gb gc gd, 0#13 ++ les ++ cnt]
  | .ringld ga ag age n rg => [encSL 0x3F#6 0x05#6 ga 0 0 0, 0#16 ++ ag ++ age ++ n ++ rg]
  | .ringst ga ag age n rg => [encSL 0x3F#6 0x06#6 ga 0 0 0, 0#16 ++ ag ++ age ++ n ++ rg]
  | .tsload ga slot => [encSL 0x3F#6 0x07#6 ga 0 0 0, 0#26 ++ slot]
  | .deliv ga gb gc gd dst => [encSL 0x3F#6 0x08#6 ga gb gc gd, 0#12 ++ dst]
  | .cvcopy ga gb gc gd ore orn df sf => [encSL 0x3F#6 0x09#6 ga gb gc gd, 0#19 ++ ore ++ orn ++ df ++ sf]
  | .agstop ag => [encSL 0x3F#6 0x0A#6 0 0 0 0, 0#30 ++ ag]
  | .unassignedOpcode w => [w]
  | .nend => [encRow 0x00#5 0 0 0 0 0 0]
  | .nscan ty ds imm => [encRow 0x01#5 ty ds 0 0 0 (0#8 ++ imm)]
  | .ngath ty ds sa imm => [encRow 0x02#5 ty ds sa 0 0 (0#8 ++ imm)]
  | .nfilt ty ds sa sb cmp sel imm => [encRow 0x03#5 ty ds sa sb cmp (sel ++ 0#7 ++ imm)]
  | .ncmpk ty ds sa sb => [encRow 0x04#5 ty ds sa sb 0 0]
  | .nsum ty ds sa => [encRow 0x05#5 ty ds sa 0 0 0]
  | .nmin ty ds sa => [encRow 0x06#5 ty ds sa 0 0 0]
  | .nmax ty ds sa => [encRow 0x07#5 ty ds sa 0 0 0]
  | .ncnt ty ds sa => [encRow 0x08#5 ty ds sa 0 0 0]
  | .nemit ty sa imm => [encRow 0x09#5 ty 0 sa 0 0 (0#8 ++ imm)]
  | .arrayStep => []
  | .arrayChecksAnswered => []
  | .arrayFlushSlot => []
  | .loadQueueFill => []
  | .mxInterval => []
  | .mxTransferUnit => []
  | .mxTileUnit => []
  | .streamElementStep => []
  | .agElement => []
  | .ringTileLanded => []
  | .deliveryChunk => []
  | .deliveryRetry => []
  | .messageArrive => []
  | .sendCompletion => []
  | .giveAttach => []
  | .bankModeSet => []
  | .bscrZeroDone => []
  | .loadReply => []
  | .atomicReply => []
  | .storePerform => []
  | .ackReturn => []
  | .tokenArrive => []
  | .rseqEntry => []
  | .escalation => []
  | .raceSweep => []
  | .sliceAccess => []
  | .backPart => []
  | .spillTimeout => []
  | .atomicUpdate => []
  | .redirectLand => []
  | .redirectRetry => []
  | .edgeAtomic _ _ _ _ _ _ => []
  | .edgeWriteback => []
  | .hostAtomicCompletion _ _ _ => []
  | .completionTimeout => []
  | .forwardedAccess _ _ _ _ => []
  | .remapTableError _ _ _ => []
  | .shutterDrain => []
  | .shutterBegin => []
  | .shutterOverrun => []
  | .shutterEnd => []
  | .scheduleEntry => []
  | .pschedldGo => []
  | .pschedLoad => []
  | .wheelTakeEffect => []
  | .slwcmdGo _ => []
  | .maskChangeSet => []
  | .rsvptrTailWrite _ _ _ => []
  | .portctlHostenWrite _ _ => []
  | .xinvGo _ _ => []
  | .xinvComplete => []
  | .fbctlFlush _ => []
  | .mgctlMove _ _ => []
  | .mgctlCheckpointRead _ _ => []
  | .mgctlRehome _ _ => []
  | .nodeRequestStart => []
  | .queueTailNotice _ => []
  | .launch => []
  | .launchPlace => []
  | .fencePacket => []
  | .wait => []
  | .waitTest => []
  | .signal => []
  | .migrate => []
  | .hashset => []
  | .hashsetDone => []
  | .memberRemove => []
  | .memberAdmit => []
  | .qctlRun _ => []
  | .qctlSkip _ => []
  | .priorityPromotion => []
  | .compactionPass => []
  | .priorityPreempt => []
  | .quantumExpiry => []
  | .preemptRequest _ => []
  | .saveComplete => []
  | .placerMove _ => []
  | .restore => []
  | .strandEnd => []
  | .prectlRst _ => []
  | .prectlEvict _ => []
  | .prectlFree _ => []
  | .uncontainedFault _ _ => []
  | .hang => []
  | .partitionReset => []
  | .vfFlr _ => []
  | .vfClearUnit => []
  | .keySlotRegWrite _ _ => []
  | .scrubUnit => []
  | .seclaunchGo _ => []
  | .packageReset => []
  | .rmcmdVerify => []
  | .fuseMinver => []
  | .claim _ => []
  | .handover _ _ => []
  | .handoverTimeout => []
  | .release _ => []
  | .grantPeriod => []
  | .currentGate _ => []
  | .ticketWrite _ _ _ _ _ _ => []
  | .performRecord => []
  | .cfgRegisterWrite _ _ _ => []
  | .fetchFault => []
  | .attestationReport _ _ => []
  | .maskChangeFrameTimeout => []
  | .migrationFrameTimeout => []
  | .raceCheckReply => []

/-- The number of bytes an instruction occupies: 8 for a long form, else 4 (R75). -/
def Instr.size (i : Instr) : Nat := 4 * (encode i).length

/-- TVAL of ILLEGAL and PRIV (R79): the first word low, the field word of a long form high. -/
def Instr.tval (i : Instr) : W64 :=
  match encode i with
  | [w] => zext w
  | [w, f] => f ++ w
  | _ => 0

/-- TVAL of ILLEGAL and PRIV for words that do not decode (R79). -/
def wordsTval (w f : W32) : W64 := if isLong w then f ++ w else zext w

/-- The decoder read on a word numbered as the opcode table numbers it: the sequencer's decoder first, over the bytes as stored, and
for a word it does not take as an instruction the node rows' decoder, whose words are a space of their own (R92, log entry 17). -/
def decodeTableWord (nbits w : Nat) : Option Instr :=
  let w1 := BitVec.ofNat 32 (w % 2 ^ nbits)
  let f := BitVec.ofNat 32 (w % 2 ^ nbits / 2 ^ 32)
  match decodeWords w1 f with
  | .ok (.unassignedOpcode u) => some (match decodeRow w1 with | .ok i => i | .error _ => .unassignedOpcode u)
  | .ok i => some i
  | .error _ => match decodeRow w1 with | .ok i => some i | .error _ => none

end Sys2Proof
end

