-- ==== Sys2Proof/Config.lean ====
section
/-! DEFINITION. What the spec leaves open (R7): constants without a body. Nothing in Lean can evaluate one or prove a value of it, so
a statement about a choice holds whichever way the device chooses (log entries 4 and 11). -/
namespace Sys2Proof.Config

/-- The n-th free choice the device makes among outcomes the spec lists (R7); the machine reduces it modulo their number. -/
opaque freeChoice : Nat → Nat
/-- The n-th byte whose value the spec leaves undefined (R350: a destination after an aborted move). -/
opaque freeByte : Nat → BitVec 8
/-- KEYHASH, the fuse with the digest of the vendor's public key (R393). -/
opaque keyHash : BitVec 256
/-- The SM2 private key derived from a secret (R397): the identity key from UDS, the alias key from CDI. -/
opaque sm2Key : BitVec 256 → Nat
/-- The number that the signer of an SM2 signature draws, by a count of the free choices taken (R397). -/
opaque signNonce : Nat → Nat
/-- The package power in W, and the current of a die in A, that the arbiter predicts for a pool of ck, by a count of the free choices taken (R410). -/
opaque predictedPower : Nat → Nat → Nat
opaque predictedCurrent : Nat → Nat → Nat → Nat
/-- IDENT, the identity register (R395). -/
opaque ident : BitVec 64
/-- UDS, the unique device secret (R397). -/
opaque uds : BitVec 256

end Sys2Proof.Config
end

