-- ==== Sys2Proof/Machine/Tbl.lean ====
section
/-! DEFINITION. Sparse tables: lists of key and value with a default for a key that is not listed, kept in one canonical form
(keys strictly rising, no entry equal to the default). Memory, banks, register files and the configuration space are held so. -/
namespace Sys2Proof.Machine

/-- A table from natural-number keys; a key not listed has the default its reader names. -/
abbrev Tbl (α : Type) := List (Nat × α)

/-- The value listed under key `k`, if any. -/
def tblFind {α : Type} : Tbl α → Nat → Option α
  | [], _ => none
  | (j, u) :: t, k => if j = k then some u else tblFind t k

/-- The value at key `k`, or the default `d`. -/
def tblGet {α : Type} (d : α) (t : Tbl α) (k : Nat) : α := (tblFind t k).getD d

/-- The table without key `k`. -/
def tblErase {α : Type} : Tbl α → Nat → Tbl α
  | [], _ => []
  | (j, u) :: t, k => if j = k then tblErase t k else (j, u) :: tblErase t k

/-- The table with `v` listed under `k`, in its place. -/
def tblInsert {α : Type} : Tbl α → Nat → α → Tbl α
  | [], k, v => [(k, v)]
  | (j, u) :: t, k, v =>
    if k < j then (k, v) :: (j, u) :: t
    else if k = j then (k, v) :: t
    else (j, u) :: tblInsert t k v

/-- Write `v` at key `k`; writing the default removes the entry. -/
def tblPut {α : Type} [DecidableEq α] (d : α) (t : Tbl α) (k : Nat) (v : α) : Tbl α :=
  if v = d then tblErase t k else tblInsert t k v

/-- Change the value at key `k`. -/
def tblMod {α : Type} [DecidableEq α] (d : α) (t : Tbl α) (k : Nat) (f : α → α) : Tbl α :=
  tblPut d t k (f (tblGet d t k))

/-- Keys strictly rising, all of them at least `lo`. -/
def tblSortedFrom {α : Type} : Nat → Tbl α → Bool
  | _, [] => true
  | lo, (j, _) :: t => decide (lo ≤ j) && tblSortedFrom (j + 1) t

/-- The canonical form: keys strictly rising and no entry equal to the default. -/
def tblWf {α : Type} [DecidableEq α] (d : α) (t : Tbl α) : Bool :=
  tblSortedFrom 0 t && t.all (fun e => decide (e.2 ≠ d))

/-- `n` consecutive keys from `k`. -/
def span (k : Nat) : Nat → List Nat
  | 0 => []
  | n + 1 => k :: span (k + 1) n

/-- Put `x` into a sorted list, before the elements that do not come before it. -/
def insertBy {α : Type} (le : α → α → Bool) (x : α) : List α → List α
  | [] => [x]
  | y :: ys => if le x y then x :: y :: ys else y :: insertBy le x ys

/-- Sort a list by `le`; elements that `le` does not tell apart keep their order. -/
def sortBy {α : Type} (le : α → α → Bool) (l : List α) : List α := l.foldr (insertBy le) []

/-- Write a list of values at consecutive keys. -/
def tblPutAll {α : Type} [DecidableEq α] (d : α) : Tbl α → Nat → List α → Tbl α
  | t, _, [] => t
  | t, k, v :: vs => tblPutAll d (tblPut d t k v) (k + 1) vs

/-- Remove every key in `lo ≤ k < hi`. -/
def tblClear {α : Type} (t : Tbl α) (lo hi : Nat) : Tbl α :=
  t.filter (fun e => !(decide (lo ≤ e.1) && decide (e.1 < hi)))

end Sys2Proof.Machine
end

