-- ==== Sys2Proof/Machine/Crypt.lean ====
section
/-! DEFINITION. The standards that the security rules name: SM3 digests and their HMAC, SM2 signatures (R394, R397), AES-256-XTS (R402). -/
namespace Sys2Proof.Machine

/-! ### SM3 (R393, R394) -/

/-- A 32-bit word from four bytes, the first highest, and back. -/
def beWord (l : List Byte) : W32 := BitVec.ofNat 32 (ofBytes l.reverse)
def beBytes (n x : Nat) : List Byte := (toBytes n x).reverse
def beNat (l : List Byte) : Nat := ofBytes l.reverse

def sm3P0 (x : W32) : W32 := x ^^^ x.rotateLeft 9 ^^^ x.rotateLeft 17
def sm3P1 (x : W32) : W32 := x ^^^ x.rotateLeft 15 ^^^ x.rotateLeft 23
def sm3FF (j : Nat) (x y z : W32) : W32 := if j < 16 then x ^^^ y ^^^ z else (x &&& y) ||| (x &&& z) ||| (y &&& z)
def sm3GG (j : Nat) (x y z : W32) : W32 := if j < 16 then x ^^^ y ^^^ z else (x &&& y) ||| (~~~x &&& z)
def sm3T (j : Nat) : W32 := if j < 16 then 0x79CC4519#32 else 0x7A879D8A#32

/-- The message schedule of a block, the latest word first. -/
def sm3Expand : Nat → List W32 → List W32
  | 0, w => w
  | k + 1, w =>
    let at_ := fun (i : Nat) => w.getD i 0
    sm3Expand k ((sm3P1 (at_ 15 ^^^ at_ 8 ^^^ (at_ 2).rotateLeft 15) ^^^ (at_ 12).rotateLeft 7 ^^^ at_ 5) :: w)

/-- The eight chaining words. -/
structure Sm3St where
  a : W32
  b : W32
  c : W32
  d : W32
  e : W32
  f : W32
  g : W32
  h : W32
  deriving DecidableEq, Repr

/-- The initial value. -/
def sm3Init : Sm3St := ⟨0x7380166F#32, 0x4914B2B9#32, 0x172442D7#32, 0xDA8A0600#32, 0xA96F30BC#32, 0x163138AA#32, 0xE38DEE4D#32, 0xB0FB0E4E#32⟩

/-- Round `j` of the compression with the words W(j) and W(j+4). -/
def sm3Round (s : Sm3St) (x : Nat × W32 × W32) : Sm3St :=
  let ss1 := (s.a.rotateLeft 12 + s.e + (sm3T x.1).rotateLeft (x.1 % 32)).rotateLeft 7
  let ss2 := ss1 ^^^ s.a.rotateLeft 12
  let tt1 := sm3FF x.1 s.a s.b s.c + s.d + ss2 + (x.2.1 ^^^ x.2.2)
  let tt2 := sm3GG x.1 s.e s.f s.g + s.h + ss1 + x.2.1
  ⟨tt1, s.a, s.b.rotateLeft 9, s.c, sm3P0 tt2, s.e, s.f.rotateLeft 19, s.g⟩

/-- A block of 64 bytes. -/
def sm3Block (s : Sm3St) (b : List Byte) : Sm3St :=
  let w := (sm3Expand 52 ((span 0 16).map (fun i => beWord ((b.drop (4 * i)).take 4))).reverse).reverse
  let r := ((span 0 64).map (fun j => (j, w.getD j 0, w.getD (j + 4) 0))).foldl sm3Round s
  ⟨r.a ^^^ s.a, r.b ^^^ s.b, r.c ^^^ s.c, r.d ^^^ s.d, r.e ^^^ s.e, r.f ^^^ s.f, r.g ^^^ s.g, r.h ^^^ s.h⟩

/-- The blocks of a padded message. -/
def sm3Go : Nat → Sm3St → List Byte → Sm3St
  | 0, s, _ => s
  | k + 1, s, b => sm3Go k (sm3Block s (b.take 64)) (b.drop 64)

/-- The SM3 digest of a message, 32 bytes. -/
def sm3Bytes (m : List Byte) : List Byte :=
  let pad := 0x80#8 :: List.replicate ((119 - m.length % 64) % 64) 0#8
  let p := m ++ pad ++ beBytes 8 (8 * m.length)
  let s := sm3Go (p.length / 64) sm3Init p
  [s.a, s.b, s.c, s.d, s.e, s.f, s.g, s.h].flatMap (fun w => beBytes 4 w.toNat)

/-- The digest as a number whose lowest byte is the first. -/
def sm3 (m : List Byte) : BitVec 256 := BitVec.ofNat 256 (ofBytes (sm3Bytes m))

/-- HMAC-SM3 of a message under a key of at most 64 bytes (R397). -/
def hmacSm3 (key m : List Byte) : List Byte :=
  let k := key ++ List.replicate (64 - key.length) 0#8
  sm3Bytes (k.map (· ^^^ 0x5C#8) ++ sm3Bytes (k.map (· ^^^ 0x36#8) ++ m))

/-! ### SM2 (R394, R397) -/

def sm2P : Nat := 0xFFFFFFFEFFFFFFFFFFFFFFFFFFFFFFFFFFFFFFFF00000000FFFFFFFFFFFFFFFF
def sm2A : Nat := sm2P - 3
def sm2B : Nat := 0x28E9FA9E9D9F5E344D5A9E4BCF6509A7F39789F515AB8F92DDBCBD414D940E93
def sm2N : Nat := 0xFFFFFFFEFFFFFFFFFFFFFFFFFFFFFFFF7203DF6B21C6052B53BBF40939D54123
def sm2G : Nat × Nat :=
  (0x32C4AE2C1F1981195F9904466A39C9948FE30BBFF2660BE1715A4589334C74C7, 0xBC3736A2F4F6779C59BDCEE36B692153D0A9877CC62A474002DF32E52139F0A0)

/-- Power of `b` modulo `m`, for an exponent below 2^k. -/
def powMod (m : Nat) : Nat → Nat → Nat → Nat
  | 0, _, _ => 1 % m
  | k + 1, b, e => let r := powMod m k (b * b % m) (e / 2); if e % 2 = 1 then b * r % m else r
/-- Inverse modulo a prime below 2^256. -/
def invMod (m x : Nat) : Nat := powMod m 256 (x % m) (m - 2)

/-- Sum of two points of the curve; none is the point at infinity. -/
def sm2Add (p q : Option (Nat × Nat)) : Option (Nat × Nat) :=
  match p, q with
  | none, q => q
  | p, none => p
  | some (x1, y1), some (x2, y2) =>
    if x1 = x2 ∧ (y1 + y2) % sm2P = 0 then none
    else
      let l := if x1 = x2 then (3 * x1 * x1 + sm2A) * invMod sm2P (2 * y1) % sm2P else (y2 + sm2P - y1) * invMod sm2P (x2 + sm2P - x1) % sm2P
      let x := (l * l + 2 * sm2P - x1 - x2) % sm2P
      some (x, (l * (x1 + sm2P - x) + sm2P - y1) % sm2P)
/-- A multiple of a point, for a factor below 2^k. -/
def sm2Mul : Nat → Nat → Option (Nat × Nat) → Option (Nat × Nat)
  | 0, _, _ => none
  | k + 1, n, p => let r := sm2Mul k (n / 2) (sm2Add p p); if n % 2 = 1 then sm2Add r p else r
/-- The public key of a private key. -/
def sm2Pub (d : Nat) : Nat × Nat := (sm2Mul 256 d (some sm2G)).getD (0, 0)

/-- The digest that a signature of a message is over, with the default signer identity 1234567812345678 (R394). -/
def sm2Digest (pub : Nat × Nat) (m : List Byte) : Nat :=
  let ident : List Byte := [0x31#8, 0x32#8, 0x33#8, 0x34#8, 0x35#8, 0x36#8, 0x37#8, 0x38#8]
  let z := sm3Bytes (beBytes 2 128 ++ ident ++ ident ++ [sm2A, sm2B, sm2G.1, sm2G.2, pub.1, pub.2].flatMap (beBytes 32))
  beNat (sm3Bytes (z ++ m))

/-- Whether (r, s) is a signature of a message under a public key. -/
def sm2Verify (pub : Nat × Nat) (m : List Byte) (r s : Nat) : Bool :=
  let t := (r + s) % sm2N
  decide (1 ≤ r) && decide (r < sm2N) && decide (1 ≤ s) && decide (s < sm2N) && decide (t ≠ 0) &&
  decide (pub.1 < sm2P) && decide (pub.2 < sm2P) && decide (pub.2 * pub.2 % sm2P = (pub.1 * pub.1 * pub.1 + sm2A * pub.1 + sm2B) % sm2P) &&
  match sm2Add (sm2Mul 256 s (some sm2G)) (sm2Mul 256 t (some pub)) with
  | some (x, _) => decide ((sm2Digest pub m + x) % sm2N = r)
  | none => false

/-- The signature of a message under a private key with the number `k` that the signer drew: r, then s. -/
def sm2Sign (d k : Nat) (m : List Byte) : Nat × Nat :=
  let x := ((sm2Mul 256 k (some sm2G)).getD (0, 0)).1
  let r := (sm2Digest (sm2Pub d) m + x) % sm2N
  (r, invMod sm2N (1 + d) * ((k + sm2N * sm2N - r * d) % sm2N) % sm2N)

/-! ### AES-256-XTS (R402) -/

/-- Product in the field of AES, over `k` bits of the second factor. -/
def gfMul : Nat → Byte → Byte → Byte
  | 0, _, _ => 0
  | k + 1, a, b => (if b.getLsbD 0 then a else 0) ^^^ gfMul k ((a <<< 1) ^^^ (if a.getLsbD 7 then 0x1B else 0)) (b >>> 1)
/-- The inverse, 0 for 0: the power 254. -/
def gfInv (a : Byte) : Byte :=
  let sq := fun (x : Byte) => gfMul 8 x x
  let p2 := sq a
  let p4 := sq p2
  let p8 := sq p4
  let p16 := sq p8
  let p32 := sq p16
  let p64 := sq p32
  [p4, p8, p16, p32, p64, sq p64].foldl (gfMul 8) p2
def aesSub (a : Byte) : Byte :=
  let b := gfInv a
  b ^^^ b.rotateLeft 1 ^^^ b.rotateLeft 2 ^^^ b.rotateLeft 3 ^^^ b.rotateLeft 4 ^^^ 0x63
def aesUnsub (b : Byte) : Byte := gfInv (b.rotateLeft 1 ^^^ b.rotateLeft 3 ^^^ b.rotateLeft 6 ^^^ 0x05)

/-- Exclusive or of two lists of bytes. -/
def xorBytes (a b : List Byte) : List Byte := (a.zip b).map (fun x => x.1 ^^^ x.2)

/-- The round constant of the `i`-th multiple of the key length. -/
def aesRcon (i : Nat) : List Byte := [BitVec.ofNat 8 (2 ^ (i - 1)), 0, 0, 0]
/-- The words of the key schedule, the latest first, extended by `k` words. -/
def aesExpand : Nat → List (List Byte) → List (List Byte)
  | 0, w => w
  | k + 1, w =>
    let n := w.length
    let prev := w.headD []
    let t := if n % 8 = 0 then xorBytes ((prev.drop 1 ++ prev.take 1).map aesSub) (aesRcon (n / 8))
      else if n % 8 = 4 then prev.map aesSub else prev
    aesExpand k (xorBytes (w.getD 7 []) t :: w)
/-- The fifteen round keys of a 256-bit key, 16 bytes each. -/
def aesKeys (key : List Byte) : List (List Byte) :=
  let w := (aesExpand 52 ((span 0 8).map (fun i => (key.drop (4 * i)).take 4)).reverse).reverse
  (span 0 15).map (fun r => ((w.drop (4 * r)).take 4).flatten)

/-- Byte `k` of the state after the rows have been shifted by `s` columns for each row. -/
def aesRows (s : Nat) (x : List Byte) : List Byte := (span 0 16).map (fun k => x.getD ((k / 4 + s * (k % 4)) % 4 * 4 + k % 4) 0)
/-- The columns multiplied by the circulant of four factors. -/
def aesMix (f : List Byte) (x : List Byte) : List Byte :=
  (span 0 16).map (fun k => ((span 0 4).map (fun j => gfMul 8 (x.getD (k / 4 * 4 + j) 0) (f.getD ((j + 4 - k % 4) % 4) 0))).foldl (· ^^^ ·) 0)

/-- A block encrypted under round keys. -/
def aesEnc (ks : List (List Byte)) (b : List Byte) : List Byte :=
  let x := ((ks.drop 1).take 13).foldl (fun x k => xorBytes (aesMix [2, 3, 1, 1] (aesRows 1 (x.map aesSub))) k) (xorBytes b (ks.headD []))
  xorBytes (aesRows 1 (x.map aesSub)) (ks.getD 14 [])
/-- A block decrypted. -/
def aesDec (ks : List (List Byte)) (b : List Byte) : List Byte :=
  let x := ((ks.drop 1).take 13).reverse.foldl (fun x k => aesMix [14, 11, 13, 9] (xorBytes ((aesRows 3 x).map aesUnsub) k)) (xorBytes b (ks.getD 14 []))
  xorBytes ((aesRows 3 x).map aesUnsub) (ks.headD [])

/-- The tweaks of `n` blocks from the first. -/
def xtsTweaks : Nat → Nat → List Nat
  | 0, _ => []
  | n + 1, t => t :: xtsTweaks n (Nat.xor (2 * t % 2 ^ 128) (if 2 ^ 127 ≤ t then 0x87 else 0))
/-- A 64-byte data unit with a tweak value, under a data key and a tweak key of 32 bytes each (R402). -/
def xtsUnit (dec : Bool) (data tweak : List Byte) (unit : Nat) (b : List Byte) : List Byte :=
  let ks := aesKeys data
  let ts := xtsTweaks 4 (ofBytes (aesEnc (aesKeys tweak) (toBytes 16 unit)))
  (span 0 4).flatMap (fun j =>
    let t := toBytes 16 (ts.getD j 0)
    xorBytes ((if dec then aesDec else aesEnc) ks (xorBytes ((b.drop (16 * j)).take 16) t)) t)

end Sys2Proof.Machine
end

