-- ==== Sys2Proof/Machine/Cfg.lean ====
section
/-! DEFINITION. The configuration space (R391, R392): the offset from CFG of every register, its reset value and its mode. -/
namespace Sys2Proof.Machine

def offPsched (j : Nat) : Nat := 8 * j
def offPschedld : Nat := 0x30
def offPwrlim : Nat := 0x100
def offDielim (d : Nat) : Nat := 0x108 + 8 * d
def offPshare (p : Nat) : Nat := 0x140 + 8 * p
def offPwrstat : Nat := 0x1A0
def offOwner : Nat := 0x200
def offSeclaunch : Nat := 0x300
def offSlway (p s : Nat) : Nat := 0x10000 + 8 * (192 * p + s)
def offSlwcmd : Nat := 0x18000
def offSlwstat : Nat := 0x18008
def offRsvcfg (p d : Nat) : Nat := 0x20000 + 16 * (4 * p + d)
def offRsvptr (p d : Nat) : Nat := 0x20008 + 16 * (4 * p + d)
def offUbctl (p : Nat) : Nat := 0x20400 + 8 * p
def offPortctl (p : Nat) : Nat := 0x20480 + 8 * p
def offHmrow (s i : Nat) : Nat := 0x30000 + 64 * s + 8 * i
def offPcoff (s half : Nat) : Nat := 0x30200 + 16 * s + 8 * half
def offPtbase (p : Nat) : Nat := 0x40000 + 64 * p
def offXinv (p : Nat) : Nat := 0x40008 + 64 * p
def offFbcfg (p : Nat) : Nat := 0x40010 + 64 * p
def offFbptr (p : Nat) : Nat := 0x40018 + 64 * p
def offFbctl (p : Nat) : Nat := 0x40020 + 64 * p
def offAcccfg (p : Nat) : Nat := 0x40028 + 64 * p
def offAccptr (p : Nat) : Nat := 0x40030 + 64 * p
def offMgsrc (d : Nat) : Nat := 0x50000 + 64 * d
def offMgdst (d : Nat) : Nat := 0x50008 + 64 * d
def offMgva (d : Nat) : Nat := 0x50010 + 64 * d
def offMgctl (d : Nat) : Nat := 0x50018 + 64 * d
def offImgcfg (p : Nat) : Nat := 0x60000 + 32 * p
def offWdcfg (p : Nat) : Nat := 0x60008 + 32 * p
def offPrectl : Nat := 0x60200
def offVfcfg (v : Nat) : Nat := 0x70000 + 8 * v
def offVfrange (v r : Nat) : Nat := 0x71000 + 32 * v + 8 * r
def offVfclr (v : Nat) : Nat := 0x74000 + 8 * v
def offKstat (k : Nat) : Nat := 0x80000 + 512 * k
def offScrprog (k : Nat) : Nat := 0x80008 + 512 * k
def offPctx (k : Nat) : Nat := 0x80010 + 512 * k
def offPcbank (k j : Nat) : Nat := 0x80040 + 512 * k + 8 * j
def offKrange (k r : Nat) : Nat := 0x800C0 + 512 * k + 8 * r
def offQcfg (q : Nat) : Nat := 0x100000 + 32 * q
def offQpart (q : Nat) : Nat := 0x100008 + 32 * q
def offQstat (q : Nat) : Nat := 0x100010 + 32 * q
def offQctl (q : Nat) : Nat := 0x100018 + 32 * q

/-- Reset value of the register at an offset: the values of R36, R306, R318, R339, R389 and R409, and 0 for every other register
(R392); a register with no reset value in the spec also reads 0 (log entry 9). -/
def cfgReset (off : Nat) : Nat :=
  if off = 0x00 ∨ off = 0x18 then 0x76543210
  else if off = 0x08 ∨ off = 0x20 then 0x3210BA98
  else if off = 0x10 ∨ off = 0x28 then 0xBA987654
  else if off = 0x100 then 2600
  else if 0x108 ≤ off ∧ off < 0x128 then 850
  else if 0x140 ≤ off ∧ off < 0x1A0 then 16
  else if 0x10000 ≤ off ∧ off < 0x10000 + 8 * 192 * 12 then 0xFFFF
  else if 0x20400 ≤ off ∧ off < 0x20460 then 0x3FFFFF * 2 ^ 32
  else if 0x30000 ≤ off ∧ off < 0x30200 ∧ off % 64 < 56 then 2 ^ (off % 64 / 8)
  else if 0x60000 ≤ off ∧ off < 0x60180 ∧ off % 32 = 8 then 0xC845880
  else 0

/-- The configuration registers that differ from their reset value. -/
abbrev CfgTbl := Tbl Nat

/-- Read the register at an offset. -/
def cfgGet (t : CfgTbl) (off : Nat) : Nat := (tblFind t off).getD (cfgReset off)

/-- Write the register at an offset. -/
def cfgPut (t : CfgTbl) (off v : Nat) : CfgTbl := if v = cfgReset off then tblErase t off else tblInsert t off v

/-- Replace bits [lo+n-1 : lo] of a register. -/
def cfgField (t : CfgTbl) (off lo n v : Nat) : CfgTbl :=
  let x := cfgGet t off
  cfgPut t off (x - bitsOf x lo n * 2 ^ lo + v % 2 ^ n * 2 ^ lo)

end Sys2Proof.Machine
end

