-- ==== Sys2Proof/Machine/Geometry.lean ====
section
/-! DEFINITION. Numbers of cores, dies, partitions, hatch groups, stacks and slices (R10-R13, R110, R338). -/
namespace Sys2Proof.Machine

/-- Package column and row of core `n` (R10). -/
def coreX (n : Nat) : Nat := n % 32
def coreY (n : Nat) : Nat := n / 32
/-- Core number at (x, y). -/
def coreAt (x y : Nat) : Nat := 32 * y + x
/-- Die of a core (R10). -/
def dieOf (n : Nat) : Nat := 2 * (coreY n / 24) + coreX n / 16
/-- Partition of a core (R10). -/
def partOf (n : Nat) : Nat := 3 * dieOf n + (coreY n % 24) / 8
/-- Hatch group of a core (R10). -/
def groupOf (n : Nat) : Nat := 8 * (coreY n / 2) + coreX n / 4
/-- Number of a core within its hatch group (R10). -/
def coreInGroup (n : Nat) : Nat := 4 * (coreY n % 2) + coreX n % 4
/-- The core with number `c` in group `h`. -/
def groupCore (h c : Nat) : Nat := coreAt (4 * (h % 8) + c % 4) (2 * (h / 8) + c / 4)
/-- Core of a strand number, and its strand index (R18). -/
def coreOfSn (sn : Nat) : Nat := sn / 4
def sidxOf (sn : Nat) : Nat := sn % 4
/-- Die of a partition (R10). -/
def dieOfPart (p : Nat) : Nat := p / 3
/-- Package column and row of a partition's north-west core (R10). -/
def partX (p : Nat) : Nat := 16 * (dieOfPart p % 2)
def partY (p : Nat) : Nat := 24 * (dieOfPart p / 2) + 8 * (p % 3)

/-- Stack of a physical address, and its die (R110, R111). -/
def stackOf (pa : Nat) : Nat := bitsOf pa 36 3
def dieOfStack (st : Nat) : Nat := st / 2

/-- The exclusive or of the eight nibbles of a line number (R110). -/
def nibbleFold : Nat → Nat → Nat
  | 0, _ => 0
  | k + 1, l => Nat.xor (l % 16) (nibbleFold k (l / 16))

/-- Die-local slice of a line number (R110). -/
def sliceInDie (l : Nat) : Nat := 16 * (l % 3) + nibbleFold 8 l
/-- Package slice of a line number on a home die (R13, R110). -/
def homeSlice (die l : Nat) : Nat := 48 * die + sliceInDie l
/-- Home slice of a physical address (R110). -/
def homeOfPa (pa : Nat) : Nat := homeSlice (dieOfStack (stackOf pa)) (bitsOf pa 7 32)
/-- Set of a line in its slice (R304). -/
def setOf (l : Nat) : Nat := (l / 3) % 1024

/-- F of R338 under the rows of a stack. -/
def hashF : Nat → Nat → (Nat → Nat) → Nat
  | 0, _, _ => 0
  | i + 1, a, row => b2n (parityN 19 (Nat.land (bitsOf a 13 19) (row i))) * 2 ^ i + hashF i a row
/-- Pseudo-channel of a stack offset under the rows of a stack (R338). -/
def pseudoChannel (a : Nat) (row : Nat → Nat) : Nat := Nat.xor (bitsOf a 6 7) (hashF 7 a row)

end Sys2Proof.Machine
end

