-- ==== Sys2Proof/Machine/MemState.lean ====
section
/-! DEFINITION. The state of the memory side: stacks, banks, shared slices, race records, translation caches, shutters, spills,
migrations, memory-mapped rings and the atomic paths to peers and the host (R106-R135, R304-R361). Plain data. -/
namespace Sys2Proof.Machine

/-- A byte with its poison mark (R73, R337). -/
abbrev PB := Byte × Bool

/-- A writer entry of a race record (R128). -/
structure RaceW where
  sn : Nat
  seq : Nat
  atom : Bool
  deriving DecidableEq, Repr

/-- The race record of one 32-byte granule (R128): a writer or none, up to three readers (strand number, sequence), the overflow bit. -/
structure Race where
  writer : Option RaceW
  readers : List (Nat × Nat)
  ovf : Bool
  deriving DecidableEq, Repr

/-- An empty record (R128). -/
def Race.empty : Race := ⟨none, [], false⟩

/-- One way of a slice's set that holds a line (R304). -/
structure Line where
  slice : Nat
  set : Nat
  way : Nat
  /-- L: PA[38:7], or VA[38:7] of an unbacked line (R304, R312) -/
  name : Nat
  unb : Bool
  /-- the partition that owns the line -/
  part : Nat
  dirty : Bool
  pinned : Bool
  /-- use stamp (R304), and the stamp at its allocation (R314) -/
  stamp : Nat
  born : Nat
  /-- of an unbacked line: its virtual part VA[47:12] and the address of the part's backing entry (R345) -/
  vpart : Nat
  ent : Nat
  data : List PB
  races : List Race
  deriving DecidableEq, Repr

/-- What an entry of a translation cache holds (R346): a leaf, a group of sixteen CONT entries by its first entry, or an upper table. -/
inductive TlbKind where
  | leaf | cont | table
  deriving DecidableEq, Repr

/-- A cached translation (R346): of a core (`unit` its number) or of a die (`unit` 2048 + die); the page number it was made for, the entry
and its level. -/
structure TlbEnt where
  unit : Nat
  part : Nat
  vpn : Nat
  entry : Nat
  lvl : Nat
  kind : TlbKind
  deriving DecidableEq, Repr

/-- A release broadcast under way on the token network (R129): the slices that have not entered it. -/
structure RelBc where
  sn : Nat
  seq : Nat
  left : List Nat
  deriving DecidableEq, Repr

/-- An access held on a spill (R317): its strand, path and identity, since when, and whether UNBACKED_SPILL was reported for it. -/
structure Held where
  sn : Nat
  path : Nat
  acc : Nat
  since : Nat
  reported : Bool
  deriving DecidableEq, Repr

/-- A part being backed (R315): its partition, its virtual part number VA[47:12], its home die, the address of its backing entry. -/
structure Spill where
  part : Nat
  vpart : Nat
  die : Nat
  entry : Nat
  held : List Held
  deriving DecidableEq, Repr

/-- Kind of error a chunk of device memory holds (R337). -/
inductive Ecc where
  | corr | uncorr
  deriving DecidableEq, Repr

/-- The shutter calendar (R355-R358): n0, whether it has begun, its drain, its overrun, when its work will be done (from outside). -/
structure Shutter where
  n0 : Nat
  drained : Bool
  begun : Bool
  overrun : Bool
  deriving DecidableEq, Repr

/-- A hash rewrite of a stack (R340): its new rows, the queue and index of the packet that asked for it. -/
structure Rewrite where
  stack : Nat
  rows : List Nat
  queue : Nat
  idx : Nat
  deriving DecidableEq, Repr

/-- A mask change in progress (R307, R308): the slices still to do, the set reached, the time since which it waits for a frame. -/
structure MaskChange where
  part : Nat
  wmask : Nat
  umask : Nat
  all : Bool
  slice : Nat
  set : Nat
  waitSince : Option Nat
  deriving DecidableEq, Repr

/-- A migration job (R350), with the 64-byte chunks or the parts done and the time since which an unbacked re-home waits for a frame. -/
structure MigJob where
  die : Nat
  mode : Nat
  size : Nat
  ndie : Nat
  part : Nat
  entry : Nat
  src : Nat
  dst : Nat
  va : Nat
  done : Nat
  waitSince : Option Nat
  /-- the queue and index of the MIGRATE packet that asked for it, if any (R367) -/
  queue : Option (Nat × Nat)
  deriving DecidableEq, Repr

/-- An entry of a die's UALink edge cache (R328): an aligned 8-byte word. -/
structure EdgeEnt where
  die : Nat
  pa : Nat
  word : List PB
  dirty : Bool
  /-- clock of the last update, and the use stamp -/
  since : Nat
  stamp : Nat
  deriving DecidableEq, Repr

/-- A counter of forwarded lines of one page (R349). -/
structure AccCount where
  part : Nat
  va : Nat
  reads : Nat
  writes : Nat
  stamp : Nat
  deriving DecidableEq, Repr

/-- What the front end is told (R154, R156, R317, R328, R337, R341, R357). -/
inductive Report where
  | eccUncorrectable (pa : Nat)
  | unbackedSpill (sn path : Nat)
  | shutterOverrun (n : Nat)
  | remapCopies (stack pc : Nat)
  | portalError (sn : Nat)
  | linkError (sn : Nat)
  | escalation (sn : Nat)
  | hang (kinst : Nat)
  | partitionReset (p q : Nat)
  | uncontained (p header : Nat)
  /-- an access of another partition to a protected range (R402) -/
  | keyGuard (slot pa : Nat)
  /-- a write the collective edge dropped (R413) -/
  | collectiveDrop (desc pkg : Nat)
  deriving DecidableEq, Repr

/-- The memory side. -/
structure Mem where
  /-- device memory that differs from 0 (log entry 1), by physical address; of a chunk written under a key the ciphertext (R402) -/
  dram : Tbl Byte
  /-- poison bits of device-memory chunks, by PA / 64 (R337) -/
  dpois : Tbl Bool
  /-- chunks that hold an error (R337), by PA / 64, and the clock since which they hold it (R342) -/
  ecc : Tbl (Option Ecc)
  eccAt : Tbl Nat
  /-- banks, by 65,536 * package bank number + offset (R11), their poison marks, and the 64-byte rows that hold an error of one symbol
  (log entry 15) -/
  banks : Tbl Byte
  bpois : Tbl Bool
  becc : Tbl Bool
  lines : List Line
  /-- use-stamp counter (R304) -/
  stamp : Nat
  /-- the live tenant schedule, 48 codes (R34, R36), and the entry in force -/
  sched : List Nat
  entry : Nat
  /-- released-sequence tables, by 8192 * slice + strand number (R129) -/
  rseqT : Tbl Nat
  rel : List RelBc
  /-- configuration registers (R392) -/
  cfg : CfgTbl
  tlb : List TlbEnt
  spills : List Spill
  shut : Shutter
  rewrites : List Rewrite
  mask : Option MaskChange
  migs : List MigJob
  edge : List EdgeEnt
  counts : List AccCount
  /-- records that wait for device memory (R348, R349): partition, whether of the access-count ring, bytes -/
  recs : List (Nat × Bool × List Byte)
  /-- failed remap-table copies, by 2 * stack + copy (R341) -/
  remapBad : List Nat
  /-- invalidations under way, by partition: VPN, size code, all (R346) -/
  xinv : List (Nat × Nat × Nat × Bool)
  reports : List Report
  /-- keys of the key slots: data key and tweak key (R402, R407) -/
  keys : Tbl (Nat × Nat)
  /-- 64 KiB units still to clear after a function-level reset, by function and unit address, in clearing order (R399) -/
  unclr : List (Nat × Nat)
  /-- scrubs asked for and not complete, in the order of their `scrgo` (R407) -/
  scrubs : List Nat
  /-- clock since which the unit of the scrub in progress is written (R403) -/
  scrubAt : Nat
  /-- free choices taken so far (log entry 4) -/
  draws : Nat
  deriving DecidableEq, Repr

end Sys2Proof.Machine
end

