-- ==== Sys2Proof/Machine/Mem.lean ====
section
/-! DEFINITION. Operations of the memory side: device memory by chunks (R337, R341), home slices with victims and bypass (R304, R305),
race records (R128-R135), unbacked parts (R312-R318), translation (R343-R347) and the coherent reads and writes of the device. -/
namespace Sys2Proof.Machine

/-- A free choice among `n` outcomes the spec lists (R7): no draw is taken when there is only one. -/
def Mem.pick (m : Mem) (n : Nat) : Nat × Mem :=
  if n ≤ 1 then (0, m) else (Config.freeChoice m.draws % n, { m with draws := m.draws + 1 })

/-- A free byte (log entry 4). -/
def Mem.freeByte (m : Mem) : Byte × Mem := (Config.freeByte m.draws, { m with draws := m.draws + 1 })

/-- Read and write one byte of a table of bytes and its poison marks. -/
def pbGet (t : Tbl Byte) (q : Tbl Bool) (k : Nat) : PB := (tblGet 0 t k, tblGet false q k)

/-- Bytes of an unpoisoned value, and back. -/
def clean (l : List Byte) : List PB := l.map (fun b => (b, false))
def pbBytes (l : List PB) : List Byte := l.map (·.1)
def pbPois (l : List PB) : Bool := l.any (·.2)
def pbNat (l : List PB) : Nat := ofBytes (pbBytes l)
def pbOf (n x : Nat) (pois : Bool) : List PB := (toBytes n x).map (fun b => (b, pois))

/-- `n` consecutive elements of a list from `k`. -/
def slice {α : Type} (l : List α) (k n : Nat) : List α := (l.drop k).take n

/-- Replace the elements of a list from `k` on. -/
def splice {α : Type} : List α → Nat → List α → List α
  | [], _, _ => []
  | l, _, [] => l
  | _ :: as, 0, b :: bs => b :: splice as 0 bs
  | a :: as, k + 1, bs => a :: splice as k bs

/-- The canonical form of memory: the addresses of device memory and of the banks, and their poison marks, rise strictly, and no entry equals
what an address that is not listed reads as (log entry 1). -/
def Memory.wf (m : Mem) : Bool := tblWf 0 m.dram && tblWf false m.dpois && tblWf 0 m.banks && tblWf false m.bpois

/-! ### Banks (R11, R107, R108) -/

/-- Read `n` bytes of a bank. -/
def Mem.bankRead (m : Mem) (bank off n : Nat) : List PB :=
  (span (65536 * bank + off) n).map (fun k => pbGet m.banks m.bpois k)

/-- Write bytes of a bank. -/
def Mem.bankWrite (m : Mem) (bank off : Nat) (l : List PB) : Mem :=
  { m with banks := tblPutAll 0 m.banks (65536 * bank + off) (pbBytes l),
           bpois := tblPutAll false m.bpois (65536 * bank + off) (l.map (·.2)) }

/-- Whether a read of `n` bytes of a bank corrects an error, and the bank with its rows corrected (log entry 15). -/
def Mem.bankCorr (m : Mem) (bank off n : Nat) : Bool × Mem :=
  let lo := (65536 * bank + off) / 64
  let hi := (65536 * bank + off + n - 1) / 64 + 1
  (m.becc.any (fun e => decide (lo ≤ e.1) && decide (e.1 < hi)), { m with becc := tblClear m.becc lo hi })

/-- Set every byte of a bank to zero, unpoisoned. -/
def Mem.bankZero (m : Mem) (bank : Nat) : Mem :=
  { m with banks := tblClear m.banks (65536 * bank) (65536 * bank + 65536),
           bpois := tblClear m.bpois (65536 * bank) (65536 * bank + 65536),
           becc := tblClear m.becc (1024 * bank) (1024 * bank + 1024) }

/-! ### Device memory (R337, R338, R341) -/

/-- Row `i` of stack `st` (R339). -/
def Mem.hmrow (m : Mem) (st i : Nat) : Nat := cfgGet m.cfg (offHmrow st i)

/-- Pseudo-channel of a physical address (R338). -/
def Mem.pcOf (m : Mem) (pa : Nat) : Nat := pseudoChannel (bitsOf pa 0 36) (m.hmrow (stackOf pa))

/-- Whether the pseudo-channel of a physical address is offline (R341). -/
def Mem.offline (m : Mem) (pa : Nat) : Bool :=
  let c := m.pcOf pa
  bitOf (cfgGet m.cfg (offPcoff (stackOf pa) (c / 64))) (c % 64)

/-- Whether a stack takes requests: no shutter's drain or work (R356) and no hash rewrite (R340). -/
def Mem.devOpen (m : Mem) (pa : Nat) : Bool :=
  !m.shut.drained && !m.shut.begun && !(m.rewrites.any (fun r => decide (r.stack = stackOf pa)))

/-- The key slots whose ranges hold an address, with their ST and PART (R401, R402); an IDLE slot protects nothing. -/
def Mem.keysAt (m : Mem) (pa : Nat) : List (Nat × Nat × Nat) :=
  ((span 0 32).filter (fun k => decide (bitsOf (cfgGet m.cfg (offKstat k)) 0 2 ≠ 0) &&
    (span 0 (bitsOf (cfgGet m.cfg (offPctx k)) 40 4)).any (fun r =>
      let x := cfgGet m.cfg (offKrange k r)
      decide (bitsOf x 16 23 * 65536 ≤ pa) && decide (pa < (bitsOf x 16 23 + bitsOf x 0 16) * 65536)))).map
    (fun k => (k, bitsOf (cfgGet m.cfg (offKstat k)) 0 2, bitsOf (cfgGet m.cfg (offPctx k)) 24 4))

/-- The key slot under whose keys an address is written and read (R402): none outside the ranges of LOADED slots. DESIGN CHOICE (log entry 46): where
the ranges of several LOADED slots overlap, the lowest of them. -/
def Mem.keySlot (m : Mem) (pa : Nat) : Option Nat := ((m.keysAt pa).find? (fun x => decide (x.2.1 = 1))).map (·.1)

/-- Whether writes to an address are discarded because a slot that holds it is ZEROED or SCRUBBING (R402). -/
def Mem.keyShut (m : Mem) (pa : Nat) : Bool := (m.keysAt pa).any (fun x => decide (2 ≤ x.2.1))

/-- A chunk encrypted or decrypted under a slot's keys (R402): the tweak is PA[38:6]. -/
def Mem.xts (m : Mem) (dec : Bool) (k c : Nat) (b : List Byte) : List Byte :=
  let x := tblGet (0, 0) m.keys k
  xtsUnit dec (toBytes 32 x.1) (toBytes 32 x.2) (bitsOf c 0 33) b

/-- Bytes of device memory inside one chunk, as a read under the address's keys sees them (R402). -/
def Mem.plain (m : Mem) (pa n : Nat) : List Byte :=
  match m.keySlot pa with
  | none => (span pa n).map (tblGet 0 m.dram)
  | some k => slice (m.xts true k (pa / 64) ((span (pa / 64 * 64) 64).map (tblGet 0 m.dram))) (pa % 64) n

/-- Read `n` bytes at `pa`, inside one chunk: the bytes with poison, and whether an error was corrected (R337, R341). -/
def Mem.devRead (m : Mem) (pa n : Nat) : (List PB × Bool) × Mem :=
  if m.offline pa then ((pbOf n 0 true, false), m)
  else
    let c := pa / 64
    let bytes := m.plain pa n
    match tblGet none m.ecc c with
    | some .uncorr =>
      ((bytes.map (fun b => (b, true)), false),
        { m with dpois := tblPut false m.dpois c true, ecc := tblPut none m.ecc c none,
                 reports := m.reports ++ [.eccUncorrectable (64 * c)] })
    | some .corr =>
      ((bytes.map (fun b => (b, tblGet false m.dpois c)), true), { m with ecc := tblPut none m.ecc c none })
    | none => ((bytes.map (fun b => (b, tblGet false m.dpois c)), false), m)

/-- Write bytes at `pa`, inside one chunk (R337): a write that covers the chunk sets its poison bit anew, a partial one can only set it.
A write into the ranges of a ZEROED or SCRUBBING slot is discarded; one into a LOADED slot's is under its key (R402). -/
def Mem.devWrite (m : Mem) (pa : Nat) (l : List PB) : Mem :=
  let c := pa / 64
  let whole := decide (l.length = 64)
  if m.offline pa || m.keyShut pa then m
  else
    let dram := match m.keySlot pa with
      | none => tblPutAll 0 m.dram pa (pbBytes l)
      | some k => tblPutAll 0 m.dram (64 * c) (m.xts false k c (splice (m.plain (64 * c) 64) (pa % 64) (pbBytes l)))
    { m with dram := dram,
             dpois := tblPut false m.dpois c (pbPois l || (!whole && tblGet false m.dpois c)),
             ecc := if whole then tblPut none m.ecc c none else m.ecc }

/-- Drop the lines of 64 KiB of device memory without write-back, in the slices and in the edge caches (R328, R399, R403). -/
def Mem.dropUnit (m : Mem) (pa : Nat) : Mem :=
  { m with lines := m.lines.filter (fun l => l.unb || decide (128 * l.name < pa) || decide (pa + 65536 ≤ 128 * l.name)),
           edge := m.edge.filter (fun e => decide (e.pa < pa) || decide (pa + 65536 ≤ e.pa)) }

/-- Zero 64 KiB of device memory with the poison bits clear, as plaintext, and drop its lines (R403). -/
def Mem.zeroUnit (m : Mem) (pa : Nat) : Mem :=
  { m.dropUnit pa with
    dram := tblClear m.dram pa (pa + 65536), dpois := tblClear m.dpois (pa / 64) (pa / 64 + 1024), ecc := tblClear m.ecc (pa / 64) (pa / 64 + 1024) }

/-- The reset writes of a unit (R399): zeros that a read gives back, so under the keys of a LOADED slot that holds the unit, and discarded in
the ranges of a ZEROED or SCRUBBING one (R402; a slot's ranges are whole units). -/
def Mem.resetUnit (m : Mem) (pa : Nat) : Mem :=
  if (m.keysAt pa).isEmpty then m.zeroUnit pa
  else (span 0 1024).foldl (fun m k => m.devWrite (pa + 64 * k) (pbOf 64 0 false)) (m.dropUnit pa)

/-- Clear one unit that a function-level reset left uncleared, counting it in VFCLR (R399). -/
def Mem.clearUnit (m : Mem) (v u : Nat) : Mem :=
  let m := m.resetUnit u
  { m with unclr := m.unclr.filter (fun x => decide (x ≠ (v, u))),
           cfg := cfgPut m.cfg (offVfclr v) (cfgGet m.cfg (offVfclr v) + 1) }

/-- Whether an address lies in a unit that a function-level reset has still to clear (R399). -/
def Mem.uncleared (m : Mem) (pa : Nat) : Bool := m.unclr.any (fun x => decide (x.2 = pa / 65536 * 65536))

/-- An access that meets an uncleared unit waits until it has been cleared ahead of its turn (R399). -/
def Mem.clearAhead (m : Mem) (pa : Nat) : Mem :=
  (m.unclr.filter (fun x => decide (x.2 = pa / 65536 * 65536))).foldl (fun m x => m.clearUnit x.1 x.2) m

/-- Read a whole 128-byte line of device memory. -/
def Mem.devReadLine (m : Mem) (pa : Nat) : (List PB × Bool) × Mem :=
  let ((a, e), m) := m.devRead pa 64
  let ((b, f), m) := m.devRead (pa + 64) 64
  ((a ++ b, e || f), m)

/-- Write a whole 128-byte line to device memory. -/
def Mem.devWriteLine (m : Mem) (pa : Nat) (l : List PB) : Mem :=
  (m.devWrite pa (l.take 64)).devWrite (pa + 64) (l.drop 64)

/-! ### Lines of the slices (R304, R305, R311) -/

/-- The way masks of a partition on a slice (R306); while a change runs, only ways of both masks are allocated (R308). -/
def Mem.wmask (m : Mem) (p s : Nat) : Nat :=
  let w := bitsOf (cfgGet m.cfg (offSlway p s)) 0 16
  match m.mask with
  | some c => if c.part = p ∧ c.slice = s then Nat.land w c.wmask else w
  | none => w
def Mem.umask (m : Mem) (p s : Nat) : Nat :=
  let u := bitsOf (cfgGet m.cfg (offSlway p s)) 16 16
  match m.mask with
  | some c => if c.part = p ∧ c.slice = s then Nat.land u c.umask else u
  | none => u

/-- The lines of one set. -/
def Mem.setLines (m : Mem) (s st : Nat) : List Line := m.lines.filter (fun l => decide (l.slice = s) && decide (l.set = st))

/-- The backed line of a slice with a name. -/
def Mem.findLine (m : Mem) (s name : Nat) : Option Line :=
  m.lines.find? (fun l => decide (l.slice = s) && decide (l.name = name) && !l.unb)

/-- The unbacked line of a partition that holds a virtual address, at its slice (R312): by its part, so that no two pages share a line. -/
def Mem.findUnb (m : Mem) (s p va : Nat) : Option Line :=
  m.lines.find? (fun l => decide (l.slice = s) && decide (l.name = bitsOf va 7 32) && l.unb && decide (l.part = p) && decide (l.vpart = bitsOf va 12 36))

/-- Replace the line that stands in the same way, or add it. -/
def Mem.putLine (m : Mem) (l : Line) : Mem :=
  { m with lines := l :: m.lines.filter (fun k => !(decide (k.slice = l.slice) && decide (k.set = l.set) && decide (k.way = l.way))) }

/-- Drop the line in a way. -/
def Mem.dropLine (m : Mem) (l : Line) : Mem :=
  { m with lines := m.lines.filter (fun k => !(decide (k.slice = l.slice) && decide (k.set = l.set) && decide (k.way = l.way))) }

/-- RSEQ of a strand number in a slice's released-sequence table (R129). -/
def Mem.rseqAt (m : Mem) (s sn : Nat) : Nat := tblGet 0 m.rseqT (8192 * s + sn)

/-- Whether region `seq` of strand `sn` is released as slice `s` sees it (R129). -/
def Mem.released (m : Mem) (s sn seq : Nat) : Bool := decide ((m.rseqAt s sn + 256 - seq % 256) % 256 < 128)

/-- Whether a record holds an unreleased region (R132). -/
def Mem.raceLive (m : Mem) (s : Nat) (r : Race) : Bool :=
  (match r.writer with | some w => !m.released s w.sn w.seq | none => false) || r.readers.any (fun e => !m.released s e.1 e.2)

/-- The line with the oldest stamp of a list. -/
def oldestBy (f : Line → Nat) : List Line → Option Line
  | [] => none
  | l :: ls => match oldestBy f ls with
    | none => some l
    | some k => if f k < f l then some k else some l

/-- The way an allocation takes in a set, and the line it evicts (R305): `none` bypasses. -/
def Mem.victim (m : Mem) (s st ways : Nat) : Option (Nat × Option Line) :=
  let here := m.setLines s st
  let ok := fun w => bitOf ways w && !(here.any (fun l => decide (l.way = w) && (l.pinned || l.unb)))
  let cand := (span 0 16).filter ok
  match cand.find? (fun w => !(here.any (fun l => decide (l.way = w)))) with
  | some w => some (w, none)
  | none =>
    let ls := here.filter (fun l => ok l.way)
    let quiet := ls.filter (fun l => !(l.races.any (m.raceLive s)))
    match oldestBy (·.stamp) quiet with
    | some l => some (l.way, some l)
    | none => (oldestBy (·.stamp) ls).map (fun l => (l.way, some l))

/-- Write a dirty backed line back to device memory (R305). -/
def Mem.writeBack (m : Mem) (l : Line) : Mem := if l.dirty then m.devWriteLine (128 * l.name) l.data else m

/-- Number of unbacked lines a partition holds, LINES of UBCTL (R318). -/
def Mem.addLines (m : Mem) (p : Nat) (d : Int) : Mem :=
  { m with cfg := cfgField m.cfg (offUbctl p) 0 22 (((bitsOf (cfgGet m.cfg (offUbctl p)) 0 22 : Nat) : Int) + d).toNat }

/-- Four empty race records (R128). -/
def fourRaces : List Race := [.empty, .empty, .empty, .empty]

/-! ### The race check (R131, R132, R135) -/

/-- Kind of a checked access. -/
inductive RKind where
  | read | write | atomic
  deriving DecidableEq, Repr

/-- Who makes an access at a slice: its partition, strand number, path and identity; for a checked access CSEQ and SUPP. -/
structure Who where
  part : Nat
  sn : Nat
  path : Nat
  cseq : Nat
  supp : Bool
  checked : Bool
  acc : Nat
  deriving DecidableEq, Repr

/-- The device itself, for a partition (12: for none); its accesses are not checked. -/
def ownWho (p : Nat) : Who := ⟨p, 0, 0, 0, false, false, 0⟩
/-- The device on behalf of a spill (R315), which the set that a mask change processes does not hold (R308, R310): path 7. -/
def spillWho (p : Nat) : Who := ⟨p, 0, 7, 0, false, false, 0⟩

/-- RACEINFO of a conflict (R135): the other strand, its sequence, the kind, whether its writer was atomic, the granule PA[38:5], or
VA[38:5] for an unbacked line (R312). -/
structure Conflict where
  osn : Nat
  oseq : Nat
  kind : Nat
  oatom : Bool
  gran : Nat
  deriving DecidableEq, Repr

/-- The conflict of an access with one granule's record, if any (R131). -/
def Mem.conflictOf (m : Mem) (s : Nat) (w : Who) (k : RKind) (gran : Nat) (r : Race) : Option Conflict :=
  let wr : Option Conflict := match r.writer with
    | some e =>
      if e.sn ≠ w.sn ∧ m.released s e.sn e.seq = false then
        match k with
        | .read => if e.atom then none else some ⟨e.sn, e.seq, 0, e.atom, gran⟩
        | .write => some ⟨e.sn, e.seq, 1, e.atom, gran⟩
        | .atomic => if e.atom then none else some ⟨e.sn, e.seq, 1, e.atom, gran⟩
      else none
    | none => none
  match wr, k with
  | some c, _ => some c
  | none, .read => none
  | none, _ =>
    if r.ovf then none
    else (r.readers.find? (fun e => decide (e.1 ≠ w.sn) && !m.released s e.1 e.2)).map (fun e => ⟨e.1, e.2, 2, false, gran⟩)

/-- The record after an access that is performed (R132). -/
def Mem.recordOf (m : Mem) (s : Nat) (w : Who) (k : RKind) (r : Race) : Race :=
  match k with
  | .write => ⟨some ⟨w.sn, w.cseq, false⟩, [], false⟩
  | .atomic => ⟨some ⟨w.sn, w.cseq, true⟩, [], false⟩
  | .read =>
    if r.readers.any (fun e => decide (e.1 = w.sn)) then
      { r with readers := r.readers.map (fun e => if e.1 = w.sn then (e.1, w.cseq) else e) }
    else if r.readers.length < 3 then { r with readers := r.readers ++ [(w.sn, w.cseq)] }
    else match findIdx? (fun e => m.released s e.1 e.2) r.readers 0 with
      | some (i, _) => { r with readers := modAt (fun _ => (w.sn, w.cseq)) r.readers i }
      | none => { r with ovf := true }

/-- The granules, 0 to 3, that `n` bytes at line offset `o` touch (R128). -/
def granulesOf (o n : Nat) : List Nat := (span 0 4).filter (fun g => decide (o < 32 * (g + 1)) && decide (32 * g < o + n))

/-- The first conflict in any granule, the rows of R131 in order: first a conflict with a writer, then with a reader. -/
def Mem.lineConflict (m : Mem) (l : Line) (w : Who) (k : RKind) (o n : Nat) : Option Conflict :=
  if !w.checked then none
  else
    let cs := (granulesOf o n).filterMap (fun g => m.conflictOf l.slice w k (4 * l.name + g) (l.races.getD g .empty))
    match cs.find? (fun c => decide (c.kind < 2)) with
    | some c => some c
    | none => cs.head?

/-- The line's records after an access that is performed (R132). -/
def Mem.lineRecord (m : Mem) (l : Line) (w : Who) (k : RKind) (o n : Nat) : Line :=
  if !w.checked then l
  else { l with races := (granulesOf o n).foldl (fun rs g => modAt (m.recordOf l.slice w k) rs g) l.races }

/-! ### Accesses at the home slice (R110, R304, R305, R312-R314) -/

/-- Outcome of an access at a slice: performed, held, stopped by a malformed backing entry, or refused with a race. -/
inductive MR (α : Type) where
  | ok (a : α) (m : Mem)
  | hold (m : Mem)
  | badBacking (entry : Nat) (m : Mem)
  | race (c : Conflict) (m : Mem)

/-- What an access returned: the old bytes, whether a chunk was corrected, and a conflict passed under SUPP (R135). -/
structure SRes where
  old : List PB
  corr : Bool
  passed : Option Conflict
  deriving DecidableEq, Repr

/-- Whether the recall of a line's edge entries must wait (R328): a dirty one goes to device memory, which takes no requests. -/
def Mem.recallHeld (m : Mem) (pa : Nat) : Bool :=
  (m.findLine (homeOfPa pa) (pa / 128)).isNone && !m.devOpen pa && m.edge.any (fun e => decide (e.pa / 128 = pa / 128) && e.dirty)

/-- Recall the edge entries of a line: each is written back at its home and leaves the edge cache (R328). -/
def Mem.recall (m : Mem) (pa : Nat) : Mem :=
  let mine := m.edge.filter (fun e => decide (e.pa / 128 = pa / 128) && e.dirty)
  let m := { m with edge := m.edge.filter (fun e => !decide (e.pa / 128 = pa / 128)) }
  mine.foldl (fun m e =>
    match m.findLine (homeOfPa e.pa) (e.pa / 128) with
    | some l => { m with stamp := m.stamp + 1 }.putLine { l with data := splice l.data (e.pa % 128) e.word, dirty := true, stamp := m.stamp }
    | none => m.devWrite e.pa e.word) m

/-- Whether a mask change holds the set of a line (R308, R310). -/
def Mem.setHeld (m : Mem) (s st : Nat) : Bool :=
  match m.mask with
  | some c => decide (c.slice = s) && decide (c.set = st) && c.waitSince.isSome
  | none => false

/-- Whether writes to a line are held by a move that copies its frame (R350). -/
def Mem.moveHolds (m : Mem) (pa : Nat) : Bool :=
  m.migs.any (fun j => decide (j.mode = 0) && decide (j.src ≤ pa) && decide (pa < j.src + 2 ^ (if j.size = 0 then 12 else if j.size = 1 then 21 else 30)))

/-- The access on a line that is present: the race check, then the update (R131, R132). -/
def Mem.onLine (m : Mem) (l : Line) (w : Who) (k : RKind) (o n : Nat) (f : List PB → List PB) (corr : Bool) : MR SRes :=
  let old := slice l.data o n
  let c := m.lineConflict l w k o n
  match c with
  | some c =>
    if !w.supp then .race c m
    else
      let l := m.lineRecord l w k o n
      let l := if k = .read then l else { l with data := splice l.data o (f old), dirty := true }
      .ok ⟨old, corr, some c⟩ ({ m with stamp := m.stamp + 1 }.putLine { l with stamp := m.stamp })
  | none =>
    let l := m.lineRecord l w k o n
    let l := if k = .read then l else { l with data := splice l.data o (f old), dirty := true }
    .ok ⟨old, corr, none⟩ ({ m with stamp := m.stamp + 1 }.putLine { l with stamp := m.stamp })

/-- Whether R402 makes an access of a partition read zero and discard its write: a range of a LOADED slot of another partition, or of a
ZEROED or SCRUBBING slot. -/
def Mem.keyBars (m : Mem) (p pa : Nat) : Bool := (m.keysAt pa).any (fun x => decide (2 ≤ x.2.1) || decide (p ≠ x.2.2))

/-- The error record of an access that R402 makes read zero and discards. -/
def Mem.keyReport (m : Mem) (p pa : Nat) : Mem :=
  match (m.keysAt pa).find? (fun x => decide (2 ≤ x.2.1) || decide (p ≠ x.2.2)) with
  | some x => { m with reports := m.reports ++ [.keyGuard x.1 pa] }
  | none => m

/-- Pieces of `n` bytes at an address, cut at multiples of `step` (R169). -/
def pieces : Nat → Nat → Nat → Nat → List (Nat × Nat)
  | 0, _, _, _ => []
  | k + 1, va, n, step =>
    if n = 0 then []
    else if n ≤ step - va % step then [(va, n)]
    else (va, step - va % step) :: pieces k (va + (step - va % step)) (n - (step - va % step)) step

/-- The code of the schedule's entry in force, and whether it admits a use by a partition (R34, R35); 12 stands for no partition. -/
def Mem.entryCode (m : Mem) : Nat := m.sched.getD m.entry 0
def Mem.admits (m : Mem) (p : Nat) : Bool := decide (m.entryCode = p) || decide (m.entryCode = 15) || decide (p = 12)

/-- An access of `n` bytes, inside one line, to a physical address at its home slice (R304, R305), which may fill a line into `ways`; it is a use of its
partition, and waits for an entry of the schedule that admits it (R34, R35). -/
def Mem.physAccIn (m : Mem) (ways : Nat) (w : Who) (k : RKind) (pa n : Nat) (f : List PB → List PB) : MR SRes :=
  let s := homeOfPa pa
  let name := pa / 128
  if !m.admits w.part || (decide (w.path ≠ 7) && m.setHeld s (setOf name)) then .hold m
  else if m.keyBars w.part pa then .ok ⟨pbOf n 0 false, false, none⟩ (m.keyReport w.part pa)
  else if (decide (k ≠ .read) && m.moveHolds pa) then .hold m
  else if ((m.findLine s name).isNone || m.uncleared pa) && !m.devOpen pa then .hold m
  else
    let m := (m.clearAhead pa).recall pa
    match m.findLine s name with
    | some l => m.onLine l w k (pa % 128) n f false
    | none =>
      if !m.devOpen pa then .hold m
      else match m.victim s (setOf name) ways with
        | none =>
          -- bypass, with no race record (R305)
          let (old, corr, m) := (pieces n pa n 64).foldl (fun (a : List PB × Bool × Mem) x =>
            let ((b, e), m) := a.2.2.devRead x.1 x.2
            (a.1 ++ b, a.2.1 || e, m)) ([], false, m)
          if k = .read then .ok ⟨old, corr, none⟩ m
          else
            let new := f old
            let a := pa % 64
            let m := if a + n ≤ 64 then m.devWrite pa new
              else (m.devWrite pa (new.take (64 - a))).devWrite (pa - a + 64) (new.drop (64 - a))
            .ok ⟨old, corr, none⟩ m
        | some (way, ev) =>
          match ev with
          | some v =>
            if v.dirty && !m.devOpen (128 * v.name) then .hold m
            else
              let m := m.writeBack v
              let ((d, e), m) := m.devReadLine (128 * name)
              m.onLine ⟨s, setOf name, way, name, false, w.part, false, false, m.stamp, m.stamp, 0, 0, d, fourRaces⟩ w k (pa % 128) n f e
          | none =>
            let ((d, e), m) := m.devReadLine (128 * name)
            m.onLine ⟨s, setOf name, way, name, false, w.part, false, false, m.stamp, m.stamp, 0, 0, d, fourRaces⟩ w k (pa % 128) n f e

/-- An access of `n` bytes, inside one line, to a physical address at its home slice, in the ways of its partition (R305, R306). -/
def Mem.physAcc (m : Mem) (w : Who) (k : RKind) (pa n : Nat) (f : List PB → List PB) : MR SRes :=
  m.physAccIn (m.wmask w.part (homeOfPa pa)) w k pa n f

/-- What a coherent read of one byte gives: the word's byte if an edge cache holds it (R328), the line's if a slice holds it, else device memory's
(R316, R337, R341); zero in a unit that a function-level reset has still to clear (R399). -/
def Mem.peekByte (m : Mem) (pa : Nat) : PB :=
  if m.uncleared pa then (0, false)
  else match m.edge.find? (fun e => decide (e.pa / 8 = pa / 8)) with
  | some e => e.word.getD (pa % 8) (0, false)
  | none =>
  match m.findLine (homeOfPa pa) (pa / 128) with
  | some l => l.data.getD (pa % 128) (0, false)
  | none =>
    if m.offline pa then (0, true)
    else ((m.plain pa 1).getD 0 0, tblGet false m.dpois (pa / 64) || decide (tblGet none m.ecc (pa / 64) = some .uncorr))
def Mem.peek (m : Mem) (pa n : Nat) : List PB := (span pa n).map m.peekByte
/-- What a coherent 64-bit read gives. -/
def Mem.peek64 (m : Mem) (pa : Nat) : Nat := pbNat (m.peek pa 8)

/-- Set one byte coherently: in the line if a slice holds it, else in device memory. -/
def Mem.pokeByte (m : Mem) (pa : Nat) (b : PB) : Mem :=
  match m.findLine (homeOfPa pa) (pa / 128) with
  | some l => m.putLine { l with data := splice l.data (pa % 128) [b], dirty := true }
  | none => m.devWrite pa [b]
def Mem.poke (m : Mem) : Nat → List PB → Mem
  | _, [] => m
  | pa, b :: bs => Mem.poke (m.pokeByte pa b) (pa + 1) bs

/-! ### The device's own accesses (R316, R343, R348, R365, R384) -/

/-- A read by the device at the home slices, line by line; it leaves no line (log entry 8). None while a line of it must wait: for an entry of the
schedule, a shutter, a hash rewrite or a mask change. -/
def Mem.readAs (m : Mem) (w : Who) (pa n : Nat) : Option (List PB × Mem) :=
  (pieces n pa n 128).foldl (fun a x => a.bind (fun y =>
    match y.2.physAccIn 0 w .read x.1 x.2 id with
    | .ok r m => some (y.1 ++ r.old, m)
    | _ => none)) (some ([], m))

/-- A write by the device at the home slices, whole or not at all, in the same way. -/
def Mem.writeAs (m : Mem) (w : Who) (pa : Nat) (l : List PB) : Option Mem :=
  (pieces l.length pa l.length 128).foldl (fun a x => a.bind (fun m =>
    match m.physAccIn 0 w .write x.1 x.2 (fun _ => slice l (x.1 - pa) x.2) with
    | .ok _ m => some m
    | _ => none)) (some m)

/-- The device's read and write for a partition (12: for none). -/
def Mem.ownRead (m : Mem) (p pa n : Nat) : Option (List PB × Mem) := m.readAs (ownWho p) pa n
def Mem.ownWrite (m : Mem) (p pa : Nat) (l : List PB) : Option Mem := m.writeAs (ownWho p) pa l

/-- Whether a write by the device of `n` bytes needs not wait. -/
def Mem.ownOpen (m : Mem) (p pa n : Nat) : Bool := (m.ownWrite p pa (pbOf n 0 false)).isSome

/-- A plain read of an 8-byte entry of a table at its home slice, which fills a line (R343, R345); none while it waits. -/
def Mem.tableRead (m : Mem) (p pa : Nat) : Option (Nat × Mem) :=
  match m.physAcc (ownWho p) .read pa 8 id with
  | .ok r m => some (pbNat r.old, m)
  | _ => none

/-! ### Backing of unbacked parts (R312-R318, R345) -/

/-- A backing entry that R345 calls malformed. -/
def backingBad (e : Nat) : Bool := decide (bitsOf e 1 11 ≠ 0) || decide (bitsOf e 39 25 ≠ 0) || (!bitOf e 0 && decide (bitsOf e 12 27 ≠ 0))

/-- Register that an access is held on the spill of a part (R315, R317): each access of a strand once. -/
def Mem.joinSpill (m : Mem) (clock p vpart die entry : Nat) (w : Who) : Mem :=
  let h : Held := ⟨w.sn, w.path, w.acc, clock, false⟩
  let same := fun (y : Held) => decide (y.sn = w.sn) && decide (y.path = w.path) && decide (y.acc = w.acc)
  if m.spills.any (fun x => decide (x.part = p) && decide (x.vpart = vpart)) then
    { m with spills := m.spills.map (fun x =>
        if x.part = p ∧ x.vpart = vpart ∧ x.held.any same = false then { x with held := x.held ++ [h] } else x) }
  else { m with spills := m.spills ++ [⟨p, vpart, die, entry, [h]⟩] }

/-- Whether a part is being backed. -/
def Mem.spilling (m : Mem) (p vpart : Nat) : Bool := m.spills.any (fun x => decide (x.part = p) && decide (x.vpart = vpart))

/-- The address of the backing entry of a virtual address in an unbacked page whose leaf has ADDR `tbl` and page size 2^sz (R345). -/
def backingEntry (tbl va sz : Nat) : Nat := tbl + 8 * (bitsOf va 0 sz / 4096)

/-- An access of `n` bytes, inside one line, to an unbacked page (R312-R314). -/
def Mem.unbAcc (m : Mem) (clock : Nat) (w : Who) (k : RKind) (va hd tbl sz n : Nat) (f : List PB → List PB) : MR SRes :=
  let name := bitsOf va 7 32
  let s := homeSlice hd name
  let p := w.part
  let ent := backingEntry tbl va sz
  if !m.admits p || m.setHeld s (setOf name) then .hold m
  else if m.spilling p (bitsOf va 12 36) then .hold (m.joinSpill clock p (bitsOf va 12 36) hd ent w)
  else match m.findUnb s p va with
    | some l => m.onLine l w k (va % 128) n f false
    | none =>
      match m.tableRead p ent with
      | none => .hold m
      | some (e, m) =>
      if backingBad e then .badBacking ent m
      else if bitOf e 0 then m.physAcc w k (bitsOf e 12 27 * 4096 + va % 4096) n f
      else if k = .read then .ok ⟨pbOf n 0 false, false, none⟩ m
      else
        let full := decide (bitsOf (cfgGet m.cfg (offUbctl p)) 32 22 ≤ bitsOf (cfgGet m.cfg (offUbctl p)) 0 22)
        match (if full then none else m.victim s (setOf name) (m.umask p s)) with
        | none =>
          -- R314: back the part of the oldest unbacked line of p in the set, else the new line's own part
          match oldestBy (·.born) ((m.setLines s (setOf name)).filter (fun l => l.unb && decide (l.part = p))) with
          | some o =>
            .hold (m.joinSpill clock p o.vpart hd o.ent w)
          | none => .hold (m.joinSpill clock p (bitsOf va 12 36) hd ent w)
        | some (way, ev) =>
          match ev with
          | some v =>
            if v.dirty && !m.devOpen (128 * v.name) then .hold m
            else
              let m := (m.writeBack v).addLines p 1
              m.onLine ⟨s, setOf name, way, name, true, p, true, false, m.stamp, m.stamp, bitsOf va 12 36, ent, pbOf 128 0 false, fourRaces⟩ w k (va % 128) n f false
          | none =>
            let m := m.addLines p 1
            m.onLine ⟨s, setOf name, way, name, true, p, true, false, m.stamp, m.stamp, bitsOf va 12 36, ent, pbOf 128 0 false, fourRaces⟩ w k (va % 128) n f false

/-- Entries of a ring register pair (R316): base address, log2 of the entries. -/
def ringBase (cfg : Nat) : Nat := bitsOf cfg 6 33 * 64
def ringLogn (cfg : Nat) : Nat := bitsOf cfg 0 4

/-- Take a frame from the reserve list of a partition and die, skipping bad entries (R316): the frame, if the list holds one; none while the
read of an entry waits. -/
def takeFrameGo : Nat → Mem → Nat → Nat → Option (Option Nat × Mem)
  | 0, m, _, _ => some (none, m)
  | k + 1, m, p, d =>
    let c := cfgGet m.cfg (offRsvcfg p d)
    let r := cfgGet m.cfg (offRsvptr p d)
    let n := 2 ^ (ringLogn c + 1)
    let head := bitsOf r 32 16
    if head % n = bitsOf r 0 16 % n then some (none, m)
    else match m.readAs (spillWho p) (ringBase c + 8 * (head % 2 ^ ringLogn c)) 8 with
      | none => none
      | some (l, m) =>
        let e := pbNat l
        let m := { m with cfg := cfgField m.cfg (offRsvptr p d) 32 16 ((head + 1) % n) }
        if decide (bitsOf e 0 12 = 0) && decide (bitsOf e 39 25 = 0) && decide (dieOfStack (stackOf e) = d) then some (some e, m)
        else takeFrameGo k { m with cfg := cfgField m.cfg (offRsvptr p d) 31 1 1 } p d
def Mem.takeFrame (m : Mem) (p d : Nat) : Option (Option Nat × Mem) := takeFrameGo 32768 m p d

/-! ### Translation (R343-R347) -/

/-- How a walk ended. -/
inductive Walk where
  | leaf (e lvl : Nat)
  | refusal
  | noTable
  | notPresent (pa lvl : Nat)
  | malformed (pa lvl : Nat)
  /-- a table's read must wait for device memory (R340, R356) -/
  | wait
  deriving DecidableEq, Repr

/-- Size of a leaf's page, as a power of two (R343). -/
def lvlBits (lvl : Nat) : Nat := 12 + 9 * lvl

/-- Whether an entry with V = 1 is malformed at a level (R344); `hosten` is PORTCTL.HOSTEN of the partition. -/
def pteBad (hosten : Bool) (e lvl : Nat) : Bool :=
  let leaf := bitOf e 1
  let loc := bitsOf e 58 2
  decide (bitsOf e 60 4 ≠ 0) || (decide (lvl = 0) && !leaf) || (decide (lvl = 3) && leaf) ||
  (if leaf then
    decide (loc = 3) || (decide (loc = 0) && decide (bitsOf e 39 19 ≠ 0)) || (decide (loc = 2) && decide (bitsOf e 39 9 ≠ 0)) ||
    (!bitOf e 7 && decide (bitsOf e 12 (9 * lvl) ≠ 0)) || (bitOf e 5 && bitOf e 6) ||
    ((bitOf e 5 || bitOf e 7) && decide (loc ≠ 0)) || (!bitOf e 7 && decide (bitsOf e 9 2 ≠ 0)) ||
    (bitOf e 11 && (decide (lvl ≠ 0) || bitOf e 7)) || (decide (loc = 1) && !hosten)
  else decide (bitsOf e 2 10 ≠ 0) || decide (loc ≠ 0) || decide (bitsOf e 39 19 ≠ 0))

/-- A walk that has been made: how it ended, and the entries of upper tables it went through, with their levels. -/
abbrev Walked := Walk × List (Nat × Nat)

/-- The walk from a table at a level (R343), whose entries `rd` reads. -/
def walkFrom (rd : Mem → Nat → Option (Nat × Mem)) (hosten : Bool) (va : Nat) : Nat → Nat → Mem → Walked × Mem
  | lvl, tbl, m =>
    let pa := tbl + 8 * bitsOf va (lvlBits lvl) 9
    match rd m pa with
    | none => ((.wait, []), m)
    | some (e, m) =>
      if !bitOf e 0 then ((if bitOf e 1 then .refusal else .notPresent pa lvl, []), m)
      else if pteBad hosten e lvl then ((.malformed pa lvl, []), m)
      else if bitOf e 1 then ((.leaf e lvl, []), m)
      else match lvl with
        | 0 => ((.malformed pa 0, []), m)
        | k + 1 =>
          let (w, m) := walkFrom rd hosten va k (bitsOf e 12 27 * 4096) m
          ((w.1, (lvl, e) :: w.2), m)
termination_by structural lvl => lvl

/-- PORTCTL.HOSTEN (R330). -/
def Mem.hosten (m : Mem) (p : Nat) : Bool := bitOf (cfgGet m.cfg (offPortctl p)) 0

/-- The page-table walk of a canonical address (R343): plain reads at the home slices. -/
def Mem.doWalk (m : Mem) (p va : Nat) : Walked × Mem :=
  let r := cfgGet m.cfg (offPtbase p)
  if !bitOf r 0 then ((.noTable, []), m) else walkFrom (fun m pa => m.tableRead p pa) (m.hosten p) va 3 (bitsOf r 12 27 * 4096) m

/-- The rest of a walk, from a cached entry of an upper table (R346). -/
def Mem.walkBelow (m : Mem) (p va lvl e : Nat) : Walked × Mem :=
  walkFrom (fun m pa => m.tableRead p pa) (m.hosten p) va (lvl - 1) (bitsOf e 12 27 * 4096) m

/-- Canonical addresses (R112). -/
def canonical (va : Nat) : Bool := decide (va < 2 ^ 47) || decide (2 ^ 64 - 2 ^ 47 ≤ va)

/-- A translated page: its attributes (R112), its base address and where it lies (R344). -/
structure Leaf where
  e : Nat
  lvl : Nat
  deriving DecidableEq, Repr

def Leaf.r (l : Leaf) : Bool := bitOf l.e 2
def Leaf.w (l : Leaf) : Bool := bitOf l.e 3
def Leaf.x (l : Leaf) : Bool := bitOf l.e 4
def Leaf.rc (l : Leaf) : Bool := bitOf l.e 5
def Leaf.sco (l : Leaf) : Bool := bitOf l.e 6
def Leaf.ub (l : Leaf) : Bool := bitOf l.e 7
def Leaf.pinEl (l : Leaf) : Bool := bitOf l.e 8
def Leaf.hdie (l : Leaf) : Nat := bitsOf l.e 9 2
def Leaf.loc (l : Leaf) : Nat := bitsOf l.e 58 2
def Leaf.bits (l : Leaf) : Nat := lvlBits l.lvl
/-- Frame address of a virtual address in a backed page. -/
def Leaf.paOf (l : Leaf) (va : Nat) : Nat := bitsOf l.e 12 27 * 4096 + bitsOf va 0 l.bits
/-- Home die of a page (R110, R312): of its frame, or of its unbacked lines. -/
def Leaf.home (l : Leaf) : Nat := if l.ub then l.hdie else dieOfStack (stackOf (bitsOf l.e 12 27 * 4096))

/-- The leaf of one 4 KiB page of a larger leaf, as a cached translation gives it. -/
def Leaf.same (a b : Leaf) : Bool := decide (a = b)

/-- How a translation ends (R347). -/
inductive Xl where
  | leaf (l : Leaf)
  | xlate
  | park (kind entry lvl : Nat)
  /-- a table's read waits for device memory -/
  | wait
  deriving DecidableEq, Repr

/-- The translation that a walk gives. -/
def Walk.xl : Walk → Xl
  | .leaf e lvl => .leaf ⟨e, lvl⟩
  | .refusal => .xlate
  | .noTable => .park 1 0 255
  | .notPresent pa lvl => .park 1 pa lvl
  | .malformed pa lvl => .park 2 pa lvl
  | .wait => .wait

/-- The leaf of page `i` of a CONT group through the group's first entry (R346). -/
def contEntry (e i : Nat) : Leaf := ⟨e + i * 4096, 0⟩

/-- The first entry of the aligned group of sixteen level-0 entries around an address, in the table that its walk went through, when an entry of
the group is a leaf with CONT = 1 and the first is a valid leaf (R346): the group is one line, read at its home slice as a walk reads (R343). -/
def Mem.contFirst (m : Mem) (p va : Nat) (path : List (Nat × Nat)) : Option (Nat × Mem) :=
  match path.find? (fun y => decide (y.1 = 1)) with
  | none => none
  | some (_, t) =>
    let leaf := fun (e : Nat) => bitOf e 0 && !pteBad (m.hosten p) e 0 && bitOf e 1
    match m.physAcc (ownWho p) .read (bitsOf t 12 27 * 4096 + 128 * (bitsOf va 12 9 / 16)) 128 id with
    | .ok r m =>
      let entry := fun (i : Nat) => pbNat (slice r.old (8 * i) 8)
      if leaf (entry 0) && (span 0 16).any (fun i => bitOf (entry i) 11 && leaf (entry i)) then some (entry 0, m) else none
    | _ => none

/-- Units of the translation caches: a core, or a die (R346). -/
def dieUnit (d : Nat) : Nat := 2048 + d

/-- Drop the oldest entries of a unit beyond its capacity (R346). -/
def tlbTrim (cap unit : Nat) (t : List TlbEnt) : List TlbEnt :=
  let n := (t.filter (fun e => decide (e.unit = unit))).length
  if n ≤ cap then t
  else match findIdx? (fun e => decide (e.unit = unit)) t 0 with
    | some (i, _) => dropAt t i
    | none => t

/-- 4 KiB pages that an entry of a translation cache covers. -/
def TlbEnt.pages (e : TlbEnt) : Nat := match e.kind with | .cont => 16 | _ => 2 ^ (9 * e.lvl)

/-- Whether a cached entry of a partition covers a page, as seen from a core. -/
def TlbEnt.serves (x : TlbEnt) (core p vpn : Nat) : Bool :=
  (decide (x.unit = core) || decide (x.unit = dieUnit (dieOfPart p))) && decide (x.part = p) && decide (x.vpn / x.pages = vpn / x.pages)

/-- Remember an entry in a unit's translation cache of `cap` entries; the walk caches of the upper levels have no stated size (log entry 46). -/
def Mem.tlbPut (m : Mem) (cap : Nat) (x : TlbEnt) : Mem :=
  let rest := m.tlb.filter (fun e => !(decide (e.unit = x.unit) && decide (e.part = x.part) && decide (e.kind = x.kind) && decide (e.lvl = x.lvl) &&
    decide (e.vpn / e.pages = x.vpn / x.pages)))
  if x.kind = .table then { m with tlb := rest ++ [x] } else { m with tlb := tlbTrim cap x.unit (rest ++ [x]) }

/-- Remember a translation in the caches of its core and its die, and the upper tables of its walk in the die's (R346). -/
def Mem.tlbFill (m : Mem) (core p va : Nat) (x : TlbEnt) (path : List (Nat × Nat)) : Mem :=
  let die := dieUnit (dieOfPart p)
  path.foldl (fun m y => m.tlbPut 4096 ⟨die, p, bitsOf va 12 36, y.2, y.1, .table⟩) ((m.tlbPut 64 { x with unit := core }).tlbPut 4096 { x with unit := die })

/-- One way to translate an address: what it gives, the entry it caches, the upper tables it went through, and the memory after it. -/
structure XlWay where
  xl : Xl
  ent : Option TlbEnt
  path : List (Nat × Nat)
  mem : Mem

/-- The ways to translate an address (R346): the caches, a walk from the root or from a cached upper table, the first entry of a CONT group. -/
def Mem.xlWays (m : Mem) (core p va : Nat) : List XlWay :=
  let vpn := bitsOf va 12 36
  let mine := m.tlb.filter (fun e => e.serves core p vpn)
  let cached := mine.filterMap (fun e => match e.kind with
    | .leaf => some (⟨.leaf ⟨e.entry, e.lvl⟩, some e, [], m⟩ : XlWay)
    | .cont => some ⟨.leaf (contEntry e.entry (vpn % 16)), some e, [], m⟩
    | .table => none)
  let walked := fun (x : Walked × Mem) (up : List (Nat × Nat)) =>
    (⟨x.1.1.xl, (match x.1.1 with | .leaf e lvl => some ⟨core, p, vpn, e, lvl, .leaf⟩ | _ => none), up ++ x.1.2, x.2⟩ : XlWay)
  let below := mine.filterMap (fun e => if e.kind = .table then some (walked (m.walkBelow p va e.lvl e.entry) [(e.lvl, e.entry)]) else none)
  let fresh := m.doWalk p va
  let group := match fresh.2.contFirst p va fresh.1.2 with
    | some (e, m) => [(⟨.leaf (contEntry e (vpn % 16)), some ⟨core, p, vpn, e, 0, .cont⟩, [], m⟩ : XlWay)]
    | none => []
  cached ++ walked fresh [] :: below ++ group

/-- The first way of each outcome. -/
def xlOutcomes : List XlWay → List XlWay
  | [] => []
  | x :: xs => x :: (xlOutcomes xs).filter (fun y => decide (y.xl ≠ x.xl))

/-- The ways a translation may take: one that waits only when there is no other. -/
def xlPick (l : List XlWay) : List XlWay :=
  let r := xlOutcomes l
  let q := r.filter (fun y => decide (y.xl ≠ .wait))
  if q.isEmpty then r else q

/-- Translate a virtual address for a core's engines (R343-R347). A cached entry that differs from the tables may be used until it is
invalidated, and so may either translation of a CONT group; which is the device's choice (R346). -/
def Mem.translate (m : Mem) (core p va : Nat) : Xl × Mem :=
  if !canonical va then (.xlate, m)
  else
    let ways := xlPick (m.xlWays core p va)
    let (i, m1) := m.pick ways.length
    match ways[i]? with
    | none => (.wait, m)
    | some x =>
      let m := { x.mem with draws := m1.draws }
      match x.xl, x.ent with
      | .leaf _, some e => (x.xl, m.tlbFill core p va e x.path)
      | .wait, _ => (.wait, m1)
      | _, _ => (x.xl, m)

/-- Access kinds a page permission is checked for (R347). -/
inductive Perm where
  | r | w | x | rw
  deriving DecidableEq, Repr
def Leaf.allows (l : Leaf) : Perm → Bool
  | .r => l.r | .w => l.w | .x => l.x | .rw => l.r && l.w

/-! ### Rings the device writes (R348, R349) -/

/-- Write a record of a partition's fault buffer, or set OVF when the buffer is full (R348): whether it was written; none while its write
waits. -/
def Mem.faultRecord (m : Mem) (p : Nat) (bytes : List Byte) : Option (Bool × Mem) :=
  let c := cfgGet m.cfg (offFbcfg p)
  let r := cfgGet m.cfg (offFbptr p)
  let n := 2 ^ (ringLogn c + 1)
  let tail := bitsOf r 32 16
  if (tail + n - bitsOf r 0 16 % n) % n < 2 ^ ringLogn c then
    (m.ownWrite p (ringBase c + 32 * (tail % 2 ^ ringLogn c)) (clean bytes)).map (fun m =>
      (true, { m with cfg := cfgField m.cfg (offFbptr p) 32 16 ((tail + 1) % n) }))
  else some (false, { m with cfg := cfgField m.cfg (offFbptr p) 31 1 1 })

/-- The bytes of a translation-fault record (R348). -/
def xlRecord (va sn path kind : Nat) (wr atom : Bool) (gen entry lvl : Nat) : List Byte :=
  toBytes 8 va ++ toBytes 2 (sn + path * 2 ^ 13) ++ toBytes 1 kind ++ toBytes 1 (b2n wr + 2 * b2n atom) ++ toBytes 4 gen ++
  toBytes 8 entry ++ toBytes 1 lvl ++ toBytes 7 0

/-- GEN of a partition's fault buffer (R348). -/
def Mem.gen (m : Mem) (p : Nat) : Nat := bitsOf (cfgGet m.cfg (offFbctl p)) 0 32

end Sys2Proof.Machine
end

