-- ==== Sys2Proof/Machine/SeqState.lean ====
section
/-! DEFINITION. The sequencer's state for one strand (R145-R160), its accesses in flight, its bank map (R262) and its trap state. -/
namespace Sys2Proof.Machine

/-- Where the bytes of one part of an access lie (R167, R169): a bank, a local frame, an unbacked line, or a page without a local
frame (LOC 1 host, 2 peer; address; page's virtual address). -/
inductive Place where
  | bank (bank off : Nat)
  | frame (pa : Nat)
  | unb (va hd tbl sz : Nat)
  | fwd (loc addr va : Nat)
  deriving DecidableEq, Repr

/-- A part of an access (R169): its virtual address, its bytes, where they lie, and whether it has been performed. -/
structure Part where
  va : Nat
  n : Nat
  place : Place
  rc : Bool
  sco : Bool
  /-- a plain cacheable page (RC, SCO, UB all 0): may be served by L1; W = 0 as well: by the constant cache (R109, R167) -/
  l1 : Bool
  ro : Bool
  done : Bool
  data : List PB
  deriving DecidableEq, Repr

/-- The operators of AMO, AMOC and RED (R320, R324, R325). -/
inductive AtomOp where
  | add | minS | minU | maxS | maxU | fadd32 | fadd64 | faddB2 | and | or | xor | swap | inc | dec | cas
  deriving DecidableEq, Repr

/-- An atomic or reduction: operator, width in bits, operand, expected value, their poison, and the redirect descriptor of a RED. -/
structure Atom where
  op : AtomOp
  w : Nat
  b : Nat
  bp : Bool
  e : Nat
  ep : Bool
  /-- sign-extend a 32-bit old value into gd (R324) -/
  sx : Bool
  redir : Option Nat
  /-- a RED, which names no destination (R326) -/
  red : Bool
  /-- its access was held past the nominal end of a shutter (R357) -/
  late : Bool
  deriving DecidableEq, Repr

/-- What an entry of the load table (or a reduction without reply) waits for. -/
inductive Pend where
  /-- a load: bytes and sign extension (R166) -/
  | load (n : Nat) (signed : Bool)
  /-- an atomic: its update has been performed at home, old value with poison, and status (R320) -/
  | atom (a : Atom) (upd : Bool) (old : Nat) (op : Bool) (fl : BitVec 10) (link : Bool)
  /-- a `pin` or `unpin`: whether its page cannot be pinned, and its code once performed (R332) -/
  | pin (unpin bad : Bool) (code : Option Nat)
  /-- a node request, with its completion word once it ended (R354) -/
  | node (word : Option Nat)
  /-- a `send`, with the targets still to answer and the status gathered (R296) -/
  | send (left : Nat) (status : Nat)
  deriving DecidableEq, Repr

/-- An access issued and not yet answered (R145, R160, R322). -/
structure Acc where
  id : Nat
  /-- place in program order (R117) -/
  seq : Nat
  dest : Nat
  va : Nat
  kind : Pend
  parts : List Part
  /-- an access of an RC page, whose instruction has not retired (R416) -/
  rc : Bool
  /-- counted in ACKCNT until its reply returns (R125, R322) -/
  ack : Bool
  deriving DecidableEq, Repr

/-- A store in the store buffer (R160), or a store of the array (R226). -/
structure Store where
  id : Nat
  seq : Nat
  arr : Bool
  va : Nat
  parts : List Part
  /-- an access of an RC page: checked before it retires (R416) -/
  rc : Bool
  deriving DecidableEq, Repr

/-- Why the instruction at PC has issued and not retired (R139, R171, R175, R180, R416). -/
inductive Wait where
  | none
  /-- a translation fault parked it; whether its record is written, and under which GEN (R171, R348) -/
  | parked (written : Bool) (gen : Nat)
  /-- its release's region has ended; the broadcast of that RSEQ runs (R129) -/
  | release (seq : Nat)
  /-- its release part is complete (an atomic with release order, R322) -/
  | released
  /-- `shwait` on shutter n0 as fixed at issue (R359) -/
  | shutter (n : Nat)
  /-- an access of an RC page waits for its check (R416) -/
  | check (id : Nat)
  /-- an RC store that passed its check, or conflicted there: `none` passed (R416) -/
  | checked (c : Option (Nat × Nat × Nat × Bool × Nat))
  /-- `give` (code 0), `bl1` (1) or `bscr` (2) waits for the drain of its slot (R265, R267) -/
  | drain (slot : Nat) (code : Nat)
  /-- a `halt` whose release is complete: the strand is about to end (R175) -/
  | halted
  /-- a `give` whose release has begun: the attach waits for its broadcast (R129, R267) -/
  | attach (slot seq ga gb : Nat)
  deriving DecidableEq, Repr

/-- A slot of the strand's bank map (R262): the bank attached, by package bank number. -/
structure Slot where
  bank : Option Nat
  draining : Bool
  lock : Bool
  l1 : Bool
  /-- `bscr` zeroes the bank (R265) -/
  zero : Bool
  deriving DecidableEq, Repr

/-- A write performed whose acknowledgement has not returned (R125): of path LS, or of path CP; whether to an SCO page (R127); of a write of
the current stream command, the arrival it makes and its amount (R271). -/
inductive AckOf where
  | ls (sco : Bool)
  | cp (sco cmd : Bool) (arr n : Nat)
  deriving DecidableEq, Repr

/-- A barrier that a fence or `fencex` placed before engines' later accesses (R137, R138): accesses on `dst` after `seq` wait for those
on `src` before it (only reads for an acquire) at a scope. -/
structure Barrier where
  seq : Nat
  src : Nat
  dst : Nat
  readsOnly : Bool
  scope : Nat
  deriving DecidableEq, Repr

/-- An engine trap waiting in the hold, or waiting to be taken (R155, R158): cause, engine (1 array, 2 matrix, 3 stream), detail, value. -/
structure ETrap where
  cause : Nat
  src : Nat
  detail : Nat
  val : Nat
  deriving DecidableEq, Repr

/-- The trap registers and state (R153, R158). -/
structure Trap where
  tvec : W64
  tcause : W64
  tpc : W64
  tval : W64
  tsave : W64
  ehs : Bool
  ehm : Bool
  eha : Bool
  intrap : Bool
  /-- the trap hold: at most one cause (R158) -/
  hold : Option ETrap
  /-- causes engines have raised that wait to be taken into the hold, oldest first (R158) -/
  raised : List ETrap
  deriving DecidableEq, Repr

/-- The other control registers held per strand (R148). -/
structure Ctl where
  retired : W64
  daz : Bool
  ftz : Bool
  rm : Nat
  fpstat : BitVec 10
  isat : Bool
  /-- MXSTAT.ST (R258) -/
  mxst : BitVec 15
  supcnt : Nat
  supp : Bool
  rseq : Nat
  cseq : Nat
  raceinfo : W64
  notrap : Bool
  /-- MSGOVF (R301) -/
  ltag : Nat
  ly : Nat
  lx : Nat
  dcnt : Nat
  drop : Bool
  ackcnt : Nat
  deriving DecidableEq, Repr

/-- SWEPT of R130 for a strand number: its RSEQ at the start of the last period completed, and at the start of the current one. -/
structure Swept where
  last : Nat
  cur : Nat
  deriving DecidableEq, Repr

/-- What a pre-emption needs to abandon the instruction that issued last while its result is still on its way (R159, R180): its PC, its destination with
the value and poison that it replaces, RETIRED before it, the flags it set anew, generator stream 0 before it. -/
structure Undo where
  pc : W64
  gd : Nat
  v : W64
  p : Bool
  retired : W64
  fl : BitVec 10
  gen : Option W32
  deriving DecidableEq, Repr

/-- The sequencer's part of a strand (R145). -/
structure Seq where
  pc : W64
  g : Tbl W64
  gp : Tbl Bool
  gpend : Tbl Bool
  /-- ck until a computed result is visible to the next instruction that names its register (R159) -/
  glat : Tbl Nat
  /-- the instruction that retired last, while its result is on its way (R180) -/
  undo : Option Undo
  loads : List Acc
  stores : List Store
  /-- reductions without replies, at most 64 (R322) -/
  reds : List Acc
  ctl : Ctl
  trap : Trap
  wait : Wait
  /-- the words of the instruction at PC that issued last, which runs on while it waits (R180) -/
  ir : W32 × W32
  slots : List Slot
  /-- generator streams 0 to 18 (R55) -/
  gens : Tbl W32
  barriers : List Barrier
  /-- writes that await their acknowledgements -/
  acks : List AckOf
  /-- next identity of an access and next place in program order -/
  nextId : Nat
  seq : Nat
  /-- the banks that loads of the sequencer have read in this ck (R226) -/
  served : List Nat
  deriving DecidableEq, Repr

end Sys2Proof.Machine
end

