-- ==== Sys2Proof/Machine/ArrState.lean ====
section
/-! DEFINITION. The modulo array's state for one strand (R183-R205). -/
namespace Sys2Proof.Machine

/-- A 32-bit array value with its validity and poison (R183, R187). -/
structure AV where
  v : W32
  valid : Bool
  p : Bool
  deriving DecidableEq, Repr

/-- Zero, valid, not poisoned (R188). -/
def AV.zero : AV := ⟨0, true, false⟩

/-- A held flight register (R194, R202, R210): its number, the result, its destination (0-15 static, 16-47 rotating entry + 16, 64 latch
only), REM, and the order of issue. -/
structure Flight where
  reg : Nat
  val : AV
  dest : Nat
  rem : Nat
  ord : Nat
  deriving DecidableEq, Repr

/-- A load-queue entry (R196): a load of the array still to be performed, or its value. -/
structure LqEnt where
  id : Nat
  seq : Nat
  cp : Bool
  filled : Bool
  val : AV
  parts : List Part
  signed : Bool
  /-- clock at which a load of the scratchpad window is there (R226) -/
  due : Nat
  deriving DecidableEq, Repr

/-- What one PE holds for the strand (R183): a and w registers by code of R87 (w by entry), constants, latch, flight registers, queues,
control words. -/
structure Pe where
  regs : Tbl AV
  k : Tbl W32
  latch : AV
  flight : List Flight
  lq : List LqEnt
  sq : List AV
  cw : Tbl Nat
  deriving DecidableEq, Repr

/-- A PE of a fresh strand (R188). -/
def Pe.fresh : Pe := ⟨[], [], .zero, [], [], [], []⟩

/-- A context block read by `ctxld` (R189): header, constants of all PEs if KLD = 1, words PE-major. -/
structure CtxBlock where
  hdr : Nat
  consts : Option (List W32)
  words : List Nat
  deriving DecidableEq, Repr

/-- ST of the region sequencer (R191). -/
inductive ASt where
  | idle | run | drain | flush
  deriving DecidableEq, Repr

/-- An outlier tile being filled (R69): its ring, its reserved tile number, and the number of entries written to it. -/
structure OutFill where
  ring : Nat
  tile : Nat
  count : Nat
  deriving DecidableEq, Repr

/-- The region sequencer and the array state of a strand (R191). -/
structure Arr where
  st : ASt
  lslot : Nat
  ii : Nat
  nstg : Nat
  ent : Nat
  row : Nat
  svm : Nat
  rb : Nat
  p : Nat
  iter : Nat
  trip : Nat
  exit : Bool
  exitix : Nat
  sen : Bool
  sch : Nat
  fch : Nat
  frm : Nat
  fftz : Bool
  fdaz : Bool
  sqp : Option AV
  shadow : Option CtxBlock
  deriving DecidableEq, Repr

/-- The region sequencer of a fresh strand (R188). -/
def Arr.fresh : Arr := ⟨.idle, 0, 0, 0, 0, 0, 0, 0, 0, 0, 0, false, 0, false, 0, 0, 0, false, false, none, none⟩

/-- The rest of the array's state of a strand: loop headers (R189), HELD (R205), sq, the PEs, whether the current step awaits its check
replies (R193), whether it is parked and its record written (R193), the pending outlier tile, issue order, loop's place in program order, and the
places at which finished loops with accesses still to be performed began and ended (R117). -/
structure ArrX where
  hdrs : Tbl (Option Nat)
  held : Bool
  sq : AV
  pes : List Pe
  await : Bool
  parked : Option (Bool × Nat)
  outl : List OutFill
  ord : Nat
  seq : Nat
  past : List (Nat × Nat)
  deriving DecidableEq, Repr

def ArrX.fresh : ArrX := ⟨[], false, .zero, List.replicate 16 .fresh, false, none, [], 0, 0, []⟩

end Sys2Proof.Machine
end

