-- ==== Sys2Proof/Machine/EngState.lean ====
section
/-! DEFINITION. The state of the matrix engine (R232, R250, R259) and of the stream engine (R273-R303) for one strand. -/
namespace Sys2Proof.Machine

/-- An accumulator element: its 32 bits, poison, and whether its parity is good (R232, R234). -/
structure AccEl where
  v : W32
  p : Bool
  bad : Bool
  deriving DecidableEq, Repr

/-- Zero, unpoisoned, good parity (R232). -/
def AccEl.zero : AccEl := ⟨0, false, false⟩

/-- A command of the matrix sub-queue (R250), with the register values it took at issue. -/
inductive MxCmd where
  | step (fmt rna rnb acb acn shape pa pb blk sfmt : Nat) (fresh : Bool) (rep : Nat) (isat : Bool)
  | zero (acb n : Nat)
  | ld (rs acb n lf : Nat)
  | st (rd acb n ak dfmt ts : Nat) (ore : Option Nat) (tsa tsb : Nat) (tsp : Bool) (rm : Nat) (ftz daz : Bool)
  | mov (src dst : Nat) (tr : Bool)
  deriving DecidableEq, Repr

/-- An entry of the sub-queue (R250, R259): arrival address (0 for none), units done, status gathered (R72 bits), and for a store the
tile reserved and the outlier tile being filled; whether it is held. -/
structure MxEnt where
  seq : Nat
  cmd : MxCmd
  arr : Nat
  done : Nat
  status : Nat
  tile : Option Nat
  outl : Option OutFill
  /-- every unit performed: the last pushed tile has yet to land, or the arrival to be made (R243) -/
  last : Bool
  deriving DecidableEq, Repr

/-- The matrix engine's part of a strand. -/
structure Mx where
  acc : Tbl AccEl
  queue : List MxEnt
  /-- HELD of MXSTAT (R258) -/
  held : Bool
  deriving DecidableEq, Repr

def Mx.fresh : Mx := ⟨[], [], false⟩

/-- A reserved tile (R275): its number modulo 2^(LOGN+1), whether all its bytes have been written, whether they have landed. -/
structure Resv where
  tile : Nat
  written : Bool
  landed : Bool
  deriving DecidableEq, Repr

/-- A ring descriptor (R273), every field of its 128 bits, and its reservations, in order (R275). -/
structure Ring where
  live : Bool
  slot : Nat
  off : Nat
  logn : Nat
  trows : Nat
  efmt : Nat
  sce : Bool
  sclf : Nat
  oue : Bool
  oulf : Nat
  head : Nat
  tail : Nat
  cur : Nat
  resv : List Resv
  deriving DecidableEq, Repr

/-- A descriptor that holds no ring (R273). -/
def Ring.none : Ring := ⟨false, 0, 0, 0, 0, 0, false, 0, false, 0, 0, 0, 0, []⟩

/-- The scale ring that SCL names with SCE = 1 (R238), and the outlier ring that OUL names with OUE = 1 (R67). -/
def Ring.scl (r : Ring) : Option Nat := if r.sce then some r.sclf else Option.none
def Ring.oul (r : Ring) : Option Nat := if r.oue then some r.oulf else Option.none

/-- Run state of an address-generator tile (R281). -/
inductive AgRun where
  | stopped
  /-- waits for its start token -/
  | token
  | running
  deriving DecidableEq, Repr

/-- An address-generator tile (R279-R282). -/
structure Ag where
  conf : Bool
  ten : Bool
  les : Nat
  tslot : Nat
  bind : Bool
  pe : Nat
  sq : Bool
  base : Nat
  n : List Nat
  /-- S_i with TEN = 0; DIM_i + 4 * STEP_i (STEP modulo 2^16) with TEN = 1 -/
  s : List Nat
  pos : Nat
  run : AgRun
  sch : Nat
  fen : Bool
  fch : Nat
  /-- `agstop` has asked an unbound tile's command to end (R282) -/
  stop : Bool
  /-- its place in program order: of its `agrun` (R117) -/
  seq : Nat
  /-- parked on a translation fault: whether its record is written, and under which GEN (R171) -/
  parked : Option (Bool × Nat)
  deriving DecidableEq, Repr

/-- An unconfigured tile (log entry 9). -/
def Ag.off : Ag := ⟨false, false, 0, 0, false, 0, false, 0, [1, 1, 1, 1], [0, 0, 0, 0], 0, .stopped, 0, false, 0, false, 0, none⟩

/-- A tensor descriptor in a slot (R284), the address it was read from, and the tile-table entries cached since its `tsload` (R285). -/
structure Tensor where
  addr : Nat
  tbl : Nat
  e : List Nat
  t : List Nat
  layout : Nat
  les : Nat
  ndim : Nat
  cache : Tbl Nat
  deriving DecidableEq, Repr

/-- A command of the stream queue (R287-R296), with the register values it took at issue. -/
inductive SCmd where
  | copy (dst src len : Nat)
  | gath (dst src ix cnt les : Nat)
  | scat (dst src ix cnt les : Nat)
  | ringld (src rg n : Nat) (ag : Option Nat)
  | ringst (dst rg n : Nat) (ag : Option Nat)
  | tsload (addr slot : Nat)
  | deliv (target src len dst : Nat)
  | cvcopy (dst src n sf df : Nat) (ore : Option Nat)
  | send (id src len tag : Nat) (targets : List Nat)
  deriving DecidableEq, Repr

/-- An entry of the stream queue (R288, R302): arrival address (0 for none), progress, status gathered, FPCTL at issue. -/
structure SEnt where
  seq : Nat
  cmd : SCmd
  arr : Nat
  /-- bytes (or elements, for gath, scat and cvcopy) done -/
  done : Nat
  status : Nat
  rm : Nat
  ftz : Bool
  daz : Bool
  /-- the ring tile reserved, and the bytes of it done -/
  tile : Option Nat
  tdone : Nat
  outl : Option OutFill
  /-- chunks or acknowledgements still on their way (R271) -/
  flying : Nat
  parked : Option (Bool × Nat)
  deriving DecidableEq, Repr

/-- A posted receive (R297). -/
structure Recv where
  handle : Nat
  buf : Nat
  obj : Nat
  tag : Nat
  mask : Nat
  src : Option (Nat × Nat)
  blen : Nat
  deriving DecidableEq, Repr

/-- An overflow entry (R298): its number in the core's queue, source, tag, payload. -/
structure Ovf where
  num : Nat
  sx : Nat
  sy : Nat
  tag : Nat
  data : List PB
  deriving DecidableEq, Repr

/-- The stream engine's part of a strand. -/
structure Str where
  queue : List SEnt
  rings : Tbl Ring
  ags : Tbl Ag
  tensors : Tbl (Option Tensor)
  posts : List Recv
  ovfs : List Ovf
  /-- whose turn among the command and the running tiles: 0 the command, 1 + tile (R283) -/
  turn : Nat
  deriving DecidableEq, Repr

def Str.fresh : Str := ⟨[], [], [], [], [], [], 0⟩

end Sys2Proof.Machine
end

