-- ==== Sys2Proof/Machine/FrontState.lean ====
section
/-! DEFINITION. The state of cores and strands as the front end sees them, of kernel instances, queues, images, traffic in flight,
memory nodes, boot, ownership and power (R18-R45, R294-R303, R327-R329, R351-R415). Plain data. -/
namespace Sys2Proof.Machine

/-- A word of a core's instruction cache (R168). -/
structure IcWord where
  part : Nat
  va : Nat
  word : W32
  deriving DecidableEq, Repr

/-- A 128-byte line of a core's constant cache (R167). -/
structure CcLine where
  name : Nat
  data : List PB
  deriving DecidableEq, Repr

/-- A line of a core's L1-mode slots (R109): the slot among those in L1 mode, its set, the order of its fill. -/
structure L1Line where
  idx : Nat
  set : Nat
  ord : Nat
  name : Nat
  data : List PB
  deriving DecidableEq, Repr

/-- A core: its wheel (R27) and the one waiting to take effect (R29), the strand index that issued last (R17), its caches, and the ck it may
still run in the grant period, and whether a ck of the period was gated (R409, R410), and the strand index that its stream engine served last
(R17, R289). -/
structure Core where
  alloc : Nat
  ent : Nat
  pend : Option (Nat × Nat)
  rr : Nat
  ic : List IcWord
  cc : List CcLine
  l1 : List L1Line
  l1ord : Nat
  grant : Nat
  gate : Bool
  srr : Nat
  deriving DecidableEq, Repr

/-- A core after reset: no wheel entry allotted, empty caches; it may run (log entry 13). -/
def Core.fresh : Core := ⟨0, 0, none, 3, [], [], [], 0, 2100, false, 3⟩

/-- Why a strand is halted: to be saved (R40), kept after an escalation (R156), or ended without a save (R156). -/
inductive Halt where
  | save | keep | drop
  deriving DecidableEq, Repr

/-- Whether a strand runs. -/
inductive Run where
  | running
  | halted (h : Halt)
  deriving DecidableEq, Repr

/-- What the front end divides among the strands of a core (R16). -/
structure Allot where
  cwn : Nat
  nsl : Nat
  nrg : Nat
  tkn : Nat
  nag : Nat
  share : Nat
  deriving DecidableEq, Repr

/-- A strand (R25). Its strand number is its key: core number and strand index (R18). -/
structure Strand where
  kinst : Nat
  lin : Nat
  run : Run
  allot : Allot
  /-- token channels (R206) -/
  tok : Nat
  secp : Bool
  seq : Seq
  arr : Arr
  arrx : ArrX
  mx : Mx
  str : Str
  /-- progress since the watchdog last looked (R389) -/
  prog : Bool
  deriving DecidableEq, Repr

/-- A kernel instance (R18-R22, R371, R375, R389). Its number KINST is its key. -/
structure Inst where
  part : Nat
  ox : Nat
  oy : Nat
  logw : Nat
  logh : Nat
  pat : Nat
  level : Nat
  share : Nat
  aopset : Nat
  priv : Bool
  /-- its packet: queue and index (none for the instance of log entry 5) -/
  pkt : Option (Nat × Nat)
  sig : Nat
  /-- clock of the last start or restore (R375), the watchdog's count (R389) -/
  start : Nat
  count : Nat
  /-- ended by escalation with this cause (R156), being evicted (R387), saved for a move (R39) -/
  esc : Option Nat
  evict : Bool
  move : Bool
  /-- a replayed launch, whose completion update is suppressed (R388) -/
  quiet : Bool
  /-- its image uses `give` (R378) -/
  give : Bool
  deriving DecidableEq, Repr

/-- A saved strand (R382-R384): its instance, linear position and strand index, its state, its banks by slot (mode L1; held on the
hatch, or written out to the image), and its image slot, if it still has one. -/
structure Saved where
  kinst : Nat
  part : Nat
  lin : Nat
  sidx : Nat
  core : Nat
  strand : Strand
  banks : List (Nat × Bool × Option Nat)
  slot : Option Nat
  /-- kept for firmware: an escalated or evicted strand's image (R382) -/
  kept : Bool
  deriving DecidableEq, Repr

/-- STATE of QSTAT (R364). -/
inductive QState where
  | idle | active | stopped | replay
  deriving DecidableEq, Repr

/-- Stage of a packet (R369): started and not complete; its effect complete with an error code or 0, its completion update to be made or
parked on a translation fault. -/
inductive PkStage where
  | started
  | done (err : Nat)
  deriving DecidableEq, Repr

/-- A packet the front end has started (R369). -/
structure Pkt where
  idx : Nat
  typ : Nat
  sig : Nat
  stage : PkStage
  /-- its update is parked on a translation fault under this generation (R368) -/
  parked : Option Nat
  deriving DecidableEq, Repr

/-- A queue (R362-R365, R377): state, error, HEAD, TAIL as last noticed, RIDX, packets in progress, the completion record, where a replay
ends, the generation under which the test of a WAIT is parked (R368). -/
structure Queue where
  st : QState
  err : Nat
  head : Nat
  tail : Nat
  ridx : Nat
  pkts : List Pkt
  done : List Nat
  upTo : Nat
  parked : Option Nat
  deriving DecidableEq, Repr

def Queue.fresh : Queue := ⟨.idle, 0, 0, 0, 0, [], [], 0, none⟩

/-- A launch, or a saved instance to be restored, that waits for a candidate (R371): its partition, queue (4,096 + p for the privileged
launches of partition p, R405), index, packet bytes, level, and the clock since which it waits at that level. -/
structure Waiting where
  part : Nat
  queue : Nat
  idx : Nat
  pkt : List Byte
  level : Nat
  since : Nat
  /-- the saved instance to restore, if it is one -/
  kinst : Option Nat
  quiet : Bool
  deriving DecidableEq, Repr

/-- A chunk of a delivery on its way (R268, R294): sending strand and command, target instance and position, window offset, bytes, object
(0 none), status; the clock of its next try after a refusal by a saved target. -/
structure Chunk where
  kinst : Nat
  slin : Nat
  cmd : Nat
  tlin : Nat
  off : Nat
  data : List PB
  obj : Nat
  status : Nat
  retry : Option Nat
  deriving DecidableEq, Repr

/-- A message on its way (R296, R298). -/
structure Msg where
  kinst : Nat
  slin : Nat
  acc : Nat
  tlin : Nat
  tag : Nat
  data : List PB
  retry : Option Nat
  deriving DecidableEq, Repr

/-- A token on its way (R30, R207): sender, target, channel. -/
structure Tok where
  kinst : Nat
  slin : Nat
  tlin : Nat
  ch : Nat
  deriving DecidableEq, Repr

/-- A redirected old value on its way (R327). -/
structure Redir where
  kinst : Nat
  tlin : Nat
  slice : Nat
  dst : Nat
  w : Nat
  val : Nat
  pois : Bool
  obj : Nat
  status : Nat
  retry : Option Nat
  deriving DecidableEq, Repr

/-- An AtomicOp the portal has sent (R329): issuing strand, its access, the clock of the request. -/
structure HostOp where
  sn : Nat
  acc : Nat
  since : Nat
  deriving DecidableEq, Repr

/-- A 128-byte line in a die's launch staging buffer (R370): the die, the partition, its virtual address, and the bytes read ahead. -/
structure Staged where
  die : Nat
  part : Nat
  va : Nat
  data : List PB
  deriving DecidableEq, Repr

/-- What the package has sent out (R349, R329, R365, R397). -/
inductive Out where
  /-- a write and an atomic, a host one through a function of the partition (R398; 0 where none is bound as its port) -/
  | write (fn loc addr : Nat) (data : List PB)
  | atomic (fn loc addr : Nat) (op : AtomOp) (w : Nat) (b e : Nat × Bool)
  /-- the old value of a peer's atomic (R328): source package -/
  | reply (src : Nat) (old : Nat) (pois : Bool)
  /-- the answer to a peer's read, and to a peer's write (R349) -/
  | peerData (src pa : Nat) (data : List PB)
  | peerAck (src pa : Nat)
  | report (who : Nat) (body : List Byte) (sig : BitVec 512)
  | notOwner (who : Nat)
  /-- the answer to a firmware core's load of a register, and its access fault of a load or a store (R391) -/
  | cfgData (off value : Nat)
  | cfgFault (wr : Bool) (off : Nat)
  /-- the answer to a read of BAR0 by a function (R395, R396, R398) -/
  | barData (fn off value : Nat)
  deriving DecidableEq, Repr

/-- An element stream of a memory node (R352): element width in bytes, whether its type is signed, the elements with poison. -/
structure NStream where
  eb : Nat
  signed : Bool
  elems : List (Nat × Bool)
  deriving DecidableEq, Repr

/-- A request of a memory node (R351): strand, its load-table entry, partition, rows, arguments. -/
structure NReq where
  sn : Nat
  acc : Nat
  part : Nat
  rows : List W32
  args : List (Nat × Bool)
  deriving DecidableEq, Repr

/-- A node program that runs (R352-R354): next row, streams, elements of the current row done and, for a row that reads memory, read so
far; by ring the bytes emitted and not pushed, and the elements that end in them; elements pushed in all, status; the status of an end that
waits for a full ring. -/
structure NRun where
  req : NReq
  row : Nat
  streams : Tbl NStream
  pos : Nat
  part : List (Nat × Bool)
  fill : Tbl (List PB × Nat)
  count : Nat
  status : Nat
  ended : Option Nat
  deriving DecidableEq, Repr

/-- A memory node (R351). -/
structure Node where
  queue : List NReq
  prog : Option NRun
  deriving DecidableEq, Repr

def Node.fresh : Node := ⟨[], none⟩

/-- Boot, recovery and attestation (R393-R397). -/
structure Boot where
  /-- 0 booting, 1 running, 2 recovery -/
  st : Nat
  failed : Nat
  minver : Nat
  version : Nat
  digest : BitVec 256
  rmoff : Nat
  rmstat : Nat
  rmfail : Nat
  flash : Tbl Byte
  staging : Tbl Byte
  udsOpen : Bool
  /-- firmware memory of the four dies, the byte of it at which M mode starts (R394) -/
  fw : Tbl Byte
  mstart : Option Nat
  /-- the identity public key, the alias private key, the certificate (R397) -/
  idPub : Nat × Nat
  aliasKey : Nat
  cert : Nat × Nat
  deriving DecidableEq, Repr

/-- A move of the machine: a strand issues, or a step of another agent, which the numbers name, takes place. -/
inductive Move where
  | issue (sn : Nat)
  | event (i : Instr) (a b c : Nat)
  /-- the next row of the program that a memory node runs, by 16 * stack + node -/
  | row (k : Nat)
  /-- the outside writes host memory (log entry 12) -/
  | hostWrite (addr : Nat) (data : List Byte)
  /-- an error befalls a chunk of device memory, by PA / 64 (R337), or the parity of an accumulator element (R234; log entry 15) -/
  | memError (chunk : Nat) (e : Ecc)
  | accError (sn n : Nat)
  /-- the error of one symbol in a 64-byte row of a bank, by 1,024 * bank + row (R258; log entry 15) -/
  | bankError (row : Nat)
  /-- the host writes the recovery mailbox at a BAR0 offset (R395); the flash takes an accepted image -/
  | stage (off : Nat) (data : List Byte)
  | flashWrite
  /-- function 0 reads a register of the mailbox at an offset, or another function QSTAT of a queue (R395, R398) -/
  | barRead (fn off : Nat)
  /-- a firmware core in a mode loads `n` bytes of the configuration space (R391) -/
  | cfgLoad (mode off n : Nat)
  /-- a management master's command (R408) -/
  | command (m : Nat) (i : Instr)
  /-- the sensor of a die measures its current, in A (R410) -/
  | current (die amps : Nat)
  /-- a peer package reads or writes bytes of a line that this package homes (R349, R411) -/
  | peerRead (src pa n : Nat)
  | peerWrite (src pa : Nat) (data : List PB)
  /-- the front end reads the packet that stands `k` after the WAIT which holds a queue ahead (R370) -/
  | prefetch (q k : Nat)
  /-- the moves of the ck that the schedule and the wheels in force admit are laid out (R29, R34) -/
  | lay
  deriving DecidableEq, Repr

/-- Whom the step that runs concerns: a strand number, a queue, a partition ..., as each constructor of `Instr` says. Of a write of a
configuration register, `a` is its size in bytes and `c` the mode of the firmware core that makes it (0 U, 1 S, 3 M; R391); of a write of QCTL, `b` the virtual function
that makes it through its BAR0 (R398), 0 for a firmware core. -/
structure Agent where
  a : Nat
  b : Nat
  c : Nat
  deriving DecidableEq, Repr

end Sys2Proof.Machine
end

