-- ==== Sys2Proof/Machine/State.lean ====
section
/-! DEFINITION. The machine's state, its faults and refusals, and the state after reset. -/
namespace Sys2Proof.Machine

/-- The faults of the model. -/
inductive Fault where
  /-- an instruction of the sequencer where no strand stands: raised by every sequencer meaning, and reached by no step, which issues
  only for a strand that exists; safe -/
  | noStrand
  /-- a row of a node program at a memory node that runs none: raised by the node rows' meanings, and reached by no step; safe -/
  | noProgram
  deriving DecidableEq, Repr

/-- The refusals of the model. -/
inductive Refusal where
  /-- an instruction of the table without a meaning yet: raised by its arm of exec; safe -/
  | notModelled (mnemonic : String)
  deriving DecidableEq, Repr

/-- The whole package. -/
structure State where
  /-- CLOCK (R150) -/
  clock : Nat
  /-- the agent of the step that runs; the moves still due in this ck; inputs from outside (log entry 2) -/
  agent : Agent
  agenda : List Move
  inbox : List Move
  mem : Mem
  cores : Tbl Core
  strands : Tbl Strand
  insts : Tbl Inst
  /-- numbers given to kernel instances so far (R18) -/
  kcount : Nat
  queues : Tbl Queue
  waiting : List Waiting
  saved : List Saved
  /-- where banks lie that are not at rest at home (R11), by package bank number: physical slot, as 16 * core + slot, and whether the bank was in use
  when the slots were last settled -/
  places : Tbl (Nat × Bool)
  /-- the launch staging buffers of the dies (R370), oldest first -/
  staged : List Staged
  chunks : List Chunk
  msgs : List Msg
  toks : List Tok
  redirs : List Redir
  hostOps : List HostOp
  nodes : Tbl Node
  /-- the clock of a load of the schedule that waits (R36); the partition whose turn an open entry has, by resource (R34) -/
  schedLoad : Option Nat
  turns : Tbl Nat
  /-- last released sequence of each strand number (R129), and what it was when the last completed period and the current one began (R130) -/
  rseqs : Tbl Nat
  sweeps : Tbl Swept
  /-- the names of the uses of scheduled resources that have waited since the current entry began (R35, R45) -/
  waits : List (List Nat)
  boot : Boot
  /-- clock of the offered handover (R408) -/
  offered : Nat
  /-- dies whose cores a current sensor gates in the next ck (R410) -/
  gated : List Nat
  /-- LIMW that the grants of the current period keep to (R410) -/
  limw : Nat
  /-- host and peer memory as the package's edges see it, with the poison of what the package wrote (log entry 12) -/
  host : Tbl Byte
  hostp : Tbl Bool
  outs : List Out
  /-- descriptors of the collective groups that the edges serve (R412), by address -/
  groups : List Nat
  deriving DecidableEq, Repr

/-- The memory side right after reset. -/
def Mem.reset : Mem :=
  { dram := [], dpois := [], ecc := [], eccAt := [], banks := [], bpois := [], becc := [], lines := [], stamp := 0, sched := (span 0 48).map (fun e => e % 12), entry := 0, rseqT := [], rel := [], cfg := [], tlb := [],
    spills := [], shut := ⟨1, false, false, false⟩, rewrites := [], mask := none, migs := [], edge := [], counts := [], recs := [], remapBad := [],
    xinv := [], reports := [], keys := [], unclr := [], scrubs := [], scrubAt := 0, draws := 0 }

/-- Boot state of a package whose boot checks have passed (R394, log entry 5). -/
def Boot.reset : Boot :=
  { st := 1, failed := 0, minver := 0, version := 0, digest := 0#256, rmoff := 0, rmstat := 0, rmfail := 0, flash := [], staging := [],
    udsOpen := false, fw := [], mstart := some 0, idPub := (0, 0), aliasKey := 0, cert := (0, 0) }

/-- The machine right after package reset: no strand, instance or packet; the schedule of R36. -/
def State.reset : State :=
  { clock := 0, agent := ⟨0, 0, 0⟩, agenda := [], inbox := [], mem := .reset, cores := [], strands := [], insts := [], kcount := 0,
    queues := [], waiting := [], saved := [], places := [], staged := [], chunks := [], msgs := [], toks := [], redirs := [], hostOps := [], nodes := [],
    schedLoad := none, turns := [], rseqs := [], sweeps := [], waits := [],
    boot := .reset, offered := 0, gated := [], limw := 2600, host := [], hostp := [], outs := [], groups := [] }

end Sys2Proof.Machine
end

