-- ==== Sys2Proof/Machine/Ops.lean ====
section
/-! DEFINITION. The named operations the meanings share: strands and cores, registers with their marks, retirement, regions and
releases, taking a trap, escalation and the return from a trap (R145-R160), arrivals (R270), translation parks (R171). -/
namespace Sys2Proof.Machine

/-! ### Strands, cores, instances -/

def State.strand? (s : State) (sn : Nat) : Option Strand := tblFind s.strands sn
def State.setStrand (s : State) (sn : Nat) (t : Strand) : State := { s with strands := tblInsert s.strands sn t }
def State.modStrand (s : State) (sn : Nat) (f : Strand → Strand) : State :=
  match s.strand? sn with
  | some t => s.setStrand sn (f t)
  | none => s
def State.core (s : State) (n : Nat) : Core := tblGet .fresh s.cores n
def State.setCore (s : State) (n : Nat) (c : Core) : State := { s with cores := tblPut .fresh s.cores n c }
def State.modCore (s : State) (n : Nat) (f : Core → Core) : State := s.setCore n (f (s.core n))
def State.inst? (s : State) (k : Nat) : Option Inst := tblFind s.insts k
def State.setInst (s : State) (k : Nat) (i : Inst) : State := { s with insts := tblInsert s.insts k i }
def State.modInst (s : State) (k : Nat) (f : Inst → Inst) : State :=
  match s.inst? k with
  | some i => s.setInst k (f i)
  | none => s
def State.setMem (s : State) (m : Mem) : State := { s with mem := m }
def State.modMem (s : State) (f : Mem → Mem) : State := { s with mem := f s.mem }
def State.report (s : State) (r : Report) : State := s.modMem (fun m => { m with reports := m.reports ++ [r] })

/-- An instruction of the strand that issues: its agent (R17). -/
def State.onStrand (s : State) (f : Nat → Strand → State) : Host.Outcome State Fault Refusal :=
  match s.strand? s.agent.a with
  | some t => .next (f s.agent.a t)
  | none => .fault .noStrand

/-- A step of an engine for the strand the agent names; where no such strand stands, nothing happens. -/
def State.forStrand (s : State) (f : Nat → Strand → State) : Host.Outcome State Fault Refusal :=
  match s.strand? s.agent.a with
  | some t => .next (f s.agent.a t)
  | none => .next s

/-- Partition of a strand number (R10, R18). -/
def partOfSn (sn : Nat) : Nat := partOf (coreOfSn sn)
/-- Die of a strand number. -/
def dieOfSn (sn : Nat) : Nat := dieOf (coreOfSn sn)

/-- Footprint width and height of an instance (R22). -/
def Inst.w (i : Inst) : Nat := 2 ^ i.logw
def Inst.h (i : Inst) : Nat := 2 ^ i.logh
/-- Linear position of footprint coordinates (R20). -/
def Inst.lin (i : Inst) (lx ly : Nat) : Nat := ly * i.w + lx
/-- Core of a linear position. -/
def Inst.coreOf (i : Inst) (lin : Nat) : Nat := coreAt (i.ox + lin % i.w) (i.oy + lin / i.w)

/-- The strand number of an instance's strand at a linear position, if it stands on a core. -/
def State.snOf (s : State) (k lin : Nat) : Option Nat :=
  (s.strands.find? (fun e => decide (e.2.kinst = k) && decide (e.2.lin = lin))).map (·.1)

/-- An instance, or one with no position where the state holds none. -/
def State.instOf (s : State) (k : Nat) : Inst :=
  (s.inst? k).getD ⟨0, 0, 0, 0, 0, 0, 0, 0, 0, false, none, 0, 0, 0, none, false, false, false, false⟩

/-! ### Registers (R145, R147) -/

/-- Value of a g register; g0 reads as zero. -/
def Strand.g (t : Strand) (r : Reg) : W64 := if r = 0 then 0 else tblGet 0 t.seq.g r.toNat
/-- Poison bit of a g register; g0 is never poisoned. -/
def Strand.gp (t : Strand) (r : Reg) : Bool := if r = 0 then false else tblGet false t.seq.gp r.toNat
/-- Whether a g register awaits a result: its reply has not returned, or its latency has not passed (R159); g0 never does. -/
def Strand.pend (t : Strand) (r : Reg) : Bool := if r = 0 then false else tblGet false t.seq.gpend r.toNat || decide (tblGet 0 t.seq.glat r.toNat ≠ 0)

/-- Write a g register with its poison bit, clearing its pending bit; g0 ignores writes. -/
def Strand.setG (t : Strand) (r : Reg) (v : W64) (p : Bool) : Strand :=
  if r = 0 then t
  else { t with seq := { t.seq with g := tblPut 0 t.seq.g r.toNat v, gp := tblPut false t.seq.gp r.toNat p,
                                    gpend := tblPut false t.seq.gpend r.toNat false } }

/-- Mark a g register pending; g0 never is. -/
def Strand.setPend (t : Strand) (r : Reg) : Strand :=
  if r = 0 then t else { t with seq := { t.seq with gpend := tblPut false t.seq.gpend r.toNat true } }

/-- Whether one of the registers an instruction names is pending, so that it does not issue (R159). -/
def Strand.busy (t : Strand) (rs : List Reg) : Bool := rs.any t.pend
/-- Whether one of its data sources is poisoned (R147). -/
def Strand.anyPois (t : Strand) (rs : List Reg) : Bool := rs.any t.gp
/-- The first poisoned register of a list. -/
def Strand.firstPois (t : Strand) (rs : List Reg) : Option Reg := rs.find? t.gp

def Strand.mapSeq (t : Strand) (f : Seq → Seq) : Strand := { t with seq := f t.seq }
def Strand.mapCtl (t : Strand) (f : Ctl → Ctl) : Strand := { t with seq := { t.seq with ctl := f t.seq.ctl } }
def Strand.mapTrap (t : Strand) (f : Trap → Trap) : Strand := { t with seq := { t.seq with trap := f t.seq.trap } }
def Strand.setWait (t : Strand) (w : Wait) : Strand := { t with seq := { t.seq with wait := w } }

/-- Set FPSTAT flags (R57). -/
def Strand.addFl (t : Strand) (f : BitVec 10) : Strand := t.mapCtl (fun c => { c with fpstat := c.fpstat ||| f })

/-- Make progress, for the watchdog (R389). -/
def Strand.progress (t : Strand) : Strand := { t with prog := true }

/-- Retire an instruction of `n` bytes: PC moves past it and RETIRED counts it (R151). -/
def Strand.retire (t : Strand) (n : Nat) : Strand :=
  { t with prog := true,
           seq := { t.seq with pc := t.seq.pc + BitVec.ofNat 64 n, undo := none, wait := .none,
                               ctl := { t.seq.ctl with retired := t.seq.ctl.retired + 1 } } }

/-- Write a destination and retire. -/
def Strand.done (t : Strand) (n : Nat) (gd : Reg) (v : W64) (p : Bool) : Strand := (t.setG gd v p).retire n

/-- Write a destination that is visible after `lat` ck (R159), and retire. -/
def Strand.doneIn (t : Strand) (lat n : Nat) (gd : Reg) (v : W64) (p : Bool) : Strand :=
  let u := t.done n gd v p
  if gd = 0 ∨ lat ≤ 1 then u else { u with seq := { u.seq with glat := tblPut 0 u.seq.glat gd.toNat lat } }

/-- A ck of a strand passes: of the latencies of its results (R159), and of what its banks served (R226). -/
def Strand.lapse (t : Strand) : Strand :=
  let glat := (t.seq.glat.map (fun (e : Nat × Nat) => (e.1, e.2 - 1))).filter (fun e => decide (e.2 ≠ 0))
  { t with seq := { t.seq with glat := glat, served := [], undo := t.seq.undo.filter (fun u => decide (tblGet 0 glat u.gd ≠ 0)) } }

/-- What abandons the instruction that a strand has just issued, if its result is on its way (R180); `t` is the strand before it. -/
def Undo.of (t u : Strand) : Option Undo :=
  (u.seq.glat.find? (fun e => decide (tblGet 0 t.seq.glat e.1 = 0) && decide (tblGet 0 u.seq.glat e.1 ≠ 0))).map fun e =>
    ⟨u.seq.pc - 4#64, e.1, tblGet 0 t.seq.g e.1, tblGet false t.seq.gp e.1, u.seq.ctl.retired - 1, u.seq.ctl.fpstat &&& ~~~t.seq.ctl.fpstat, tblFind t.seq.gens 0⟩

/-- A pre-emption abandons the instruction that issued last if its result is on its way (R180): it leaves no effect, and PC stays at it. -/
def Strand.rollback (t : Strand) : Strand :=
  match t.seq.undo with
  | none => t
  | some u => { t with seq := { t.seq with
      pc := u.pc, g := tblPut 0 t.seq.g u.gd u.v, gp := tblPut false t.seq.gp u.gd u.p, glat := tblErase t.seq.glat u.gd, undo := none
      gens := match u.gen with | some x => tblInsert t.seq.gens 0 x | none => tblErase t.seq.gens 0
      ctl := { t.seq.ctl with retired := u.retired, fpstat := t.seq.ctl.fpstat &&& ~~~u.fl } } }

/-- A fresh place in program order (R117). -/
def Strand.nextSeq (t : Strand) : Strand := { t with seq := { t.seq with seq := t.seq.seq + 1 } }
/-- A fresh identity of an access. -/
def Strand.nextAcc (t : Strand) : Strand := { t with seq := { t.seq with nextId := t.seq.nextId + 1 } }

/-! ### Status words (R71, R72) -/

def stPOISON : Nat := 1
def stECC : Nat := 2
def stEARLY : Nat := 256
def stXLATE : Nat := 512
def stPARITY : Nat := 1024
def stLINK : Nat := 4096
def stMEMBER : Nat := 8192
def stSHUTTER : Nat := 16384

/-- Bitwise or of status words. -/
def stOr (a b : Nat) : Nat := Nat.lor a b
def stIf (c : Bool) (a : Nat) : Nat := if c then a else 0

/-- The status bits that FPSTAT flags report (R71). -/
def statusOf (f : BitVec 10) : Nat :=
  stIf (f.getLsbD 6) 4 + stIf (f.getLsbD 7) 8 + stIf (f.getLsbD 5) 16 + stIf (f.getLsbD 8) 32 + stIf (f.getLsbD 0) 64 +
  stIf (f.getLsbD 2) 128 + stIf (f.getLsbD 9) 2048

/-! ### Bank-map slots (R107, R262) -/

/-- An empty slot. -/
def Slot.empty : Slot := ⟨none, false, false, false, false⟩
/-- A slot of the strand; one outside the allotment is empty (R16). -/
def Strand.slot (t : Strand) (i : Nat) : Slot := if i < t.allot.nsl then t.seq.slots.getD i .empty else .empty
/-- Change a slot. -/
def Strand.modSlot (t : Strand) (i : Nat) (f : Slot → Slot) : Strand := t.mapSeq (fun q => { q with slots := modAt f q.slots i })
/-- Whether an address lies in the scratchpad window (R107). -/
def inWindow (va : Nat) : Bool := decide (0xFFFFFFFFFFF00000 ≤ va)
/-- Slot and offset of a window address. -/
def winSlot (va : Nat) : Nat := bitsOf va 16 4
def winOff (va : Nat) : Nat := bitsOf va 0 16
/-- Window address of a slot. -/
def slotAddr (i : Nat) : Nat := 0xFFFFFFFFFFF00000 + 65536 * i

/-- A bank is locked while a key slot whose context it belongs to is ZEROED or SCRUBBING (R263, R404), or while its slot is. -/
def Mem.bankLocked (m : Mem) (b : Nat) : Bool :=
  (span 0 32).any (fun k =>
    decide (2 ≤ bitsOf (cfgGet m.cfg (offKstat k)) 0 2) &&
    (span 0 (bitsOf (cfgGet m.cfg (offPctx k)) 32 5)).any (fun j => decide (bitsOf (cfgGet m.cfg (offPcbank k j)) 0 14 = b)))

/-- How a slot answers an access (R107, R263, R265): its bank, DETACHED, or a wait. -/
inductive SlotAns where
  | bank (b : Nat)
  | detached
  | wait
  deriving DecidableEq, Repr

/-- The answer of slot `i` to an access. -/
def Mem.slotAns (m : Mem) (t : Strand) (i : Nat) : SlotAns :=
  match (t.slot i).bank with
  | none => .detached
  | some b =>
    if (t.slot i).l1 then .detached
    else if (t.slot i).lock || m.bankLocked b || (t.slot i).draining then .wait
    else .bank b

/-- As for an access that a drain waits for, which is accepted while DRAINING = 1 (R265). -/
def Mem.slotAnsDrain (m : Mem) (t : Strand) (i : Nat) : SlotAns :=
  match (t.slot i).bank with
  | none => .detached
  | some b =>
    if (t.slot i).l1 then .detached
    else if (t.slot i).lock || m.bankLocked b || (t.slot i).zero then .wait
    else .bank b

/-! ### Arrivals (R269, R270) -/

/-- One arrival on an object's four words TARGET, COUNT, GEN and FLAGS, STATUS_CUR and STATUS_DONE (R270). -/
structure ArrObj where
  target : Nat
  count : Nat
  gen : Nat
  flags : Nat
  cur : Nat
  fin : Nat
  deriving DecidableEq, Repr

/-- Read an object of a bank. -/
def Mem.arrObj (m : Mem) (b off : Nat) : ArrObj :=
  let w := fun k n => pbNat (m.bankRead b (off + k) n)
  ⟨w 0 4, w 4 4, w 8 2, w 10 2, w 12 4, w 16 4⟩

/-- Write an object of a bank. -/
def Mem.putArrObj (m : Mem) (b off : Nat) (o : ArrObj) : Mem :=
  m.bankWrite b off (pbOf 4 o.target false ++ pbOf 4 o.count false ++ pbOf 2 o.gen false ++ pbOf 2 o.flags false ++
    pbOf 4 o.cur false ++ pbOf 4 o.fin false)

/-- Arrive (R270). The phases completed are c div TARGET; each after the first begins with `status or EARLY`. -/
def ArrObj.arrive (o : ArrObj) (amount status : Nat) : ArrObj :=
  let cur := stOr o.cur status
  if o.target = 0 then { o with cur := cur, flags := stOr o.flags 2, count := min (o.count + amount) (2 ^ 32 - 1) }
  else
    let c0 := o.count + amount
    let c := min c0 (2 ^ 32 - 1)
    let flags := if 2 ^ 32 - 1 < c0 then stOr o.flags 1 else o.flags
    let k := c / o.target
    if k = 0 then { o with cur := cur, flags := flags, count := c }
    else
      { o with flags := flags, count := c % o.target, gen := (o.gen + k) % 2 ^ 16,
               fin := if k = 1 then cur else stOr status stEARLY,
               cur := if c % o.target = 0 then 0 else stOr status stEARLY }

/-- An arrival at an object of a bank. -/
def Mem.arrive (m : Mem) (b off amount status : Nat) : Mem := m.putArrObj b off ((m.arrObj b off).arrive amount status)

/-! ### Regions and releases (R129, R130) -/

/-- SWEPT of a strand number (R130). -/
def State.swept (s : State) (sn : Nat) : Nat := (tblGet ⟨0, 0⟩ s.sweeps sn).last
/-- Whether a release may begin: it is held while (CSEQ - SWEPT) mod 256 ≥ 120 (R130). -/
def State.canRelease (s : State) (sn : Nat) (t : Strand) : Bool :=
  decide ((t.seq.ctl.cseq + 256 - s.swept sn % 256) % 256 < 120)

/-- EndRegion: RSEQ := CSEQ, CSEQ := CSEQ + 1, and the broadcast to every slice begins (R129). -/
def State.endRegion (s : State) (sn : Nat) : State :=
  match s.strand? sn with
  | none => s
  | some t =>
    let q := t.seq.ctl.cseq
    let s := s.setStrand sn (t.mapCtl (fun c => { c with rseq := q, cseq := (q + 1) % 256 }))
    { s with rseqs := tblPut 0 s.rseqs sn q, mem := { s.mem with rel := s.mem.rel ++ [⟨sn, q, span 0 192⟩] } }

/-- Whether every slice has entered the released sequence (R129). -/
def State.relDone (s : State) (sn q : Nat) : Bool := !(s.mem.rel.any (fun r => decide (r.sn = sn) && decide (r.seq = q)))

/-- InvalidateL1 (R109, R137), with the constant cache (R167). -/
def State.invalL1 (s : State) (core : Nat) : State := s.modCore core (fun c => { c with l1 := [], cc := [] })

/-! ### Halts, escalation, traps (R40, R153-R158) -/

/-- Slots that a `give`, `bl1` or `bscr` in its drain had marked lose the mark when it is abandoned (R42, R265). -/
def Strand.undrain (t : Strand) : Strand :=
  match t.seq.wait with
  | .drain i _ => t.modSlot i (fun x => { x with draining := false })
  | .attach i _ _ _ => t.modSlot i (fun x => { x with draining := false })
  | _ => t

/-- Halt a strand's engines at their boundaries (R40): what has not retired is abandoned (R180), except an access that awaits its check
(R416); steps of the array that await theirs are made again (R201). -/
def Strand.halt (t : Strand) (h : Halt) : Strand :=
  let t := t.undrain.rollback
  let keepW := match t.seq.wait with | .check _ => true | .checked _ => true | _ => false
  { t with run := .halted h, seq := { t.seq with wait := if keepW then t.seq.wait else .none }, arrx := { t.arrx with await := false, parked := none } }

/-- The value of TCAUSE (R153). -/
def tcauseOf (cause src detail : Nat) : W64 := BitVec.ofNat 64 (cause + 256 * detail + 65536 * src)

/-- TCAUSE, TVAL and TPC as a cause writes them (R155, R156). -/
def Trap.record (r : Trap) (cause src detail val : Nat) (tpc : W64) : Trap :=
  { r with tcause := tcauseOf cause src detail, tval := BitVec.ofNat 64 val, tpc := tpc &&& ~~~3#64 }

/-- The trap registers as a delivery to the handler writes them (R155). -/
def Trap.take (r : Trap) (cause src detail val : Nat) (tpc : W64) : Trap :=
  { r.record cause src detail val tpc with
    intrap := true
    eha := r.eha || decide (src = 1), ehm := r.ehm || decide (src = 2), ehs := r.ehs || decide (src = 3) }

/-- An instruction that retired before a cause is delivered stays retired (R155, R180). -/
def Strand.settled (t : Strand) : Strand := { t with seq := { t.seq with undo := none } }

/-- Accesses that a halt abandons are held no longer: they begin a new hold when they are issued again (R317). `who` says which strands halt. -/
def Mem.unhold (m : Mem) (who : Nat → Bool) : Mem :=
  { m with spills := m.spills.map (fun x => { x with held := x.held.filter (fun h => !(who h.sn && decide (2 ^ 130 ≤ h.acc))) }) }

/-- Escalation (R156): TCAUSE, TVAL and TPC are written, TSTATE stays as it is, the strand halts and is kept, the front end receives the cause and
halts the other strands of the instance. -/
def State.escalate (s : State) (sn cause src detail val : Nat) (tpc : W64) : State :=
  match s.strand? sn with
  | none => s
  | some t =>
    let s := s.setStrand sn (((t.settled.mapTrap (·.record cause src detail val tpc)).setWait .none).halt .keep)
    let s := s.modInst t.kinst (fun i => { i with esc := match i.esc with | some c => some c | none => some cause })
    let s := (s.report (.escalation sn)).modMem (·.unhold (fun n => (s.strand? n).any (fun u => decide (u.kinst = t.kinst))))
    { s with strands := s.strands.map (fun e =>
        if e.2.kinst = t.kinst ∧ e.1 ≠ sn ∧ e.2.run ≠ .halted .keep then (e.1, e.2.halt .drop) else e) }

/-- TVEC.EN (R153). -/
def Trap.en (r : Trap) : Bool := r.tvec.getLsbD 0

/-- Deliver (R155): to the handler, into the trap hold, or by escalation. -/
def State.deliver (s : State) (sn cause src detail val : Nat) (tpc : W64) : State :=
  match s.strand? sn with
  | none => s
  | some t =>
    let r := t.seq.trap
    if r.en = true ∧ r.intrap = false then
      s.setStrand sn { t with
        prog := true
        seq := { t.seq with
          pc := r.tvec &&& ~~~3#64
          undo := none
          wait := .none
          trap := r.take cause src detail val tpc } }
    else if r.en = true ∧ 1 ≤ src ∧ src ≤ 3 then
      s.setStrand sn (t.mapTrap (fun r => { r with hold := some ⟨cause, src, detail, val⟩ }))
    else s.escalate sn cause src detail val tpc

/-- A cause the sequencer raises at its instruction (SRC 0, or 4 for the atomic unit): TPC is the instruction (R154). -/
def State.trap (s : State) (sn cause src detail val : Nat) : State :=
  match s.strand? sn with
  | none => s
  | some t => s.deliver sn cause src detail val t.seq.pc

/-- Whether the sequencer may leave its current instruction for an engine's trap: it first completes an access that awaits its check
(R155, R416). -/
def Wait.leaves : Wait → Bool
  | .check _ => false
  | .checked _ => false
  | _ => true

/-- Take the engine causes that wait (R155, R158): deliver the first, and move the next into the hold; of a strand that halts to be saved as
well, whose deliveries complete first (R42, R201). While one is held, the others wait for the `rett`. -/
def State.takeTraps : Nat → State → Nat → State
  | 0, s, _ => s
  | k + 1, s, sn =>
    match s.strand? sn with
    | none => s
    | some t =>
      match decide (t.run = .running) || decide (t.run = .halted .save), t.seq.trap.raised with
      | true, c :: cs =>
        if t.seq.trap.intrap && (t.seq.trap.en || t.seq.trap.hold.isSome) then
          if t.seq.trap.hold.isNone then s.setStrand sn (t.mapTrap (fun r => { r with hold := some c, raised := cs })) else s
        else if t.seq.wait.leaves then
          let t := (t.undrain.setWait .none).mapTrap (fun r => { r with raised := cs })
          State.takeTraps k ((s.setStrand sn t).deliver sn c.cause c.src c.detail c.val t.seq.pc) sn
        else s
      | _, _ => s

/-- Whether a cause that an engine raises now escalates although another is held (R158): the handler has cleared TVEC.EN. -/
def Strand.escalates (t : Strand) : Bool :=
  let r := t.seq.trap
  r.intrap && !r.en && r.hold.isSome && t.seq.wait.leaves && decide (t.run = .running)

/-- An engine raises a cause and halts at its boundary (R155, R158). -/
def State.engineTrap (s : State) (sn cause src detail val : Nat) : State :=
  if (s.strand? sn).any Strand.escalates then s.trap sn cause src detail val
  else (s.modStrand sn (fun t => t.mapTrap (fun r => { r with raised := r.raised ++ [⟨cause, src, detail, val⟩] }))).takeTraps 4 sn

/-- Whether an engine of a strand (1 array, 2 matrix, 3 stream) runs: the strand is not halted, and no trap of the engine stops it. -/
def Strand.engineOn (t : Strand) (e : Nat) : Bool :=
  let r := t.seq.trap
  decide (t.run = .running) && !(if e = 1 then r.eha else if e = 2 then r.ehm else r.ehs) &&
  !(match r.hold with | some c => decide (c.src = e) | none => false) && !(r.raised.any (fun c => decide (c.src = e)))

/-- The return from a trap (R157). -/
def State.rett (s : State) (sn : Nat) : State :=
  match s.strand? sn with
  | none => s
  | some t =>
    let r := t.seq.trap
    let t := t.retire 0
    let t := { t with seq := { t.seq with pc := r.tpc, trap := { r with intrap := false, eha := false, ehm := false, ehs := false, hold := none } } }
    let s := s.setStrand sn t
    let s := match r.hold with
      | some c => s.deliver sn c.cause c.src c.detail c.val t.seq.pc
      | none => s
    s.takeTraps 4 sn

/-- ILLEGAL with DETAIL 0 (R79). -/
def State.illegal (s : State) (sn : Nat) (tval : W64) : State := s.trap sn 0x01 0 0 tval.toNat
/-- POISON of a register an instruction uses (R147). -/
def State.poisonTrap (s : State) (sn : Nat) (r : Reg) : State := s.trap sn 0x0D 0 0 r.toNat

/-- RACEINFO of a conflict (R135): other strand, its sequence, kind, whether its writer was atomic, this access's path, the granule. -/
def raceInfoOf (osn oseq kind : Nat) (oatom : Bool) (path gran : Nat) : W64 :=
  BitVec.ofNat 64 (osn * 2 ^ 51 + oseq * 2 ^ 43 + kind * 2 ^ 41 + b2n oatom * 2 ^ 40 + path * 2 ^ 37 + gran % 2 ^ 34)

/-- Record a conflict passed under SUPP (R135). -/
def Strand.suppressed (t : Strand) (info : W64) : Strand :=
  t.mapCtl (fun c => { c with raceinfo := info, supcnt := min (c.supcnt + 1) 255 })

/-- Record a conflict passed under SUPP, if there was one. -/
def State.supp (s : State) (sn path : Nat) (c : Option Conflict) : State :=
  match c with
  | none => s
  | some c => s.modStrand sn (·.suppressed (raceInfoOf c.osn c.oseq c.kind c.oatom path c.gran))

/-- TVAL of a RACE (R134): the first byte of the conflicting granule, or of the access if that is later. -/
def raceVal (va gran : Nat) : Nat := max va (va / 128 * 128 + 32 * (gran % 4))

/-! ### Translation faults (R171, R347, R348) -/

/-- Write a fault-buffer record, which waits for device memory if it must (R348): whether it is written, or will be. -/
def Mem.postRecord (m : Mem) (p : Nat) (bytes : List Byte) : Bool × Mem :=
  if m.recs.any (fun r => decide (r.1 = p)) then (true, { m with recs := m.recs ++ [(p, false, bytes)] })
  else (m.faultRecord p bytes).getD (true, { m with recs := m.recs ++ [(p, false, bytes)] })

/-- Write the record of a parked access: path 0 LS, 1 CP, 3 AT, 5 fetch (R348); whether it was written, and its GEN. -/
def State.parkRecord (s : State) (sn path va kind entry lvl : Nat) (wr atom : Bool) : (Bool × Nat) × State :=
  let p := partOfSn sn
  let g := s.mem.gen p
  let (w, m) := s.mem.postRecord p (xlRecord va sn path kind wr atom g entry lvl)
  ((w, g), s.setMem m)

/-- Park the instruction at PC (R171). -/
def State.park (s : State) (sn path va kind entry lvl : Nat) (wr atom : Bool) : State :=
  let ((w, g), s) := s.parkRecord sn path va kind entry lvl wr atom
  s.modStrand sn (·.setWait (.parked w g))

/-- Whether a park's flush has come (R348). -/
def State.flushed (s : State) (sn g : Nat) : Bool := decide (s.mem.gen (partOfSn sn) ≠ g)

/-! ### The clock-driven gates (R28, R410) -/

/-- Whether a core runs its engines in this ck (R410). -/
def State.ungated (s : State) (core : Nat) : Bool := decide (0 < (s.core core).grant) && !(s.gated.any (fun d => decide (d = dieOf core)))

/-- The strand index that a wheel slot or matrix interval belongs to (R27, R28). -/
def Core.owner (c : Core) (e : Nat) : Option Nat := if bitOf c.alloc e then some (bitsOf c.ent (2 * e) 2) else none

end Sys2Proof.Machine
end

