-- ==== Sys2Proof/Machine/Operands.lean ====
section
/-! DEFINITION. Operand forms: addresses and their checks (R169-R171), the parts of an access, their places and the order among them
(R117), accesses at banks, caches and home slices, the words of control registers (R148). -/
namespace Sys2Proof.Machine

/-- How the checks of an access end (R170). -/
inductive Chk where
  | ok (parts : List Part)
  | trap (cause detail val : Nat)
  | park (va kind entry lvl : Nat)
  | wait
  deriving DecidableEq, Repr

/-- Whether two pages agree in the attributes of R170 step 5. -/
def Leaf.sameAttr (a b : Leaf) : Bool :=
  (a.rc == b.rc) && (a.sco == b.sco) && (a.ub == b.ub) && (a.pinEl == b.pinEl) && decide (a.hdie = b.hdie)

/-- Where the bytes at a virtual address of a page lie. -/
def Leaf.place (l : Leaf) (va : Nat) : Place :=
  if l.ub then .unb va l.hdie (bitsOf l.e 12 27 * 4096) l.bits
  else if l.loc = 0 then .frame (l.paOf va)
  else .fwd l.loc (bitsOf l.e 12 46 * 4096 + bitsOf va 0 l.bits) va

/-- A part of an access to a page (R167): L1 serves plain pages with a local frame, the constant cache read-only ones. -/
def Leaf.part (l : Leaf) (va n : Nat) (data : List PB) : Part :=
  ⟨va, n, l.place va, l.rc, l.sco, !l.rc && !l.sco && !l.ub && decide (l.loc = 0), !l.w && !l.rc && !l.sco && decide (l.loc = 0), false, data⟩

/-- Natural alignment of an access (R120, R170): its size is a power of two that divides its address. -/
def aligned (va n : Nat) : Bool := decide (n ≠ 0) && decide (2 ^ Nat.log2 n = n) && decide (va % n = 0)

/-- Translate and check the permission of one page (R170 step 4, R347). -/
def Mem.page (m : Mem) (core p va : Nat) (perm : Perm) : Except Chk Leaf × Mem :=
  match m.translate core p va with
  | (.leaf l, m) =>
    if l.allows perm = false then (.error (.trap 0x07 0 va), m)
    else if l.ub && (m.findUnb (homeSlice l.hdie (bitsOf va 7 32)) p va).isNone then
      -- R345: the backing entry is read when no line of the part stands at the home slice
      let ent := backingEntry (bitsOf l.e 12 27 * 4096) va l.bits
      match m.tableRead p ent with
      | none => (.error .wait, m)
      | some (e, m) => if backingBad e then (.error (.park va 3 ent l.lvl), m) else (.ok l, m)
    else (.ok l, m)
  | (.xlate, m) => (.error (.trap 0x06 0 va), m)
  | (.park k e lvl, m) => (.error (.park va k e lvl), m)
  | (.wait, m) => (.error .wait, m)

/-- The slots of a window range, checked in increasing order (R107, R170 step 3). -/
def Mem.slotsCheck (m : Mem) (t : Strand) (drain : Bool) (va : Nat) : List Nat → Option Chk
  | [] => none
  | i :: is =>
    match (if drain then m.slotAnsDrain t i else m.slotAns t i) with
    | .detached => some (.trap 0x03 0 (max va (slotAddr i)))
    | .wait => some .wait
    | .bank _ => m.slotsCheck t drain va is

/-- The bank part at a window address. -/
def winPart (t : Strand) (va n : Nat) (data : List PB) : Part :=
  ⟨va, n, .bank ((t.slot (winSlot va)).bank.getD 0) (winOff va), false, false, false, false, false, data⟩

/-- Parts of a window range. -/
def winParts (t : Strand) (va n : Nat) (data : List PB) : List Part :=
  (pieces n va n 64).map (fun x => winPart t x.1 x.2 (slice data (x.1 - va) x.2))

/-- The checks of an access of `n` bytes at `va` (R170 steps 2 to 6), in order; `data` is what a store writes. -/
def Mem.access (m : Mem) (core : Nat) (t : Strand) (va n : Nat) (perm : Perm) (data : List PB) : Chk × Mem :=
  let last := va + n - 1
  if 2 ^ 64 ≤ last ∨ inWindow va ≠ inWindow last then (.trap 0x04 2 va, m)
  else if inWindow va then
    match m.slotsCheck t false va (span (winSlot va) (winSlot last + 1 - winSlot va)) with
    | some c => (c, m)
    | none => (.ok (winParts t va n data), m)
  else
    match m.page core (partOf core) va perm with
    | (.error c, m) => (c, m)
    | (.ok l1, m) =>
      let second := last / 4096 * 4096
      let r : Except Chk Leaf × Mem := if last / 4096 = va / 4096 then (.ok l1, m) else m.page core (partOf core) second perm
      match r with
      | (.error c, m) => (c, m)
      | (.ok l2, m) =>
        if !l1.sameAttr l2 then (.trap 0x05 0 second, m)
        else if (l1.sco && !aligned va n) || (l1.rc && !aligned va n && decide (va / 128 ≠ last / 128)) then (.trap 0x04 1 va, m)
        else (.ok ((pieces n va n 128).map (fun x =>
          (if x.1 / 4096 = va / 4096 then l1 else l2).part x.1 x.2 (slice data (x.1 - va) x.2))), m)

/-- The checks of one part of an engine's access, which lies in one bank row, line and page (R289: R170 without step 5). -/
def Mem.element (m : Mem) (core : Nat) (t : Strand) (va n : Nat) (perm : Perm) (data : List PB) : Chk × Mem :=
  if inWindow va then
    match m.slotsCheck t true va [winSlot va] with
    | some c => (c, m)
    | none => (.ok [winPart t va n data], m)
  else
    match m.page core (partOf core) va perm with
    | (.error c, m) => (c, m)
    | (.ok l, m) =>
      if l.sco && !aligned va n then (.trap 0x04 1 va, m) else (.ok [l.part va n data], m)

/-! ### Places (R117, R118, R124, R125) -/

/-- Whether two parts touch a common physical byte; parts of unbacked pages are taken to meet what has the same offset in its 4 KiB page, since
both may be backed at one frame (R312). -/
def Part.overlaps (x y : Part) : Bool :=
  let meets := fun a b => decide (a < b + y.n) && decide (b < a + x.n)
  match x.place, y.place with
  | .bank b o, .bank c q => decide (b = c) && meets o q
  | .frame a, .frame b => meets a b
  | .unb a _ _ _, .unb b _ _ _ => meets (a % 4096) (b % 4096)
  | .frame a, .unb b _ _ _ => meets (a % 4096) (b % 4096)
  | .unb a _ _ _, .frame b => meets (a % 4096) (b % 4096)
  | .fwd l a _, .fwd k b _ => decide (l = k) && meets a b
  | _, _ => false

/-- Home die of a place, for bytes that a slice of the package homes. -/
def Place.homeDie : Place → Option Nat
  | .frame pa => some (dieOfStack (stackOf pa))
  | .unb _ hd _ _ => some hd
  | _ => none

/-- Whether a write to a place is acknowledged: its home is on another die, or outside the package (R125). -/
def Place.remote (die : Nat) : Place → Bool
  | .bank _ _ => false
  | .fwd _ _ _ => true
  | x => decide (x.homeDie ≠ some die)

/-- Whether an entry of the load table is a load. -/
def Pend.isLoad : Pend → Bool
  | .load _ _ => true
  | _ => false

/-- Whether the load table is full (R160): a `send` that awaits its answers takes no entry of it. -/
def Strand.loadFull (t : Strand) : Bool :=
  decide (8 ≤ t.seq.loads.countP (fun a => match a.kind with | .send _ _ => false | _ => true))

/-- A part of an LS access of a strand: its place in program order, whether it is the array's, whether it writes. -/
structure LsUse where
  seq : Nat
  arr : Bool
  wr : Bool
  part : Part
  deriving DecidableEq, Repr

/-- The parts of the strand's LS accesses that have not been answered. -/
def Strand.undoneLS (t : Strand) : List LsUse :=
  (t.seq.loads.flatMap (fun a => match a.kind with | .load _ _ => a.parts.map (fun p => ⟨a.seq, false, false, p⟩) | _ => [])) ++
  (t.seq.stores.flatMap (fun x => x.parts.map (fun p => ⟨x.seq, x.arr, true, p⟩))) ++
  (t.arrx.pes.flatMap (fun e => e.lq.flatMap (fun x => if x.cp then [] else x.parts.map (fun p => ⟨x.seq, true, false, p⟩))))

/-- Whether a part is performed, or needs not be for a release at a scope below die (R118, R124): a read once its value is fixed, a write to
another die or outside the package at no scope below die. -/
def LsUse.performedAt (die scope : Nat) (x : LsUse) : Bool :=
  x.part.done || (x.wr && decide (scope < 3) && x.part.place.remote die)

/-- Whether an access precedes, in program order, what the sequencer makes at a place (R117): the array's, when their loop ended before. -/
def Strand.earlier (t : Strand) (s1 : Nat) (a1 : Bool) (seq : Nat) : Bool :=
  if a1 then t.arrx.past.any (fun l => decide (l.1 ≤ s1) && decide (s1 < l.2) && decide (l.2 ≤ seq)) else decide (s1 < seq)

/-- The place at which the loop of an array access began. -/
def Strand.loopStart (t : Strand) (s2 : Nat) : Nat :=
  ((t.arrx.past.find? (fun l => decide (l.1 ≤ s2) && decide (s2 < l.2))).map (·.1)).getD t.arrx.seq

/-- Whether an access precedes another in program order (R117): a sequencer access made while a loop runs is unordered with the loop's. -/
def Strand.ordered (t : Strand) (s1 : Nat) (a1 : Bool) (s2 : Nat) (a2 : Bool) : Bool :=
  if a1 == a2 then decide (s1 < s2) else if a2 then decide (s1 < t.loopStart s2) else t.earlier s1 a1 s2

/-- Whether a write of the LS path to an SCO page awaits its acknowledgement (R127). -/
def Strand.scoUnacked (t : Strand) : Bool := t.seq.acks.any (fun a => match a with | .ls sco => sco | _ => false)
/-- The same for the CP path. -/
def Strand.scoUnackedCp (t : Strand) : Bool := t.seq.acks.any (fun a => match a with | .cp sco _ _ _ => sco | _ => false)

/-- Whether an earlier LS access with overlapping bytes, or both to SCO pages, is still to be performed (R117, R119, R127). -/
def Strand.blocked (t : Strand) (seq : Nat) (arr : Bool) (p : Part) : Bool :=
  (p.sco && t.scoUnacked) ||
  t.undoneLS.any (fun x => !x.part.done && t.ordered x.seq x.arr seq arr && (x.part.overlaps p || (x.part.sco && p.sco)))

/-- Whether an earlier LS access to an SCO page is still to be performed, at package scope (R127). -/
def Strand.scoBusy (t : Strand) : Bool := t.scoUnacked || t.undoneLS.any (fun x => !x.part.done && x.part.sco)

/-! ### The tenant schedule (R34, R35) -/

/-- Whether the entry in force admits a use by a partition (R34). -/
def State.admits (s : State) (p : Nat) : Bool := s.mem.admits p

/-- Whether a use at a place may be made now by a partition (R34, R35): uses at a bank are not scheduled. -/
def State.mayUse (s : State) (p : Nat) : Place → Bool
  | .bank _ _ => true
  | _ => s.admits p

/-! ### Performing a part -/

/-- Who makes an access of a strand on a path (R128): 0 LS, 1 CP, 2 MX, 3 AT; `acc` is its identity. -/
def Strand.who (t : Strand) (sn path : Nat) (rc : Bool) (acc : Nat) : Who := ⟨partOfSn sn, sn, path, t.seq.ctl.cseq, t.seq.ctl.supp, rc, acc⟩

/-- An access of `n` bytes at a place: at the bank, or at the home slice (R108, R110). -/
def Mem.at (m : Mem) (clock : Nat) (w : Who) (k : RKind) (pl : Place) (n : Nat) (f : List PB → List PB) : MR SRes :=
  match pl with
  | .bank b off =>
    let old := m.bankRead b off n
    .ok ⟨old, false, none⟩ (if k = .read then m else m.bankWrite b off (f old))
  | .frame pa => m.physAcc w k pa n f
  | .unb va hd tbl sz => m.unbAcc clock w k va hd tbl sz n f
  | .fwd _ _ _ => .hold m

/-- L1-mode slots of a core (R109). -/
def State.l1Count (s : State) (core : Nat) : Nat :=
  ((span (4 * core) 4).map (fun sn => match s.strand? sn with
    | some t => (t.seq.slots.take t.allot.nsl).countP (fun x => x.l1 && x.bank.isSome)
    | none => 0)).sum

/-- The L1 line that holds a physical address (R109). -/
def State.l1Find (s : State) (core pa : Nat) : Option L1Line :=
  if s.l1Count core = 0 then none else (s.core core).l1.find? (fun l => decide (l.name = pa / 128))

/-- Fill a line into L1 (R109): oldest filled of its set goes first. -/
def State.l1Fill (s : State) (core pa : Nat) (data : List PB) : State :=
  let n := s.l1Count core
  if n = 0 then s
  else
    let L := pa / 128
    let c := s.core core
    let mine := c.l1.filter (fun l => decide (l.idx = L % n) && decide (l.set = L / n % 128) && decide (l.name ≠ L))
    let oldest := (mine.map (·.ord)).foldl min c.l1ord
    let rest := c.l1.filter (fun l => decide (l.name ≠ L) &&
      !(decide (4 ≤ mine.length) && decide (l.idx = L % n) && decide (l.set = L / n % 128) && decide (l.ord = oldest)))
    s.setCore core { c with l1 := rest ++ [⟨L % n, L / n % 128, c.l1ord, L, data⟩], l1ord := c.l1ord + 1 }

/-- Update the L1 line that a store of the core matches (R109). -/
def State.l1Store (s : State) (core pa : Nat) (data : List PB) : State :=
  s.modCore core (fun c => { c with l1 := c.l1.map (fun l =>
    if l.name = pa / 128 then { l with data := splice l.data (pa % 128) data } else l) })

/-- The frame address at which a place's bytes lie: a frame, or the frame of a backed part of an unbacked page (R312). -/
def Mem.frameAt (m : Mem) (p : Nat) : Place → Option Nat
  | .frame pa => some pa
  | .unb va hd tbl sz =>
    let e := m.peek64 (backingEntry tbl va sz)
    if (m.findUnb (homeSlice hd (bitsOf va 7 32)) p va).isNone && bitOf e 0 then some (bitsOf e 12 27 * 4096 + va % 4096) else none
  | _ => none

/-- A store of the core that has been performed at a place updates the L1 line it matches (R109). -/
def State.l1Stored (s : State) (core : Nat) (pl : Place) (data : List PB) : State :=
  match s.mem.frameAt (partOf core) pl with
  | some pa => s.l1Store core pa data
  | none => s

/-- A part of an LS load that a cache of the core holds (R109, R167): its bytes. The constant cache may have given the line up. -/
def State.cached (s : State) (core : Nat) (p : Part) : Option (List PB) :=
  match p.place with
  | .frame pa =>
    if p.ro then ((s.core core).cc.find? (fun l => decide (l.name = pa / 128))).map (fun l => slice l.data (pa % 128) p.n)
    else if p.l1 then (s.l1Find core pa).map (fun l => slice l.data (pa % 128) p.n)
    else none
  | _ => none

/-- Perform a load part at its home slice, filling the core's caches where the page allows (R109, R167). -/
def State.homeRead (s : State) (core : Nat) (w : Who) (p : Part) : MR SRes :=
  match p.place with
  | .frame pa =>
    if p.ro || (p.l1 && decide (s.l1Count core ≠ 0)) then s.mem.physAcc w .read (pa / 128 * 128) 128 id
    else s.mem.physAcc w .read pa p.n id
  | pl => s.mem.at s.clock w .read pl p.n id

/-- The bytes of a load part from what `homeRead` returned, and the caches filled. -/
def State.homeFill (s : State) (core : Nat) (p : Part) (old : List PB) : List PB × State :=
  match p.place with
  | .frame pa =>
    if p.ro then
      (slice old (pa % 128) p.n, s.modCore core (fun c => { c with cc := c.cc.filter (fun l => decide (l.name ≠ pa / 128)) ++ [⟨pa / 128, old⟩] }))
    else if p.l1 && decide (s.l1Count core ≠ 0) then (slice old (pa % 128) p.n, s.l1Fill core pa old)
    else (old, s)
  | _ => (old, s)

/-- Bytes of a load's parts in order. -/
def partBytes (ps : List Part) : List PB := ps.flatMap (·.data)

/-- Change the first part of a list that is not done. -/
def setPart (f : Part → Part) : List Part → List Part
  | [] => []
  | p :: ps => if p.done then p :: setPart f ps else f p :: ps

/-- The first part that is not done. -/
def nextPart (ps : List Part) : Option Part := ps.find? (fun p => !p.done)
/-- Whether every part is done. -/
def allDone (ps : List Part) : Bool := ps.all (·.done)

/-- A write that has been performed at a place awaits its acknowledgement, if one is given (R125). -/
def Strand.awaitAck (t : Strand) (die : Nat) (pl : Place) (a : AckOf) : Strand :=
  if pl.remote die then t.mapSeq (fun q => { q with acks := q.acks ++ [a] }) else t

/-- Key of a byte of host or peer memory in the state (log entry 12): LOC 1 host, 2 peer. -/
def extKey (loc addr : Nat) : Nat := if loc = 2 then 2 ^ 64 + addr else addr

/-- The function through which a partition's requests to the host travel (R398): 0 where none is bound as its port (log entry 46). -/
def State.portFn (s : State) (loc p : Nat) : Nat :=
  let is := fun (v : Nat) => let c := cfgGet s.mem.cfg (offVfcfg v); bitOf c 5 && bitOf c 4 && decide (bitsOf c 0 4 = p)
  if loc = 1 then ((span 1 192).find? is).getD 0 else 0

/-- Host or peer memory takes bytes (log entry 12). -/
def State.extPut (s : State) (loc addr : Nat) (data : List PB) : State :=
  { s with
    host := tblPutAll 0 s.host (extKey loc addr) (pbBytes data)
    hostp := tblPutAll false s.hostp (extKey loc addr) (data.map (·.2)) }

/-- Send a partition's write to a page without a local frame (R349). -/
def State.sendWrite (s : State) (p loc addr : Nat) (data : List PB) : State :=
  { s.extPut loc addr data with outs := s.outs ++ [.write (s.portFn loc p) loc addr data] }

/-- What host or peer memory holds (log entry 12). -/
def State.extRead (s : State) (loc addr n : Nat) : List PB := (span (extKey loc addr) n).map (pbGet s.host s.hostp)

/-- Write the bytes of an access-count record of a partition (R349), or set ERR when the ring is full; none while the write waits. -/
def Mem.countBytes (m : Mem) (p : Nat) (bytes : List Byte) : Option Mem :=
  let cf := cfgGet m.cfg (offAcccfg p)
  let r := cfgGet m.cfg (offAccptr p)
  let n := 2 ^ (ringLogn cf + 1)
  let tail := bitsOf r 0 16
  if (tail + n - bitsOf r 32 16 % n) % n < 2 ^ ringLogn cf then
    (m.ownWrite p (ringBase cf + 16 * (tail % 2 ^ ringLogn cf)) (clean bytes)).map (fun m =>
      { m with cfg := cfgField m.cfg (offAccptr p) 0 16 ((tail + 1) % n) })
  else some { m with cfg := cfgField m.cfg (offAccptr p) 31 1 1 }

/-- Write the access-count record of a page; it waits for device memory if it must. -/
def Mem.countRecord (m : Mem) (c : AccCount) : Mem :=
  let bytes := toBytes 8 c.va ++ toBytes 4 c.reads ++ toBytes 4 c.writes
  (m.countBytes c.part bytes).getD { m with recs := m.recs ++ [(c.part, true, bytes)] }

/-- The records that wait for device memory are written, in order, as far as they can be (R348, R349). -/
def writeRecs : List (Nat × Bool × List Byte) → Mem → Mem
  | [], m => m
  | r :: rs, m =>
    match (if r.2.1 then m.countBytes r.1 r.2.2 else (m.faultRecord r.1 r.2.2).map (·.2)) with
    | some m => writeRecs rs m
    | none => writeRecs rs { m with recs := m.recs ++ [r] }
def Mem.drainRecs (m : Mem) : Mem := writeRecs m.recs { m with recs := [] }

/-- Count a forwarded line of a page (R349): a counter that is evicted, or that reaches 65,535, is written to the ring. -/
def Mem.countLine (m : Mem) (p va : Nat) (wr : Bool) : Mem :=
  let page := va / 4096 * 4096
  let mine := fun (c : AccCount) => decide (c.part = p) && decide (c.va = page)
  let old := (m.counts.find? mine).getD ⟨p, page, 0, 0, 0⟩
  let new : AccCount := { old with reads := old.reads + b2n (!wr), writes := old.writes + b2n wr, stamp := m.stamp }
  let rest := m.counts.filter (fun c => !mine c)
  let m := { m with stamp := m.stamp + 1 }
  if new.reads = 65535 ∨ new.writes = 65535 then { m.countRecord new with counts := rest }
  else if rest.length < 1024 then { m with counts := rest ++ [new] }
  else match rest with
    | c :: cs => { m.countRecord c with counts := cs ++ [new] }
    | [] => { m with counts := [new] }

/-- Sign or zero extension of loaded bytes to 64 bits (R166). -/
def loadValue (n : Nat) (signed : Bool) (x : Nat) : W64 :=
  if signed then BitVec.ofInt 64 (sgn (8 * n) x) else BitVec.ofNat 64 x

/-! ### Control registers (R148, R149) -/

/-- S(n) of R355, the nominal length and the kind of shutter n. -/
def shutterStart (n : Nat) : Nat := 8190 * n
def shutterKind (n : Nat) : Nat := if n % 256 = 0 then 1 else if n % 25600 = 128 then 2 else 0
def shutterLen (n : Nat) : Nat := if n % 256 = 0 then 4200 else if n % 25600 = 128 then 2100 else 336

/-- BMAPi of a strand (R262). -/
def Mem.bmap (m : Mem) (t : Strand) (i : Nat) : Nat :=
  let x := t.slot i
  match x.bank with
  | none => 0
  | some b => 2 ^ 15 + b2n x.draining * 2 ^ 14 + b2n (x.lock || m.bankLocked b) * 2 ^ 13 + b2n x.l1 * 2 ^ 12 + b % 64

/-- LSV of CTXWIN: bit i is set when header slot i holds a header (R184). -/
def ArrX.lsv (a : ArrX) : Nat := ((span 0 8).map (fun i => if (tblGet none a.hdrs i).isSome then 2 ^ i else 0)).sum

/-- The values of MSGCTL and MSGOVF (R299, R301). -/
def Strand.msgctl (t : Strand) : Nat := t.str.ovfs.length * 2 ^ 16 + t.str.posts.length * 2 ^ 8 + b2n t.seq.ctl.notrap
def Strand.msgovf (t : Strand) : Nat :=
  let c := t.seq.ctl
  c.ltag * 2 ^ 48 + c.ly * 2 ^ 40 + c.lx * 2 ^ 32 + c.dcnt * 256 + b2n c.drop

/-- The value of a control register (R148), or none for an unassigned number. -/
def State.creg (s : State) (sn : Nat) (t : Strand) (n : Nat) : Option W64 :=
  let c := t.seq.ctl
  let r := t.seq.trap
  let core := coreOfSn sn
  let i := s.instOf t.kinst
  let o := fun x => some (BitVec.ofNat 64 x)
  match n with
  | 0x000 => o (t.kinst * 2 ^ 48 + sn * 2 ^ 32 + partOf core * 2 ^ 28 + dieOf core * 2 ^ 26 + sidxOf sn * 2 ^ 24 + coreY core * 2 ^ 8 + coreX core)
  | 0x001 => o (i.logw * 2 ^ 24 + i.logh * 2 ^ 20 + i.part * 2 ^ 16 + i.oy * 2 ^ 8 + i.ox)
  | 0x002 => o (t.lin * 2 ^ 16 + t.lin / i.w * 2 ^ 8 + t.lin % i.w)
  | 0x008 => o s.clock
  | 0x009 => some c.retired
  | 0x010 => o (s.mem.bmap t 0) | 0x011 => o (s.mem.bmap t 1) | 0x012 => o (s.mem.bmap t 2) | 0x013 => o (s.mem.bmap t 3)
  | 0x014 => o (s.mem.bmap t 4) | 0x015 => o (s.mem.bmap t 5) | 0x016 => o (s.mem.bmap t 6) | 0x017 => o (s.mem.bmap t 7)
  | 0x018 => o (s.mem.bmap t 8) | 0x019 => o (s.mem.bmap t 9) | 0x01A => o (s.mem.bmap t 10) | 0x01B => o (s.mem.bmap t 11)
  | 0x01C => o (s.mem.bmap t 12) | 0x01D => o (s.mem.bmap t 13) | 0x01E => o (s.mem.bmap t 14) | 0x01F => o (s.mem.bmap t 15)
  | 0x020 => some r.tvec
  | 0x021 => some r.tcause
  | 0x022 => some r.tpc
  | 0x023 => some r.tval
  | 0x024 => some r.tsave
  | 0x025 => o (b2n t.secp * 256 + b2n r.ehs * 64 + b2n r.ehm * 32 + b2n r.eha * 16 + b2n r.intrap)
  | 0x030 => o ((s.core core).alloc * 2 ^ 32 + (s.core core).ent)
  | 0x031 => o (t.allot.nag * 2 ^ 48 + t.allot.nrg * 2 ^ 40 + t.allot.nsl * 2 ^ 32 + t.arrx.lsv * 2 ^ 16 + t.allot.tkn * 2 ^ 8 + t.allot.cwn)
  | 0x040 => o (b2n c.daz * 16 + b2n c.ftz * 8 + c.rm)
  | 0x041 => o c.fpstat.toNat
  | 0x050 => o (b2n c.isat)
  | 0x051 => o (b2n t.mx.held * 2 ^ 37 + t.mx.queue.length * 2 ^ 32 + c.mxst.toNat)
  | 0x060 => o (shutterStart s.mem.shut.n0)
  | 0x061 => o (b2n s.mem.shut.overrun * 2 ^ 33 + b2n s.mem.shut.begun * 2 ^ 32 + shutterLen s.mem.shut.n0 * 2 ^ 16 + shutterKind s.mem.shut.n0)
  | 0x070 => o (c.supcnt * 2 ^ 24 + b2n c.supp * 2 ^ 16 + c.rseq * 256 + c.cseq)
  | 0x071 => some c.raceinfo
  | 0x080 => o t.msgctl
  | 0x081 => o t.msgovf
  | 0x0A0 => o c.ackcnt
  | _ => none

/-- The instructions that write a control register (R149). -/
inductive CregOp where
  | w | s | c
  deriving DecidableEq, Repr

/-- The new value of an RW field (R149). -/
def CregOp.rw (o : CregOp) (old v : W64) : W64 :=
  match o with | .w => v | .s => old ||| v | .c => old &&& ~~~v
/-- The bits a write clears in a W1C field (R149). -/
def CregOp.w1c (o : CregOp) (v : W64) : W64 := match o with | .w => v | .s => 0 | .c => v

/-- A write of a control register (R149), field by field; none where the register takes no program write or refuses the value. -/
def Strand.cregWrite (t : Strand) (o : CregOp) (n : Nat) (v : W64) : Option Strand :=
  let c := t.seq.ctl
  match n with
  | 0x009 => some (t.mapCtl (fun c => { c with retired := o.rw c.retired v }))
  | 0x020 => some (t.mapTrap (fun r => { r with tvec := o.rw r.tvec v &&& ~~~2#64 }))
  | 0x021 => some (t.mapTrap (fun r => { r with tcause := o.rw r.tcause v &&& 0x7FFFF#64 }))
  | 0x022 => some (t.mapTrap (fun r => { r with tpc := o.rw r.tpc v &&& ~~~3#64 }))
  | 0x023 => some (t.mapTrap (fun r => { r with tval := o.rw r.tval v }))
  | 0x024 => some (t.mapTrap (fun r => { r with tsave := o.rw r.tsave v }))
  | 0x040 =>
    let x := o.rw (BitVec.ofNat 64 (b2n c.daz * 16 + b2n c.ftz * 8 + c.rm)) v
    let rm := (x &&& 7#64).toNat
    if 5 ≤ rm then none
    else
      let t := t.mapCtl (fun c => { c with daz := x.getLsbD 4, ftz := x.getLsbD 3, rm := rm })
      some (match o with
        | .w => t.mapSeq (fun q => { q with gens := (span 0 19).map (fun j => (j, genSeed (v.extractLsb' 32 32) j)) })
        | _ => t)
  | 0x041 => some (t.mapCtl (fun c => { c with fpstat := (o.rw (c.fpstat.setWidth 64) v).setWidth 10 }))
  | 0x050 => some (t.mapCtl (fun c => { c with isat := (o.rw (BitVec.ofNat 64 (b2n c.isat)) v).getLsbD 0 }))
  | 0x051 => some (t.mapCtl (fun c => { c with mxst := c.mxst &&& ~~~((o.w1c v).setWidth 15) }))
  | 0x070 =>
    let x := o.rw (BitVec.ofNat 64 (c.supcnt * 2 ^ 24 + b2n c.supp * 2 ^ 16)) v
    some (t.mapCtl (fun c => { c with supcnt := (x.extractLsb' 24 8).toNat, supp := x.getLsbD 16 }))
  | 0x080 => some (t.mapCtl (fun c => { c with notrap := (o.rw (BitVec.ofNat 64 (b2n c.notrap)) v).getLsbD 0 }))
  | 0x081 => some (if (o.w1c v).getLsbD 0 then t.mapCtl (fun c => { c with drop := false, dcnt := 0 }) else t)
  | _ => none

end Sys2Proof.Machine
end

