-- ==== Sys2Proof/Machine/Alu.lean ====
section
/-! DEFINITION. The integer register and immediate operations, branches and jumps (R161-R165, R172, R173). -/
namespace Sys2Proof.Machine

/-- An OPR operation of two sources (R162): no status, no trap; the result is poisoned when a source is (R147). -/
def oprTwo (f : W64 → W64 → W64) (gd ga gb : Reg) (s : State) : Host.Outcome State Fault Refusal :=
  s.onStrand fun sn t =>
    if t.busy [gd, ga, gb] then s
    else s.setStrand sn (t.done 4 gd (f (t.g ga) (t.g gb)) (t.anyPois [ga, gb]))

/-- An OPR operation of two sources whose result takes `lat` ck to be visible, by the value of A (R159). -/
def oprSlow (lat : W64 → Nat) (f : W64 → W64 → W64) (gd ga gb : Reg) (s : State) : Host.Outcome State Fault Refusal :=
  s.onStrand fun sn t =>
    if t.busy [gd, ga, gb] then s
    else s.setStrand sn (t.doneIn (lat (t.g ga)) 4 gd (f (t.g ga) (t.g gb)) (t.anyPois [ga, gb]))

/-- Latency of a division by its dividend's magnitude (R159). -/
def divLat (mag : Nat) : Nat := min 70 (6 + bitLen mag)

/-- An operation of one source and a constant (R162, R164, R165). -/
def oprOne (f : W64 → W64) (gd ga : Reg) (s : State) : Host.Outcome State Fault Refusal :=
  s.onStrand fun sn t =>
    if t.busy [gd, ga] then s
    else s.setStrand sn (t.done 4 gd (f (t.g ga)) (t.gp ga))

/-- 1 for true, 0 for false (R162). -/
def boolW (b : Bool) : W64 := if b then 1#64 else 0#64

/-- Floor(S(a) / 2^n) (R162 `sra`). -/
def sraW (a : W64) (n : Nat) : W64 := a.sshiftRight n
/-- a rotated right by n (R162 `rotr`). -/
def rotrW (a : W64) (n : Nat) : W64 := (a >>> n) ||| (a <<< ((64 - n) % 64))
/-- The shift amount B[5:0]. -/
def shAmt (b : W64) : Nat := b.toNat % 64

/-- Signed and unsigned division and remainder (R163). -/
def divW (a b : W64) : W64 :=
  if b = 0 then BitVec.allOnes 64
  else if a = BitVec.intMin 64 ∧ b = BitVec.allOnes 64 then BitVec.intMin 64
  else BitVec.ofInt 64 (Int.tdiv a.toInt b.toInt)
def remW (a b : W64) : W64 :=
  if b = 0 then a
  else if a = BitVec.intMin 64 ∧ b = BitVec.allOnes 64 then 0
  else BitVec.ofInt 64 (a.toInt - b.toInt * Int.tdiv a.toInt b.toInt)
def divnW (a b : W64) : W64 := if b = 0 then BitVec.allOnes 64 else BitVec.ofNat 64 (a.toNat / b.toNat)
def remnW (a b : W64) : W64 := if b = 0 then a else BitVec.ofNat 64 (a.toNat % b.toNat)

/-- `add` (R162): A + B. -/
def execAdd (gd ga gb : Reg) : State → Host.Outcome State Fault Refusal := oprTwo (fun a b => a + b) gd ga gb
/-- `sub` (R162): A - B. -/
def execSub (gd ga gb : Reg) : State → Host.Outcome State Fault Refusal := oprTwo (fun a b => a - b) gd ga gb
/-- `and` (R162): A and B. -/
def execAnd (gd ga gb : Reg) : State → Host.Outcome State Fault Refusal := oprTwo (fun a b => a &&& b) gd ga gb
/-- `or` (R162): A or B. -/
def execOr (gd ga gb : Reg) : State → Host.Outcome State Fault Refusal := oprTwo (fun a b => a ||| b) gd ga gb
/-- `xor` (R162): A xor B. -/
def execXor (gd ga gb : Reg) : State → Host.Outcome State Fault Refusal := oprTwo (fun a b => a ^^^ b) gd ga gb
/-- `andn` (R162): A and not B. -/
def execAndn (gd ga gb : Reg) : State → Host.Outcome State Fault Refusal := oprTwo (fun a b => a &&& ~~~b) gd ga gb
/-- `shl` (R162): A * 2^B[5:0]. -/
def execShl (gd ga gb : Reg) : State → Host.Outcome State Fault Refusal := oprTwo (fun a b => a <<< shAmt b) gd ga gb
/-- `shr` (R162): U(A) div 2^B[5:0]. -/
def execShr (gd ga gb : Reg) : State → Host.Outcome State Fault Refusal := oprTwo (fun a b => a >>> shAmt b) gd ga gb
/-- `sra` (R162): Floor(S(A) / 2^B[5:0]). -/
def execSra (gd ga gb : Reg) : State → Host.Outcome State Fault Refusal := oprTwo (fun a b => sraW a (shAmt b)) gd ga gb
/-- `rotr` (R162): A rotated right by B[5:0]. -/
def execRotr (gd ga gb : Reg) : State → Host.Outcome State Fault Refusal := oprTwo (fun a b => rotrW a (shAmt b)) gd ga gb
/-- `slt` (R162): S(A) < S(B). -/
def execSlt (gd ga gb : Reg) : State → Host.Outcome State Fault Refusal := oprTwo (fun a b => boolW (a.slt b)) gd ga gb
/-- `sltn` (R162): U(A) < U(B). -/
def execSltn (gd ga gb : Reg) : State → Host.Outcome State Fault Refusal := oprTwo (fun a b => boolW (a.ult b)) gd ga gb
/-- `min` (R162): the smaller of S(A), S(B). -/
def execMin (gd ga gb : Reg) : State → Host.Outcome State Fault Refusal := oprTwo (fun a b => if b.slt a then b else a) gd ga gb
/-- `max` (R162): the larger of S(A), S(B). -/
def execMax (gd ga gb : Reg) : State → Host.Outcome State Fault Refusal := oprTwo (fun a b => if a.slt b then b else a) gd ga gb
/-- `minn` (R162): the smaller of U(A), U(B). -/
def execMinn (gd ga gb : Reg) : State → Host.Outcome State Fault Refusal := oprTwo (fun a b => if b.ult a then b else a) gd ga gb
/-- `maxn` (R162): the larger of U(A), U(B). -/
def execMaxn (gd ga gb : Reg) : State → Host.Outcome State Fault Refusal := oprTwo (fun a b => if a.ult b then b else a) gd ga gb
/-- `mul` (R162): A * B, low 64 bits. -/
def execMul (gd ga gb : Reg) : State → Host.Outcome State Fault Refusal := oprSlow (fun _ => 3) (fun a b => a * b) gd ga gb
/-- `mulh` (R162): bits [127:64] of S(A) * S(B). -/
def execMulh (gd ga gb : Reg) : State → Host.Outcome State Fault Refusal := oprSlow (fun _ => 4) (fun a b => BitVec.ofInt 64 (a.toInt * b.toInt / 2 ^ 64)) gd ga gb
/-- `mulhn` (R162): bits [127:64] of U(A) * U(B). -/
def execMulhn (gd ga gb : Reg) : State → Host.Outcome State Fault Refusal := oprSlow (fun _ => 4) (fun a b => BitVec.ofNat 64 (a.toNat * b.toNat / 2 ^ 64)) gd ga gb
/-- `div` (R162): R163. -/
def execDiv (gd ga gb : Reg) : State → Host.Outcome State Fault Refusal := oprSlow (fun a => divLat a.toInt.natAbs) (fun a b => divW a b) gd ga gb
/-- `divn` (R162): R163. -/
def execDivn (gd ga gb : Reg) : State → Host.Outcome State Fault Refusal := oprSlow (fun a => divLat a.toNat) (fun a b => divnW a b) gd ga gb
/-- `rem` (R162): R163. -/
def execRem (gd ga gb : Reg) : State → Host.Outcome State Fault Refusal := oprSlow (fun a => divLat a.toInt.natAbs) (fun a b => remW a b) gd ga gb
/-- `remn` (R162): R163. -/
def execRemn (gd ga gb : Reg) : State → Host.Outcome State Fault Refusal := oprSlow (fun a => divLat a.toNat) (fun a b => remnW a b) gd ga gb
/-- `clz` (R162): number of leading zero bits. -/
def execClz (gd ga : Reg) : State → Host.Outcome State Fault Refusal := oprOne (fun a => BitVec.ofNat 64 (64 - bitLen a.toNat)) gd ga
/-- `ctz` (R162): number of trailing zero bits. -/
def execCtz (gd ga : Reg) : State → Host.Outcome State Fault Refusal := oprOne (fun a => BitVec.ofNat 64 (ctzN 64 a.toNat)) gd ga
/-- `popc` (R162): number of 1 bits. -/
def execPopc (gd ga : Reg) : State → Host.Outcome State Fault Refusal := oprOne (fun a => BitVec.ofNat 64 (popN 64 a.toNat)) gd ga
/-- `sxb` (R162): Sext(A[7:0]). -/
def execSxb (gd ga : Reg) : State → Host.Outcome State Fault Refusal := oprOne (fun a => sext (a.setWidth 8)) gd ga
/-- `sxh` (R162): Sext(A[15:0]). -/
def execSxh (gd ga : Reg) : State → Host.Outcome State Fault Refusal := oprOne (fun a => sext (a.setWidth 16)) gd ga
/-- `sxw` (R162): Sext(A[31:0]). -/
def execSxw (gd ga : Reg) : State → Host.Outcome State Fault Refusal := oprOne (fun a => sext (a.setWidth 32)) gd ga
/-- `zxw` (R162): Zext(A[31:0]). -/
def execZxw (gd ga : Reg) : State → Host.Outcome State Fault Refusal := oprOne (fun a => zext (a.setWidth 32)) gd ga
/-- `addi` (R164): A + Sext(imm16). -/
def execAddi (gd ga : Reg) (imm : BitVec 16) : State → Host.Outcome State Fault Refusal := oprOne (fun a => a + sext imm) gd ga
/-- `andi` (R164): A and Zext(imm16). -/
def execAndi (gd ga : Reg) (imm : BitVec 16) : State → Host.Outcome State Fault Refusal := oprOne (fun a => a &&& zext imm) gd ga
/-- `ori` (R164): A or Zext(imm16). -/
def execOri (gd ga : Reg) (imm : BitVec 16) : State → Host.Outcome State Fault Refusal := oprOne (fun a => a ||| zext imm) gd ga
/-- `xori` (R164): A xor Zext(imm16). -/
def execXori (gd ga : Reg) (imm : BitVec 16) : State → Host.Outcome State Fault Refusal := oprOne (fun a => a ^^^ zext imm) gd ga
/-- `slti` (R164): 1 if S(A) < Sext(imm16), else 0. -/
def execSlti (gd ga : Reg) (imm : BitVec 16) : State → Host.Outcome State Fault Refusal := oprOne (fun a => boolW (a.slt (sext imm))) gd ga
/-- `sltni` (R164): 1 if U(A) < U(Sext(imm16)), else 0. -/
def execSltni (gd ga : Reg) (imm : BitVec 16) : State → Host.Outcome State Fault Refusal := oprOne (fun a => boolW (a.ult (sext imm))) gd ga
/-- `muli` (R164): S(A) * Sext(imm16), low 64 bits. -/
def execMuli (gd ga : Reg) (imm : BitVec 16) (s : State) : Host.Outcome State Fault Refusal :=
  s.onStrand fun sn t => if t.busy [gd, ga] then s else s.setStrand sn (t.doneIn 3 4 gd (t.g ga * sext imm) (t.gp ga))
/-- `shi.l` (R165): as `shl` by SH. -/
def execShiL (gd ga : Reg) (sh : BitVec 6) : State → Host.Outcome State Fault Refusal := oprOne (fun a => a <<< sh.toNat) gd ga
/-- `shi.r` (R165): as `shr` by SH. -/
def execShiR (gd ga : Reg) (sh : BitVec 6) : State → Host.Outcome State Fault Refusal := oprOne (fun a => a >>> sh.toNat) gd ga
/-- `shi.a` (R165): as `sra` by SH. -/
def execShiA (gd ga : Reg) (sh : BitVec 6) : State → Host.Outcome State Fault Refusal := oprOne (fun a => sraW a sh.toNat) gd ga
/-- `shi.o` (R165): as `rotr` by SH. -/
def execShiO (gd ga : Reg) (sh : BitVec 6) : State → Host.Outcome State Fault Refusal := oprOne (fun a => rotrW a sh.toNat) gd ga

/-- `lui` (R164): Sext(imm16) * 2^16. -/
def execLui (gd : Reg) (imm : BitVec 16) (s : State) : Host.Outcome State Fault Refusal :=
  s.onStrand fun sn t => if t.busy [gd] then s else s.setStrand sn (t.done 4 gd (sext imm <<< 16) false)
/-- `addpc` (R164): the instruction's address + Sext(imm16) * 2^16. -/
def execAddpc (gd : Reg) (imm : BitVec 16) (s : State) : Host.Outcome State Fault Refusal :=
  s.onStrand fun sn t => if t.busy [gd] then s else s.setStrand sn (t.done 4 gd (t.seq.pc + (sext imm <<< 16)) false)

/-- Retire with PC at a target (R172, R173). -/
def Strand.jump (t : Strand) (target : W64) : Strand := (t.retire 0).mapSeq (fun q => { q with pc := target })

/-- A branch (R172): a poisoned operand raises POISON whether or not it would be taken. -/
def branch (taken : W64 → W64 → Bool) (ga gb : Reg) (imm : BitVec 16) (s : State) : Host.Outcome State Fault Refusal :=
  s.onStrand fun sn t =>
    if t.busy [ga, gb] then s
    else match t.firstPois [ga, gb] with
      | some r => s.poisonTrap sn r
      | none => s.setStrand sn (t.jump (if taken (t.g ga) (t.g gb) then t.seq.pc + (sext imm <<< 2) else t.seq.pc + 4#64))
/-- `beq` (R172): taken when A = B. -/
def execBeq (ga gb : Reg) (imm : BitVec 16) : State → Host.Outcome State Fault Refusal := branch (fun a b => a == b) ga gb imm
/-- `bne` (R172): taken when A /= B. -/
def execBne (ga gb : Reg) (imm : BitVec 16) : State → Host.Outcome State Fault Refusal := branch (fun a b => a != b) ga gb imm
/-- `blt` (R172): taken when S(A) < S(B). -/
def execBlt (ga gb : Reg) (imm : BitVec 16) : State → Host.Outcome State Fault Refusal := branch (fun a b => a.slt b) ga gb imm
/-- `bge` (R172): taken when S(A) ≥ S(B). -/
def execBge (ga gb : Reg) (imm : BitVec 16) : State → Host.Outcome State Fault Refusal := branch (fun a b => !(a.slt b)) ga gb imm
/-- `bltn` (R172): taken when U(A) < U(B). -/
def execBltn (ga gb : Reg) (imm : BitVec 16) : State → Host.Outcome State Fault Refusal := branch (fun a b => a.ult b) ga gb imm
/-- `bgen` (R172): taken when U(A) ≥ U(B). -/
def execBgen (ga gb : Reg) (imm : BitVec 16) : State → Host.Outcome State Fault Refusal := branch (fun a b => !(a.ult b)) ga gb imm

/-- `jal` (R173). -/
def execJal (gd : Reg) (imm : BitVec 21) (s : State) : Host.Outcome State Fault Refusal :=
  s.onStrand fun sn t =>
    if t.busy [gd] then s
    else s.setStrand sn ((t.setG gd (t.seq.pc + 4#64) false).jump (t.seq.pc + (sext imm <<< 2)))
/-- `jalr` (R173): ga is read before gd is written; a target that is not a multiple of 4 raises ALIGN. -/
def execJalr (gd ga : Reg) (imm : BitVec 16) (s : State) : Host.Outcome State Fault Refusal :=
  s.onStrand fun sn t =>
    if t.busy [gd, ga] then s
    else if t.gp ga then s.poisonTrap sn ga
    else
      let target := t.g ga + sext imm
      if target &&& 3#64 = 0#64 then s.setStrand sn ((t.setG gd (t.seq.pc + 4#64) false).jump target)
      else s.trap sn 0x04 0 0 target.toNat

end Sys2Proof.Machine
end

