-- ==== Sys2Proof/Machine/Cw.lean ====
section
/-! DEFINITION. Control words (R86-R91, R231): their fields, their checks, their latencies (R209), and what each function computes from
its operands (R208-R222). -/
namespace Sys2Proof.Machine

/-- The fields of a control word (R86). -/
structure Cw where
  fn : Nat
  stg : Nat
  hld : Bool
  ty : Nat
  d : Nat
  a : Nat
  b : Nat
  ma : Nat
  mb : Nat
  x : Nat
  deriving DecidableEq, Repr

def Cw.of (w : Nat) : Cw :=
  ⟨bitsOf w 34 6, bitsOf w 31 3, bitOf w 30, bitsOf w 28 2, bitsOf w 22 6, bitsOf w 16 6, bitsOf w 10 6, bitsOf w 7 3, bitsOf w 4 3, bitsOf w 0 4⟩

/-- Class of a function (R90). -/
inductive CwClass where
  | untyped | integer | floating | fixed
  deriving DecidableEq, Repr

/-- How a function uses its fields (R90): D not used, a destination, or fixed at 62; whether A and B are read; X not used, a register or an
immediate; its class; its latency (R209). -/
structure CwRow where
  d : Nat
  a : Bool
  b : Bool
  x : Nat
  cls : CwClass
  lat : Nat
  deriving DecidableEq, Repr

/-- The function table (R90, R209); none for the reserved values. -/
def cwRow (fn : Nat) : Option CwRow :=
  match fn with
  | 0x00 => some ⟨0, false, false, 0, .untyped, 1⟩
  | 0x05 => some ⟨1, true, true, 0, .integer, 3⟩
  | 0x06 => some ⟨1, true, true, 0, .integer, 3⟩
  | 0x07 => some ⟨1, true, true, 1, .integer, 3⟩
  | 0x08 => some ⟨1, true, true, 0, .untyped, 1⟩
  | 0x09 => some ⟨1, true, true, 0, .untyped, 1⟩
  | 0x0A => some ⟨1, true, true, 0, .untyped, 1⟩
  | 0x0B => some ⟨1, true, true, 0, .untyped, 1⟩
  | 0x13 => some ⟨1, true, false, 0, .integer, 1⟩
  | 0x17 => some ⟨1, true, true, 0, .floating, 4⟩
  | 0x18 => some ⟨1, true, true, 0, .floating, 4⟩
  | 0x19 => some ⟨1, true, true, 1, .untyped, 1⟩
  | 0x1A => some ⟨1, true, false, 0, .untyped, 1⟩
  | 0x1B => some ⟨1, true, true, 0, .untyped, 1⟩
  | 0x1C => some ⟨1, true, true, 0, .floating, 4⟩
  | 0x1D => some ⟨1, true, true, 0, .floating, 4⟩
  | 0x1E => some ⟨1, true, true, 0, .floating, 4⟩
  | 0x1F => some ⟨1, true, true, 1, .floating, 5⟩
  | 0x20 => some ⟨1, true, true, 1, .floating, 5⟩
  | 0x21 => some ⟨1, true, true, 0, .floating, 4⟩
  | 0x22 => some ⟨1, true, true, 0, .floating, 4⟩
  | 0x23 => some ⟨1, true, false, 0, .floating, 4⟩
  | 0x24 => some ⟨1, true, false, 0, .floating, 12⟩
  | 0x25 => some ⟨1, true, false, 0, .floating, 14⟩
  | 0x26 => some ⟨1, true, false, 0, .floating, 18⟩
  | 0x27 => some ⟨1, true, true, 0, .floating, 16⟩
  | 0x28 => some ⟨1, true, false, 2, .floating, 3⟩
  | 0x29 => some ⟨1, true, false, 2, .floating, 3⟩
  | 0x2A => some ⟨1, true, false, 2, .floating, 3⟩
  | 0x2B => some ⟨1, true, true, 2, .fixed, 3⟩
  | 0x2C => some ⟨1, true, true, 2, .fixed, 3⟩
  | 0x2D => some ⟨1, true, true, 2, .fixed, 2⟩
  | 0x2E => some ⟨1, true, false, 2, .fixed, 2⟩
  | 0x2F => some ⟨1, true, true, 2, .fixed, 2⟩
  | 0x30 => some ⟨1, true, true, 1, .fixed, 3⟩
  | 0x31 => some ⟨1, true, true, 1, .fixed, 3⟩
  | 0x32 => some ⟨1, true, true, 1, .fixed, 3⟩
  | 0x33 => some ⟨1, true, true, 1, .floating, 5⟩
  | 0x34 => some ⟨1, true, false, 0, .untyped, 1⟩
  | 0x35 => some ⟨2, true, true, 2, .fixed, 1⟩
  | 0x36 => some ⟨2, true, true, 2, .fixed, 1⟩
  | 0x37 => some ⟨1, false, false, 2, .fixed, 1⟩
  | 0x38 => some ⟨1, false, true, 2, .fixed, 1⟩
  | 0x39 => some ⟨2, false, false, 2, .fixed, 1⟩
  | 0x3A => some ⟨1, true, true, 0, .untyped, 1⟩
  | 0x3B => some ⟨2, true, false, 0, .untyped, 1⟩
  | 0x3C => some ⟨1, false, false, 2, .fixed, 1⟩
  | 0x3D => some ⟨1, false, false, 2, .fixed, 1⟩
  | _ => if fn < 0x17 then some ⟨1, true, true, 0, .integer, 1⟩ else none

/-- The row of a function, or that of `nop`. -/
def Cw.row (w : Cw) : CwRow := (cwRow w.fn).getD ⟨0, false, false, 0, .untyped, 1⟩

/-- Codes that are no destination (R87). -/
def cwDestBad (d : Nat) : Bool := (decide (48 ≤ d) && decide (d ≤ 59)) || decide (d = 61) || decide (d = 63)

/-- Whether a word acts on a ring descriptor by its X (R227). -/
def Cw.ringOp (w : Cw) : Bool := decide (0x37 ≤ w.fn) && decide (w.fn ≤ 0x39)

/-- Whether a word reads a holdable source (R91 condition 7, R195). -/
def Cw.holdable (w : Cw) : Bool :=
  (w.row.a && decide (w.a = 60)) || (w.row.b && decide (w.b = 60)) || decide (w.fn = 0x37) || decide (w.fn = 0x38) || decide (w.fn = 0x3C)

/-- The conditions of R231. -/
def Cw.ownBad (w : Cw) (nrg tkn : Nat) (row : List Cw) : Bool :=
  (decide (2 ≤ w.row.lat) && decide (w.d = 60)) ||
  (decide (w.row.cls = .fixed) && (decide (w.ma = 7) || decide (w.mb = 7))) ||
  (match w.fn with
   | 0x28 => decide (2 ≤ w.x)
   | 0x29 => decide (4 ≤ w.x)
   | 0x2A => decide (w.x % 4 = 3) || decide (w.x % 4 = w.ty) || (bitOf w.x 2 && !(decide (w.ty ≠ 0) && decide (w.x % 4 = 0))) || bitOf w.x 3
   | 0x2D => decide (6 ≤ w.x)
   | 0x2F => decide (10 ≤ w.x)
   | 0x35 => decide (12 ≤ w.x) || decide (2 ≤ w.x % 4)
   | 0x36 => decide (12 ≤ w.x) || decide (2 ≤ w.x % 4)
   | 0x37 => decide (nrg ≤ w.x)
   | 0x38 => decide (nrg ≤ w.x)
   | 0x39 => decide (nrg ≤ w.x) || decide (1 < row.countP (fun v => v.ringOp && decide (v.x = w.x)))
   | 0x3C => decide (tkn ≤ w.x)
   | 0x3D => decide (5 ≤ w.x)
   | _ => false)

/-- Whether a word, in its 8-byte form, fails the checks of `ctxld` (R91); `row` holds the words of its row on all PEs. -/
def cwBad (nrg tkn w : Nat) (row : List Cw) : Bool :=
  let c := Cw.of w
  let r := c.row
  decide (2 ^ 40 ≤ w) || (cwRow c.fn).isNone ||
  (match r.d with | 0 => decide (c.d ≠ 0) | 1 => cwDestBad c.d | _ => decide (c.d ≠ 62)) ||
  (match r.cls with
   | .floating => decide (c.ty = 3) || (decide (c.fn = 0x33) && decide (c.ty = 0))
   | .integer => false
   | _ => decide (c.ty ≠ 0)) ||
  (!r.a && (decide (c.a ≠ 0) || decide (c.ma ≠ 0))) || (!r.b && (decide (c.b ≠ 0) || decide (c.mb ≠ 0))) ||
  (decide (r.x = 0) && decide (c.x ≠ 0)) || (decide (c.a = 60) && decide (c.b = 60)) || (c.hld && !c.holdable) || c.ownBad nrg tkn row

/-- The index of the first failing word of a load, counted PE-major (R91). -/
def firstBad (nrg tkn ii : Nat) (words : List Nat) : Option Nat :=
  (span 0 words.length).find? (fun k =>
    cwBad nrg tkn (words.getD k 0) ((span 0 16).map (fun p => Cw.of (words.getD (ii * p + k % ii) 0))))

/-! ### Element types and modifiers (R47, R88, R89) -/

/-- Width of an integer element (R88). -/
def intW (ty : Nat) : Nat := match ty with | 0 => 32 | 1 => 16 | 2 => 8 | _ => 4
/-- Format of a floating element (R88). -/
def fltF (ty : Nat) : FFmt := match ty with | 0 => .f32 | 1 => .bf16 | _ => .f16
/-- Number of elements of a floating type. -/
def fltN (ty : Nat) : Nat := if ty = 0 then 1 else 2

/-- Elements of a word. -/
def elems (w n x : Nat) : List Nat := (span 0 n).map (elemOf w x)

/-- A modifier on 32 raw bits, or on each element for `.neg` (R89). DESIGN CHOICE (log entry 46): the class of the function decides, so that
`.neg` on the integer source of `cvtif`, a floating function, inverts the top bit of each element of its TY. -/
def cwModify (w : Cw) (mod v : Nat) : Nat :=
  match mod with
  | 0 => v
  | 1 => v % 65536 * 65537
  | 2 => v / 65536 * 65537
  | 3 => v % 65536 * 65536 + v / 65536
  | 4 => v % 256 * 0x1010101
  | 5 => packElems 8 (elems 8 4 v).reverse
  | 6 => packElems 4 [elemOf 4 v 1, elemOf 4 v 0, elemOf 4 v 3, elemOf 4 v 2, elemOf 4 v 5, elemOf 4 v 4, elemOf 4 v 7, elemOf 4 v 6]
  | _ =>
    match w.row.cls with
    | .floating => Nat.xor v (if w.ty = 0 then 0x80000000 else 0x80008000)
    | .integer => packElems (intW w.ty) ((elems (intW w.ty) (32 / intW w.ty) v).map (fun e => 2 ^ intW w.ty - e % 2 ^ intW w.ty))
    | _ => (2 ^ 32 - v % 2 ^ 32) % 2 ^ 32

/-! ### What the functions compute -/

/-- A computed value with its flags and the state of the PE's generator stream. -/
structure CRes where
  v : Nat
  fl : Fl
  rng : W32
  deriving DecidableEq, Repr

/-- The floating environment a loop took at start (R191 FPC). -/
structure Fpc where
  rm : Nat
  ftz : Bool
  daz : Bool
  deriving DecidableEq, Repr

/-- One integer element (R213, R214): its result and whether it clamped. -/
def cwIntElem (fn w a b x : Nat) : Nat × Bool :=
  let s := sgn w
  let sh := b % w
  let mask := fun (c : Bool) => if c then 2 ^ w - 1 else 0
  let clamp := fun (i : Int) => let (r, c) := clampI (-(2 ^ (w - 1) : Nat)) ((2 ^ (w - 1) : Nat) - 1) i; (wrapTo w r, c)
  match fn with
  | 0x01 => ((a + b) % 2 ^ w, false)
  | 0x02 => (wrapTo w ((a : Int) - b), false)
  | 0x03 => clamp (s a + s b)
  | 0x04 => clamp (s a - s b)
  | 0x05 => (a * b % 2 ^ w, false)
  | 0x06 => (wrapTo w ((s a * s b) / (2 ^ w : Nat)), false)
  | 0x07 => ((a * b + x) % 2 ^ w, false)
  | 0x0C => (a * 2 ^ sh % 2 ^ w, false)
  | 0x0D => (a / 2 ^ sh, false)
  | 0x0E => (wrapTo w (s a / (2 ^ sh : Nat)), false)
  | 0x0F => (if s b < s a then b else a, false)
  | 0x10 => (if s a < s b then b else a, false)
  | 0x11 => (min a b, false)
  | 0x12 => (max a b, false)
  | 0x13 => ((s a).natAbs % 2 ^ w, false)
  | 0x14 => (mask (decide (a = b)), false)
  | 0x15 => (mask (decide (s a < s b)), false)
  | _ => (mask (decide (a < b)), false)

/-- Element by element on integers. -/
def cwInt (fn w a b x : Nat) : Nat × Bool :=
  let r := (span 0 (32 / w)).map (fun e => cwIntElem fn w (elemOf w a e) (elemOf w b e) (elemOf w x e))
  (packElems w (r.map (·.1)), r.any (·.2))

/-- Advance a stream that drew. -/
def drewOn (rng : W32) (drew : Bool) : W32 := if drew then genNext rng else rng

/-- Elements in increasing index, each with the stream's next number (R211). -/
def fltElems (w : Nat) (f : Nat → Nat → FRes) (rng : W32) (es : List Nat) : CRes :=
  let r := es.foldl (fun (acc : List Nat × Fl × W32) e =>
    let o := f e (genNext acc.2.2).toNat
    (acc.1 ++ [o.bits], acc.2.1 ||| o.fl, drewOn acc.2.2 o.drew)) ([], 0, rng)
  ⟨packElems w r.1, r.2.1, r.2.2⟩

/-- FTZ on a result that is not rounded (R215): a tiny one becomes zero of its sign, with UF, and NX since the value differs (R57). -/
def FFmt.flushed (f : FFmt) (ftz : Bool) (r : FRes) : FRes :=
  if ftz && f.flushable && f.isSub r.bits then ⟨f.dazCode true r.bits, r.fl ||| flUF ||| flNX, r.drew⟩ else r

/-- One floating element (R214, R215). -/
def cwFltElem (fn : Nat) (f : FFmt) (c : Fpc) (a b x rnd : Nat) : FRes :=
  let ar := fun op => fpArith op f c.rm c.daz c.ftz a b x rnd
  let cmp := fun k => let (t, fl) := fpCompare k f c.daz a b; (⟨if t then 2 ^ f.width - 1 else 0, fl, false⟩ : FRes)
  match fn with
  | 0x17 => cmp .eq
  | 0x18 => cmp .lt
  | 0x1C => ar .add
  | 0x1D => ar .sub
  | 0x1E => ar .mul
  | 0x1F => ar .fma
  | 0x20 => ar .fnma
  | 0x21 => f.flushed c.ftz (fpMinMax false f c.daz a b)
  | 0x22 => f.flushed c.ftz (fpMinMax true f c.daz a b)
  | 0x23 => f.flushed c.ftz (fpSign true f c.daz a)
  | 0x24 => ar .rcp
  | 0x25 => ar .rsq
  | 0x26 => ar .sqrt
  | _ => ar .div

/-- `cvtff` (R216). -/
def cwCvtff (c : Fpc) (ty x : Nat) (rng : W32) (a : Nat) : CRes :=
  let d := fltF (x % 4)
  if ty = 0 then fltElems 16 (fun e rnd => fpConvert .f32 d c.daz c.rm c.ftz e rnd) rng [a]
  else if x % 4 = 0 then
    fltElems 32 (fun e _ => fpConvert (fltF ty) .f32 c.daz c.rm false e 0) rng [elemOf 16 a (b2n (bitOf x 2))]
  else fltElems 16 (fun e rnd => fpConvert (fltF ty) d c.daz c.rm c.ftz e rnd) rng (elems 16 2 a)

/-- Integer clamps of `pack` (R218). -/
def packClamp (w : Nat) (lo hi : Int) (es : List Int) : Nat × Bool :=
  let r := es.map (clampI lo hi)
  (packElems w (r.map (fun e => wrapTo w e.1)), r.any (·.2))

/-- `pack` (R218). -/
def cwPack (c : Fpc) (x : Nat) (rng : W32) (a b : Nat) : CRes :=
  let int := fun (r : Nat × Bool) => (⟨r.1, flIf r.2 flSAT, rng⟩ : CRes)
  match x with
  | 0 => fltElems 16 (fun e rnd => fpConvert .f32 .bf16 c.daz c.rm c.ftz e rnd) rng [a, b]
  | 1 => fltElems 16 (fun e rnd => fpConvert .f32 .f16 c.daz c.rm c.ftz e rnd) rng [a, b]
  | 2 => int (packClamp 16 (-32768) 32767 ([a, b].map (sgn 32)))
  | 3 => int (packClamp 8 (-128) 127 ((elems 16 2 a ++ elems 16 2 b).map (sgn 16)))
  | 4 => int (packClamp 4 (-8) 7 ((elems 8 4 a ++ elems 8 4 b).map (sgn 8)))
  | _ => int (packClamp 16 0 65535 ([a, b].map (sgn 32)))

/-- `unpk` (R219): widening is exact after DAZ. -/
def cwUnpk (c : Fpc) (x : Nat) (rng : W32) (a : Nat) : CRes :=
  let flt := fun (f : FFmt) (e : Nat) => let r := fpConvert f .f32 c.daz 0 false e 0; (⟨r.bits, r.fl, rng⟩ : CRes)
  if x < 2 then flt .bf16 (elemOf 16 a x)
  else if x < 4 then flt .f16 (elemOf 16 a (x - 2))
  else if x < 6 then ⟨wrapTo 32 (sgn 16 (elemOf 16 a (x - 4))), 0, rng⟩
  else if x < 8 then ⟨elemOf 16 a (x - 6), 0, rng⟩
  else if x < 12 then flt .e4m3 (elemOf 8 a (x - 8))
  else flt .e5m2 (elemOf 8 a (x - 12))

/-- `shuf` (R220). -/
def cwShuf (x a b : Nat) : Nat :=
  let A := elemOf 8 a
  let B := elemOf 8 b
  let p := packElems 8
  match x with
  | 4 => p [A 0, B 0, A 1, B 1]
  | 5 => p [A 2, B 2, A 3, B 3]
  | 6 => p [A 0, A 1, B 0, B 1]
  | 7 => p [A 2, A 3, B 2, B 3]
  | 8 => p [A 0, A 2, B 0, B 2]
  | 9 => p [A 1, A 3, B 1, B 3]
  | _ => (b * 2 ^ 32 + a) / 2 ^ (8 * x) % 2 ^ 32

/-- The integer dot products (R221). -/
def cwDot (fn a b x : Nat) : Nat :=
  let prods := fun (w n : Nat) (rd : Nat → Int) => ((span 0 n).map (fun e => rd (elemOf w a e) * rd (elemOf w b e))).sum
  match fn with
  | 0x30 => wrapTo 32 (sgn 32 x + prods 8 4 (sgn 8))
  | 0x31 => wrapTo 32 ((x : Int) + prods 8 4 (fun e => e))
  | _ => wrapTo 32 (sgn 32 x + prods 4 8 (sgn 4))

/-- The exact sum of two values that are not NaN, as a value; none for inf - inf. -/
def valAdd (rm : Nat) (x y : FVal) : Option FVal :=
  match (xAdd rm x y).1 with
  | .nan => none
  | .inf s => some (.inf s)
  | .ex e => some (.fin e.neg e.m e.e)

/-- `fdot2` (R221): one rounding; an exact zero sum is -0 only when the addend and both products are -0. -/
def cwFdot2 (f : FFmt) (c : Fpc) (a b x rnd : Nat) : FRes :=
  let v := fun e => f.read c.daz e
  let a0 := v (elemOf 16 a 0); let a1 := v (elemOf 16 a 1); let b0 := v (elemOf 16 b 0); let b1 := v (elemOf 16 b 1)
  let z := FFmt.f32.read c.daz x
  let ins := [a0, a1, b0, b1, z]
  let prod := fun (p q : FVal) => if p.isNaN || q.isNaN then some (.nan false) else xMul p q
  match prod a0 b0, prod a1 b1 with
  | some p0, some p1 =>
    let ts := [z, p0, p1]
    let clash := ts.any (fun t => t.isInf && t.neg) && ts.any (fun t => t.isInf && !t.neg)
    if ins.any FVal.isNaN || clash then ⟨FFmt.f32.canonNaN, flIf (clash || ins.any FVal.isSig) flNV, false⟩
    else
      match (valAdd 0 p0 p1).bind (fun s => valAdd 0 z s) with
      | none => ⟨FFmt.f32.canonNaN, flNV, false⟩
      | some (.fin s m e) =>
        let neg := if m = 0 then z.neg && p0.neg && p1.neg else s
        FFmt.f32.finish c.rm c.ftz (.ex ⟨neg, m, e, false⟩) rnd
      | some w => FFmt.f32.finish c.rm c.ftz w.toX rnd
  | _, _ => ⟨FFmt.f32.canonNaN, flNV, false⟩

/-- The value of a function that reads only its operands, validity aside (R213-R222). -/
def cwValue (w : Cw) (c : Fpc) (rng : W32) (a b x : Nat) : CRes :=
  let plain := fun v => (⟨v % 2 ^ 32, 0, rng⟩ : CRes)
  match w.fn with
  | 0x08 => plain (Nat.land a b)
  | 0x09 => plain (Nat.lor a b)
  | 0x0A => plain (Nat.xor a b)
  | 0x0B => plain (Nat.land a (2 ^ 32 - 1 - b))
  | 0x28 => fltElems (fltF w.ty).width (fun e rnd =>
      fpOfInt (fltF w.ty) c.rm c.ftz (if bitOf w.x 0 then (e : Int) else sgn (fltF w.ty).width e) rnd) rng (elems (fltF w.ty).width (fltN w.ty) a)
  | 0x29 => fltElems (fltF w.ty).width (fun e rnd =>
      fpToInt (fltF w.ty) c.daz (if bitOf w.x 1 then 1 else c.rm) (fltF w.ty).width (!bitOf w.x 0) e rnd) rng (elems (fltF w.ty).width (fltN w.ty) a)
  | 0x2A => cwCvtff c w.ty w.x rng a
  | 0x2D => cwPack c w.x rng a b
  | 0x2E => cwUnpk c w.x rng a
  | 0x2F => plain (cwShuf w.x a b)
  | 0x30 => plain (cwDot 0x30 a b x)
  | 0x31 => plain (cwDot 0x31 a b x)
  | 0x32 => plain (cwDot 0x32 a b x)
  | 0x33 =>
    let r := cwFdot2 (fltF w.ty) c a b x (genNext rng).toNat
    ⟨r.bits, r.fl, drewOn rng r.drew⟩
  | 0x34 => plain a
  | _ =>
    match w.row.cls with
    | .integer => let (v, s) := cwInt w.fn (intW w.ty) a b x; ⟨v, flIf s flSAT, rng⟩
    | _ =>
      let f := fltF w.ty
      let r := (span 0 (fltN w.ty)).foldl (fun (acc : List Nat × Fl × W32) e =>
        let o := cwFltElem w.fn f c (elemOf f.width a e) (elemOf f.width b e) (elemOf f.width x e) (genNext acc.2.2).toNat
        (acc.1 ++ [o.bits], acc.2.1 ||| o.fl, drewOn acc.2.2 o.drew)) ([], 0, rng)
      ⟨packElems f.width r.1, r.2.1, r.2.2⟩

/-- The validity-aware functions that write a result (R214). -/
def cwAware (fn : Nat) (a b x : AV) : AV :=
  match fn with
  | 0x1A => ⟨if a.valid then 0xFFFFFFFF#32 else 0, true, a.p⟩
  | 0x1B => if b.valid ∧ b.v ≠ 0 then ⟨a.v, a.valid, a.p || b.p⟩ else ⟨0, false, a.p || b.p⟩
  | 0x3A => if a.valid then a else ⟨b.v, b.valid, a.p || b.p⟩
  | _ =>
    if !x.valid then ⟨0, false, x.p⟩
    else
      let m := x.v
      let valid := if m = 0xFFFFFFFF#32 then a.valid else if m = 0 then b.valid else a.valid && b.valid
      ⟨if valid then (a.v &&& m) ||| (b.v &&& ~~~m) else 0, valid, x.p || (a.p && decide (m ≠ 0)) || (b.p && decide (m ≠ 0xFFFFFFFF#32))⟩

end Sys2Proof.Machine
end

