-- ==== Sys2Proof/Machine/LdSt.lean ====
section
/-! DEFINITION. Loads and stores (R166-R171), instruction fetch (R168), and the steps that perform and answer them:
LOAD_REPLY, STORE_PERFORM, ACK_RETURN, RACE_CHECK_REPLY, FETCH_FAULT (R110, R125, R160, R416). -/
namespace Sys2Proof.Machine

/-- Drop an access from the load table. -/
def Strand.dropAcc (t : Strand) (id : Nat) : Strand :=
  t.mapSeq (fun q => { q with loads := q.loads.filter (fun a => decide (a.id ≠ id)) })
/-- Drop a store from the store buffer. -/
def Strand.dropStore (t : Strand) (id : Nat) : Strand :=
  t.mapSeq (fun q => { q with stores := q.stores.filter (fun a => decide (a.id ≠ id)) })
/-- Change an access of the load table. -/
def Strand.modAcc (t : Strand) (id : Nat) (f : Acc → Acc) : Strand :=
  t.mapSeq (fun q => { q with loads := q.loads.map (fun a => if a.id = id then f a else a) })
/-- Change a store of the buffer. -/
def Strand.modStore (t : Strand) (id : Nat) (f : Store → Store) : Strand :=
  t.mapSeq (fun q => { q with stores := q.stores.map (fun a => if a.id = id then f a else a) })

/-- A load of `n` bytes (R166, R170): it enters the load table and retires, or, on an RC page, waits for its check (R416). -/
def loadOp (n : Nat) (signed : Bool) (gd ga : Reg) (imm : BitVec 16) (s : State) : Host.Outcome State Fault Refusal :=
  s.onStrand fun sn t =>
    if t.busy [gd, ga] then s
    else if t.gp ga then s.poisonTrap sn ga
    else if t.loadFull then s
    else
      let va := (t.g ga + sext imm).toNat
      match s.mem.access (coreOfSn sn) t va n .r [] with
      | (.trap c d v, m) => (s.setMem m).trap sn c 0 d v
      | (.park v k e l, m) => (s.setMem m).park sn 0 v k e l false false
      | (.wait, _) => s
      | (.ok ps, m) =>
        if ps.any (·.sco) && t.scoBusy then s
        else
          let rc := ps.any (·.rc)
          let a : Acc := ⟨t.seq.nextId, t.seq.seq, gd.toNat, va, .load n signed, ps, rc, false⟩
          let t := (t.nextAcc.nextSeq).mapSeq (fun q => { q with loads := q.loads ++ [a] })
          (s.setMem m).setStrand sn (if rc then t.setWait (.check a.id) else (t.setPend gd).retire 4)

/-- `ldb` (R166). -/
def execLdb (gd ga : Reg) (imm : BitVec 16) : State → Host.Outcome State Fault Refusal := loadOp 1 true gd ga imm
/-- `ldh` (R166). -/
def execLdh (gd ga : Reg) (imm : BitVec 16) : State → Host.Outcome State Fault Refusal := loadOp 2 true gd ga imm
/-- `ldw` (R166). -/
def execLdw (gd ga : Reg) (imm : BitVec 16) : State → Host.Outcome State Fault Refusal := loadOp 4 true gd ga imm
/-- `ldd` (R166). -/
def execLdd (gd ga : Reg) (imm : BitVec 16) : State → Host.Outcome State Fault Refusal := loadOp 8 false gd ga imm
/-- `ldbn` (R166). -/
def execLdbn (gd ga : Reg) (imm : BitVec 16) : State → Host.Outcome State Fault Refusal := loadOp 1 false gd ga imm
/-- `ldhn` (R166). -/
def execLdhn (gd ga : Reg) (imm : BitVec 16) : State → Host.Outcome State Fault Refusal := loadOp 2 false gd ga imm
/-- `ldwn` (R166). -/
def execLdwn (gd ga : Reg) (imm : BitVec 16) : State → Host.Outcome State Fault Refusal := loadOp 4 false gd ga imm

/-- A store of the low `n` bytes of gd (R166, R170): it enters the store buffer and retires, or, on an RC page, waits for its check.
Writes to another die or outside the package count in ACKCNT, of which 1,024 may be outstanding (R125). -/
def storeOp (n : Nat) (gd ga : Reg) (imm : BitVec 16) (s : State) : Host.Outcome State Fault Refusal :=
  s.onStrand fun sn t =>
    if t.busy [gd, ga] then s
    else if t.gp ga then s.poisonTrap sn ga
    else if 16 ≤ t.seq.stores.countP (fun x => !x.arr) then s
    else
      let va := (t.g ga + sext imm).toNat
      match s.mem.access (coreOfSn sn) t va n .w (pbOf n (t.g gd).toNat (t.gp gd)) with
      | (.trap c d v, m) => (s.setMem m).trap sn c 0 d v
      | (.park v k e l, m) => (s.setMem m).park sn 0 v k e l true false
      | (.wait, _) => s
      | (.ok ps, m) =>
        let acks := ps.countP (fun p => p.place.remote (dieOfSn sn))
        if (ps.any (·.sco) && t.scoBusy) || decide (1024 < t.seq.ctl.ackcnt + acks) then s
        else
          let rc := ps.any (·.rc)
          let x : Store := ⟨t.seq.nextId, t.seq.seq, false, va, ps, rc⟩
          let t := ((t.nextAcc.nextSeq).mapSeq (fun q => { q with stores := q.stores ++ [x] })).mapCtl (fun c => { c with ackcnt := c.ackcnt + acks })
          (s.setMem m).setStrand sn (if rc then t.setWait (.check x.id) else t.retire 4)

/-- `stb` (R166). -/
def execStb (gd ga : Reg) (imm : BitVec 16) : State → Host.Outcome State Fault Refusal := storeOp 1 gd ga imm
/-- `sth` (R166). -/
def execSth (gd ga : Reg) (imm : BitVec 16) : State → Host.Outcome State Fault Refusal := storeOp 2 gd ga imm
/-- `stw` (R166). -/
def execStw (gd ga : Reg) (imm : BitVec 16) : State → Host.Outcome State Fault Refusal := storeOp 4 gd ga imm
/-- `std` (R166). -/
def execStd (gd ga : Reg) (imm : BitVec 16) : State → Host.Outcome State Fault Refusal := storeOp 8 gd ga imm

/-! ### The race check's outcome (R134, R135, R416) -/

/-- A check that failed: a running strand takes RACE at the instruction, with RACEINFO; one halted for a save raises nothing and runs the
instruction again after its restore (R416). -/
def State.raceFail (s : State) (sn src path : Nat) (va : Nat) (c : Conflict) : State :=
  match s.strand? sn with
  | none => s
  | some t =>
    let t := t.setWait .none
    if t.run = .running then
      ((s.setStrand sn (t.mapCtl (fun x => { x with raceinfo := raceInfoOf c.osn c.oseq c.kind c.oatom path c.gran }))).trap
        sn 0x08 src 0 (raceVal va c.gran)).takeTraps 4 sn
    else s.setStrand sn t

/-- The answer of an instruction that waited for its check, which now retires (R416). -/
def State.afterCheck (s : State) (sn : Nat) (rc : Bool) (t : Strand) : State :=
  if rc then (s.setStrand sn (t.retire 4)).takeTraps 4 sn else s.setStrand sn t

/-! ### Steps -/

/-- Perform the next part of a load at its home slice (R110, R131). -/
def State.sliceLoad (s : State) (sn : Nat) (t : Strand) (a : Acc) : State :=
  match nextPart a.parts with
  | none => s
  | some p =>
    if t.blocked a.seq false p then s
    else match s.homeRead (coreOfSn sn) (t.who sn 0 a.rc a.id) p with
      | .hold m => s.setMem m
      | .badBacking _ m => s.setMem m
      | .race c m => ((s.setMem m).setStrand sn (t.dropAcc a.id)).raceFail sn 0 0 a.va c
      | .ok r m =>
        let (data, s) := (s.setMem m).homeFill (coreOfSn sn) p r.old
        (s.setStrand sn ((t.modAcc a.id (fun a => { a with parts := setPart (fun p => { p with done := true, data := data }) a.parts })).progress)).supp sn 0 r.passed

/-- Check and perform a store on an RC page at its home slice (R131, R416); it updates the L1 line it matches (R109). -/
def State.sliceStore (s : State) (sn : Nat) (t : Strand) (x : Store) : State :=
  match nextPart x.parts with
  | none => s
  | some p =>
    if t.blocked x.seq false p then s
    else match s.mem.at s.clock (t.who sn 0 x.rc x.id) .write p.place p.n (fun _ => p.data) with
      | .hold m => s.setMem m
      | .badBacking _ m => s.setMem m
      | .race c m => (s.setMem m).setStrand sn (t.setWait (.checked (some (c.osn, c.oseq, c.kind, c.oatom, c.gran))))
      | .ok r m =>
        let t := ((t.modStore x.id (fun x => { x with parts := setPart (fun p => { p with done := true }) x.parts })).setWait (.checked none)).progress
        (((s.setMem m).setStrand sn (t.awaitAck (dieOfSn sn) p.place (.ls p.sco))).l1Stored (coreOfSn sn) p.place p.data).supp sn 0 r.passed

/-- The parts of a load that the core itself serves: at a bank, from the constant cache, from L1 (R167). -/
def State.localParts (s : State) (sn : Nat) (t : Strand) (a : Acc) : List Part → List Part
  | [] => []
  | p :: ps =>
    (if p.done || t.blocked a.seq false p then p
     else match p.place with
      | .bank b off => { p with done := true, data := s.mem.bankRead b off p.n }
      | _ => match s.cached (coreOfSn sn) p with
        | some d => { p with done := true, data := d }
        | none => p) :: State.localParts s sn t a ps

/-- The banks that the parts of a load read (R226). -/
def bankParts (ps : List Part) : List Nat := ps.filterMap (fun p => match p.place with | .bank b _ => if p.done then none else some b | _ => none)

/-- The effect of a load's reply on its register (R160, R166): gd takes the extended bytes, poisoned when any byte is. -/
def Strand.loadDone (t : Strand) (a : Acc) (n : Nat) (signed : Bool) : Strand :=
  let bytes := partBytes a.parts
  ((t.dropAcc a.id).setG (BitVec.ofNat 5 a.dest) (loadValue n signed (pbNat bytes)) (pbPois bytes)).progress

/-- LOAD_REPLY (R160): the data of an access return, are written to the destination and free its load-table entry; a `pin` or `unpin`
returns its code (R332). -/
def execLoadReply (s : State) : Host.Outcome State Fault Refusal :=
  s.forStrand fun sn t =>
    match t.seq.loads.find? (fun a => decide (a.id = s.agent.b)) with
    | none => s
    | some a =>
      match a.kind with
      | .load n signed =>
        let ps := s.localParts sn t a a.parts
        let read := bankParts (((a.parts.zip ps).filter (fun x => x.2.done)).map (·.1))
        let t := t.mapSeq (fun q => { q with served := q.served ++ read })
        let a := { a with parts := ps }
        if allDone a.parts then s.afterCheck sn a.rc (t.loadDone a n signed)
        else s.setStrand sn (t.modAcc a.id (fun _ => a))
      | .pin _ _ (some code) => s.afterCheck sn a.rc (((t.dropAcc a.id).setG (BitVec.ofNat 5 a.dest) (BitVec.ofNat 64 code) false).progress)
      | _ => s

/-- STORE_PERFORM (R160): the next part of a store of the buffer, named by its place there, is performed at its bank or home, or leaves for
the host or a peer (R349); a store whose parts are all performed leaves the buffer. -/
def execStorePerform (s : State) : Host.Outcome State Fault Refusal :=
  s.forStrand fun sn t =>
    match t.seq.stores[s.agent.b]? with
    | none => s
    | some x =>
      match nextPart x.parts with
      | none => if x.rc then s else s.setStrand sn (t.dropStore x.id)
      | some p =>
        if x.rc || t.blocked x.seq x.arr p then s
        else
          let ps := setPart (fun p => { p with done := true }) x.parts
          let t' := ((if allDone ps then t.dropStore x.id else t.modStore x.id (fun x => { x with parts := ps }))).progress
          let t' := t'.awaitAck (dieOfSn sn) p.place (.ls p.sco)
          match p.place with
          | .fwd loc addr va => ((s.sendWrite (partOfSn sn) loc addr p.data).modMem (fun m => m.countLine (partOfSn sn) va true)).setStrand sn t'
          | pl =>
            match s.mem.at s.clock (t.who sn 0 false x.id) .write pl p.n (fun _ => p.data) with
            | .ok _ m => ((s.setMem m).setStrand sn t').l1Stored (coreOfSn sn) pl p.data
            | .hold m => s.setMem m
            | .badBacking _ m => s.setMem m
            | .race _ m => s.setMem m

/-- An acknowledgement has returned (R125). -/
def Strand.acked (t : Strand) (k : Nat) : Strand :=
  ((t.mapSeq (fun q => { q with acks := dropAt q.acks k })).mapCtl (fun c => { c with ackcnt := c.ackcnt - 1 })).progress

/-- The command of the stream engine has one acknowledgement less to wait for (R271, R289). -/
def Strand.cmdAcked (t : Strand) : Strand :=
  { t with str := { t.str with queue := match t.str.queue with | e :: q => { e with flying := e.flying - 1 } :: q | [] => [] } }

/-- ACK_RETURN (R125): the acknowledgement of a write that has been performed, named by its place among those outstanding, returns and is taken
off ACKCNT; the write of a stream command makes its arrival now (R271), which waits while the object's slot is locked (R263). -/
def execAckReturn (s : State) : Host.Outcome State Fault Refusal :=
  s.forStrand fun sn t =>
    match t.seq.acks[s.agent.b]? with
    | none => s
    | some (.ls _) => s.setStrand sn (t.acked s.agent.b)
    | some (.cp _ false _ _) => s.setStrand sn (t.acked s.agent.b)
    | some (.cp _ true arr n) =>
      let t' := (t.acked s.agent.b).cmdAcked
      if arr = 0 then s.setStrand sn t'
      else match s.mem.slotAnsDrain t (winSlot arr) with
        | .wait => s
        | .detached => (s.setStrand sn t').engineTrap sn 0x03 3 0 arr
        | .bank b => (s.setStrand sn t').modMem (fun m => m.arrive b (winOff arr) n ((t.str.queue.head?.map (·.status)).getD 0 % 2 ^ 32))

/-- RACE_CHECK_REPLY (R416): the home slice's reply for a store on an RC page returns; the store retires, or is trapped with RACE. -/
def execRaceCheckReply (s : State) : Host.Outcome State Fault Refusal :=
  s.forStrand fun sn t =>
    match t.seq.wait with
    | .checked none =>
      (match t.seq.stores.find? (·.rc) with
       | some x => s.afterCheck sn true (t.dropStore x.id)
       | none => s.afterCheck sn true t)
    | .checked (some (osn, oseq, kind, oatom, gran)) =>
      (match t.seq.stores.find? (·.rc) with
       | some x =>
         let acks := x.parts.countP (fun p => p.place.remote (dieOfSn sn))
         let t := (t.dropStore x.id).mapCtl (fun c => { c with ackcnt := c.ackcnt - acks })
         (s.setStrand sn t).raceFail sn 0 0 x.va ⟨osn, oseq, kind, oatom, gran⟩
       | none => s.setStrand sn (t.setWait .none))
    | _ => s

/-! ### Instruction fetch (R79 steps 1 and 2, R168) -/

/-- How a fetch ends. -/
inductive Fetch where
  | ok (w f : W32)
  | trap (cause detail val : Nat)
  | park (va kind entry lvl : Nat)
  | wait
  deriving DecidableEq, Repr

/-- Fetch one word at `va` through the instruction cache; a cached word may have been given up (R168). A read at the home slice waits for an entry of
the schedule that admits the partition (R34). -/
def State.fetchWord (s : State) (sn va : Nat) : Fetch × State :=
  let core := coreOfSn sn
  let p := partOfSn sn
  if inWindow va then (.trap 0x07 0 va, s)
  else match s.mem.page core p va .x with
    | (.error (.trap c d v), m) => (.trap c d v, s.setMem m)
    | (.error (.park v k e l), m) => (.park v k e l, s.setMem m)
    | (.error _, m) => (.wait, s.setMem m)
    | (.ok l, m) =>
      let s := s.setMem m
      let hit := (s.core core).ic.find? (fun x => decide (x.part = p) && decide (x.va = va))
      let (stale, s) := match hit with
        | some _ => let (i, m) := s.mem.pick 2; (decide (i = 0), s.setMem m)
        | none => (false, s)
      match hit, stale, l.place va with
      | some x, true, _ => (.ok x.word 0, s)
      | some x, _, .fwd _ _ _ => (.ok x.word 0, s)
      | none, _, .fwd _ _ _ => (.wait, s)
      | _, _, pl =>
        if !s.admits p then (.wait, s)
        else match s.mem.at s.clock ⟨p, sn, 5, 0, false, false, 0⟩ .read pl 4 id with
        | .ok r m =>
          let w := BitVec.ofNat 32 (pbNat r.old)
          if pbPois r.old then (.trap 0x0D 1 va, s.setMem m)
          else (.ok w 0, (s.setMem m).modCore core (fun c =>
            { c with ic := c.ic.filter (fun x => !(decide (x.part = p) && decide (x.va = va))) ++ [⟨p, va, w⟩] }))
        | .hold m => (.wait, s.setMem m)
        | .badBacking _ m => (.wait, s.setMem m)
        | .race _ m => (.wait, s.setMem m)

/-- Fetch the instruction at PC: a long form has two words (R79). -/
def State.fetch (s : State) (sn : Nat) (t : Strand) : Fetch × State :=
  match s.fetchWord sn t.seq.pc.toNat with
  | (.ok w _, s) =>
    if isLong w then
      match s.fetchWord sn (t.seq.pc + 4#64).toNat with
      | (.ok f _, s) => (.ok w f, s)
      | r => r
    else (.ok w 0, s)
  | r => r

/-- FETCH_FAULT (R168): the fetch of the instruction at PC fails: PERM, XLATE or POISON with DETAIL 1, or a parked fetch (R171). -/
def execFetchFault (s : State) : Host.Outcome State Fault Refusal :=
  s.forStrand fun sn t =>
    match s.fetch sn t with
    | (.trap c d v, s) => s.trap sn c 0 d v
    | (.park v k e l, s) => s.park sn 5 v k e l false false
    | (_, s) => s

end Sys2Proof.Machine
end

