-- ==== Sys2Proof/Machine/Flags.lean ====
section
/-! DEFINITION. The flag computations: FPSTAT and MXSTAT (R57, R71, R258), and the generator streams that stochastic rounding draws
from (R55). -/
namespace Sys2Proof.Machine

/-- The state of generator stream `j` (R55). -/
def Strand.gen (t : Strand) (j : Nat) : W32 := (tblFind t.seq.gens j).getD (genSeed 0#32 j)
/-- The value the next step of stream `j` returns (R55 Next). -/
def Strand.rnd (t : Strand) (j : Nat) : Nat := (genNext (t.gen j)).toNat
/-- The step a draw takes: one for an inexact result, none for an exact one (R55). -/
def Strand.draw (t : Strand) (j : Nat) (drew : Bool) : Strand :=
  if drew then t.mapSeq (fun q => { q with gens := tblInsert q.gens j (genNext (t.gen j)) }) else t

/-- The format that P of an FPU word selects (R176). -/
def fpuFmt (p : BitVec 1) : FFmt := if p = 1#1 then .f64 else .f32
/-- The rounding mode in force: RMO, or FPCTL.RM for 0b111 (R176). -/
def Strand.rmOf (t : Strand) (rm : BitVec 3) : Nat := if rm = 7#3 then t.seq.ctl.rm else rm.toNat
/-- The operand of an FPU operation: FP32 reads bits [31:0] of the register (R176). -/
def Strand.fpOperand (t : Strand) (f : FFmt) (r : Reg) : Nat := (t.g r).toNat % 2 ^ f.width

/-- Latency of an FPU arithmetic operation (R159). -/
def fpLat (op : FOp) (p : BitVec 1) : Nat :=
  match op with
  | .fma => 5
  | .fnma => 5
  | .div => if p = 1#1 then 20 else 12
  | .sqrt => if p = 1#1 then 24 else 14
  | _ => 4

/-- Write an FPU result, its flags and its draw from stream 0, visible after `lat` ck, and retire (R57, R159, R177). -/
def Strand.fpDone (t : Strand) (lat : Nat) (gd : Reg) (r : FRes) (p : Bool) : Strand :=
  ((t.draw 0 r.drew).addFl r.fl).doneIn lat 4 gd (BitVec.ofNat 64 r.bits) p

/-- OR a matrix unit's bits into MXSTAT.ST (R258). -/
def Strand.addMx (t : Strand) (st : Nat) : Strand := t.mapCtl (fun c => { c with mxst := c.mxst ||| BitVec.ofNat 15 st })

end Sys2Proof.Machine
end

