-- ==== Sys2Proof/Machine/Rings.lean ====
section
/-! DEFINITION. Rings and their tiles (R273-R278), outlier capture (R67-R70), token channels (R206). -/
namespace Sys2Proof.Machine

def Strand.ring (t : Strand) (n : Nat) : Ring := tblGet .none t.str.rings n
def Strand.setRing (t : Strand) (n : Nat) (r : Ring) : Strand := { t with str := { t.str with rings := tblPut .none t.str.rings n r } }
def Strand.modRing (t : Strand) (n : Nat) (f : Ring → Ring) : Strand := t.setRing n (f (t.ring n))

/-- The modulus of HEAD and TAIL (R273). -/
def Ring.modulus (r : Ring) : Nat := 2 ^ (r.logn + 1)
/-- H, the tiles a ring holds (R275). -/
def Ring.held (r : Ring) : Nat := (r.tail + r.modulus - r.head % r.modulus) % r.modulus
/-- Whether a ring is full for pushers (R275). -/
def Ring.full (r : Ring) : Bool := decide (2 ^ r.logn ≤ r.held + r.resv.length)
/-- Bytes of a tile (R273). -/
def Ring.bytes (r : Ring) : Nat := 64 * r.trows
/-- Bank offset of a tile (R275). -/
def Ring.tileOff (r : Ring) (h : Nat) : Nat := r.off + h % 2 ^ r.logn * r.bytes
/-- Window address of a tile. -/
def Ring.tileVa (r : Ring) (h : Nat) : Nat := slotAddr r.slot + r.tileOff h
/-- The tile that the next reservation takes (R275). -/
def Ring.nextTile (r : Ring) : Nat := (r.tail + r.resv.length) % r.modulus
/-- Reserve the next tile. -/
def Ring.reserve (r : Ring) : Ring := { r with resv := r.resv ++ [⟨r.nextTile, false, false⟩] }
/-- Pop the head tile (R275). -/
def Ring.pop (r : Ring) : Ring := { r with head := (r.head + 1) % r.modulus, cur := 0 }
/-- Every byte of a reserved tile has been written: it has yet to land. -/
def Ring.wrote (r : Ring) (tile : Nat) : Ring := { r with resv := r.resv.map (fun (x : Resv) => if x.tile = tile then { x with written := true } else x) }

/-- TAIL passes the reserved tiles that have landed, in reservation order (R275). -/
def Ring.advanceGo : Nat → Ring → Ring
  | 0, r => r
  | k + 1, r =>
    match r.resv with
    | x :: xs => if x.landed then Ring.advanceGo k { r with tail := (r.tail + 1) % r.modulus, resv := xs } else r
    | [] => r
def Ring.advance (r : Ring) : Ring := Ring.advanceGo r.resv.length r

/-- A reserved tile lands, its bytes written (R275). -/
def Ring.land (r : Ring) (tile : Nat) : Ring :=
  Ring.advance { r with resv := r.resv.map (fun (x : Resv) => if x.tile = tile then { x with written := true, landed := true } else x) }

/-- Whether a tile is still among the reservations. -/
def Ring.reserved (r : Ring) (tile : Nat) : Bool := r.resv.any (fun x => decide (x.tile = tile))

/-- How a ring's slot answers (R275): empty, in L1 mode or locked raises DETACHED; a draining one makes an access wait unless the drain
waits for it (R265). -/
def Mem.ringAns (m : Mem) (t : Strand) (r : Ring) (drain : Bool) : SlotAns :=
  match (t.slot r.slot).bank with
  | none => .detached
  | some b =>
    if (t.slot r.slot).l1 || (t.slot r.slot).lock || m.bankLocked b then .detached
    else if ((t.slot r.slot).draining && !drain) || (t.slot r.slot).zero then .wait
    else .bank b

/-- The bank behind a ring, 0 where there is none. -/
def Strand.ringBank (t : Strand) (r : Ring) : Nat := (t.slot r.slot).bank.getD 0

/-- Write bytes of a ring's slot. -/
def Mem.ringWrite (m : Mem) (t : Strand) (r : Ring) (off : Nat) (l : List PB) : Mem :=
  match (t.slot r.slot).bank with
  | some b => m.bankWrite b off l
  | none => m

/-! ### Outlier capture (R67-R70) -/

/-- One entry of an outlier tile (R69). -/
def outlEntry (index fp32 : Nat) : List PB := pbOf 4 index false ++ pbOf 4 fp32 false

/-- Entries an outlier tile holds. -/
def Ring.entries (r : Ring) : Nat := r.bytes / 8

/-- The state an element's narrowing acts on: the strand, memory and the outlier tile being filled. -/
structure OutlSt where
  t : Strand
  m : Mem
  fill : Option OutFill

/-- Append an entry to the outlier ring `n`: none when its tile cannot be reserved (R68). -/
def OutlSt.append (o : OutlSt) (n index fp32 : Nat) : Option OutlSt :=
  let r := o.t.ring n
  let put := fun (f : OutFill) (t : Strand) =>
    let r := t.ring n
    let m := o.m.ringWrite t r (r.tileOff f.tile + 8 * f.count) (outlEntry index fp32)
    let f := { f with count := f.count + 1 }
    if r.entries ≤ f.count then (⟨t.modRing n (fun r => r.land f.tile), m, none⟩ : OutlSt) else ⟨t, m, some f⟩
  match o.fill with
  | some f => some (put f o.t)
  | none => if r.full then none else some (put ⟨n, r.nextTile, 0⟩ (o.t.setRing n r.reserve))

/-- Complete a partly filled outlier tile with empty entries and push it (R69). -/
def OutlSt.finish (o : OutlSt) : OutlSt :=
  match o.fill with
  | none => o
  | some f =>
    let r := o.t.ring f.ring
    let pad := (List.replicate (r.entries - f.count) (outlEntry 0xFFFFFFFF 0)).flatten
    ⟨o.t.modRing f.ring (fun r => r.land f.tile), o.m.ringWrite o.t r (r.tileOff f.tile + 8 * f.count) pad, none⟩

/-- What one narrowed element is: its code, the flags it sets, and whether its stochastic stream took a step. -/
structure NElem where
  code : Nat
  fl : Fl
  drew : Bool
  deriving DecidableEq, Repr

/-- Narrow one element to E4M3, E5M2 or FP4 (R67-R70), with its poison, the outlier ring named, and the element's index. A stochastic
rounding takes its step before the overflow test (R55), so a captured element takes one too. -/
def narrowElem (f : FFmt) (rm : Nat) (sig : Bool) (x : XRes) (rnd : Nat) (pois : Bool) (ring : Option Nat) (index : Nat) (o : OutlSt) :
    NElem × OutlSt :=
  match f.narrow rm sig x rnd with
  | .code b fl drew => (⟨b, fl, drew⟩, o)
  | .outOfRange neg isNaN fl drew =>
    match (if pois then none else ring) with
    | none => (⟨(f.noRing rm neg isNaN).1, fl ||| (f.noRing rm neg isNaN).2, drew⟩, o)
    | some n =>
      match o.append n index (outlierFp32 x).1 with
      | some o => (⟨0, fl ||| flOUTL ||| flIf (outlierFp32 x).2 flNX, drew⟩, o)
      | none => (⟨(f.ringFull neg isNaN).1, fl ||| (f.ringFull neg isNaN).2, drew⟩, o)

/-! ### Token channels (R206) -/

/-- Whether a channel is set. -/
def Strand.token (t : Strand) (ch : Nat) : Bool := bitOf t.tok ch
/-- Set a channel: a token that finds it set is merged. -/
def Strand.setToken (t : Strand) (ch : Nat) : Strand := if t.token ch then t else { t with tok := t.tok + 2 ^ ch }
/-- Consume a token. -/
def Strand.takeToken (t : Strand) (ch : Nat) : Strand := if t.token ch then { t with tok := t.tok - 2 ^ ch } else t

end Sys2Proof.Machine
end

