-- ==== Sys2Proof/Machine/Sync.lean ====
section
/-! DEFINITION. Accesses that a step performs whole: a part read or written at its bank, its home, or outside the package, with the race
check of R131; the engines' causes. -/
namespace Sys2Proof.Machine

/-- How an access of one part ends: with its bytes (and whether a chunk was corrected), held, or with a race. -/
inductive RP where
  | ok (data : List PB) (corr : Bool) (s : State)
  | hold (s : State)
  | race (c : Conflict) (s : State)

/-- The identities by which a spill knows the accesses that no table names (R315, R317): of a run of the sequencer and of a step of the array, by
address; of the stream engine's command (0) or a tile (1 + tile). -/
def runAcc (va : Nat) : Nat := 2 ^ 130 + va
def stepAcc (va : Nat) : Nat := 2 ^ 131 + va
def cpAcc (who va : Nat) : Nat := 2 ^ 132 * (1 + who) + va

/-- Read one part on a path, of the access with an identity (R108, R110, R349); LS reads go through the core's caches (R109, R167). A use of the partition's transport waits
for an entry of the schedule that admits it (R34, R35). -/
def State.readPart (s : State) (sn : Nat) (t : Strand) (path acc : Nat) (p : Part) : RP :=
  let core := coreOfSn sn
  match p.place with
  | .bank b off =>
    let (c, m) := s.mem.bankCorr b off p.n
    .ok (s.mem.bankRead b off p.n) c (s.setMem m)
  | _ =>
  if !s.mayUse (partOfSn sn) p.place then .hold s
  else match p.place with
  | .fwd loc addr va => .ok (s.extRead loc addr p.n) false (s.modMem (fun m => m.countLine (partOfSn sn) va false))
  | pl =>
    match (if path = 0 then s.cached core p else none) with
    | some d => .ok d false s
    | none =>
      match (if path = 0 then s.homeRead core (t.who sn path p.rc acc) p else s.mem.at s.clock (t.who sn path p.rc acc) .read pl p.n id) with
      | .ok r m =>
        let s := (s.setMem m).supp sn path r.passed
        if path = 0 then
          let (d, s) := s.homeFill core p r.old
          .ok d r.corr s
        else .ok r.old r.corr s
      | .hold m => .hold (s.setMem m)
      | .badBacking _ m => .hold (s.setMem m)
      | .race c m => .race c (s.setMem m)

/-- Write one part on a path, of the access with an identity (R108, R110, R349): a write acknowledged from outside the die counts in ACKCNT, and awaits its acknowledgement
as `a` says (R125). -/
def State.writePart (s : State) (sn : Nat) (t : Strand) (path acc : Nat) (a : AckOf) (p : Part) : RP :=
  let acked := fun (s : State) => if p.place.remote (dieOfSn sn) then
    s.modStrand sn (fun t => (t.mapCtl (fun c => { c with ackcnt := c.ackcnt + 1 })).awaitAck (dieOfSn sn) p.place a) else s
  match p.place with
  | .bank b off => .ok [] false (s.setMem (s.mem.bankWrite b off p.data))
  | _ =>
  if !s.mayUse (partOfSn sn) p.place then .hold s
  else match p.place with
  | .fwd loc addr va => .ok [] false (acked ((s.sendWrite (partOfSn sn) loc addr p.data).modMem (fun m => m.countLine (partOfSn sn) va true)))
  | pl =>
    match s.mem.at s.clock (t.who sn path p.rc acc) .write pl p.n (fun _ => p.data) with
    | .ok r m =>
      let s := (s.setMem m).supp sn path r.passed
      .ok [] false (acked (if path = 0 then s.l1Stored (coreOfSn sn) pl p.data else s))
    | .hold m => .hold (s.setMem m)
    | .badBacking _ m => .hold (s.setMem m)
    | .race c m => .race c (s.setMem m)

/-- Whether a write of the strand must wait for an acknowledgement (R125). -/
def Strand.ackFull (t : Strand) (sn : Nat) (ps : List Part) : Bool :=
  decide (1024 < t.seq.ctl.ackcnt + ps.countP (fun p => p.place.remote (dieOfSn sn)))

/-- How a run of sequencer loads that one instruction makes ends (R190, R276). -/
inductive Run8 where
  | ok (data : List PB) (s : State)
  | stop (s : State)

/-- A race on a load that an instruction makes traps it (R134). -/
def State.raceOf (s : State) (sn : Nat) (c : Conflict) (p : Part) : State :=
  (s.modStrand sn (fun t => t.mapCtl (fun x => { x with raceinfo := raceInfoOf c.osn c.oseq c.kind c.oatom 0 c.gran }))).trap
    sn 0x08 0 0 (raceVal p.va c.gran)

/-- Read the parts of one access in order. -/
def State.readParts (sn : Nat) (t : Strand) : State → List PB → List Part → Run8
  | s, acc, [] => .ok acc s
  | s, acc, p :: ps =>
    if t.blocked t.seq.seq false p then .stop s
    else match s.readPart sn t 0 (runAcc p.va) p with
      | .ok d _ s => State.readParts sn t s (acc ++ d) ps
      | .hold s => .stop s
      | .race c s => .stop (s.raceOf sn c p)

/-- A run of 8-byte loads from `va` on (R190, R276), each checked as R170 checks a load. -/
def State.readRun (sn : Nat) (t : Strand) : Nat → State → Nat → List PB → Run8
  | 0, s, _, acc => .ok acc s
  | k + 1, s, va, acc =>
    match s.mem.access (coreOfSn sn) t (va % 2 ^ 64) 8 .r [] with
    | (.trap c d v, m) => .stop ((s.setMem m).trap sn c 0 d v)
    | (.park v x e l, m) => .stop ((s.setMem m).park sn 0 v x e l false false)
    | (.wait, m) => .stop (s.setMem m)
    | (.ok ps, m) =>
      if ps.any (·.sco) && t.scoBusy then .stop (s.setMem m)
      else match State.readParts sn t (s.setMem m) [] ps with
        | .ok d s => State.readRun sn t k s (va + 8) (acc ++ d)
        | .stop s => .stop s

/-- The address of the first poisoned byte of a run (R190, R276). -/
def firstBadByte (va : Nat) (data : List PB) : Option Nat := (findIdx? (·.2) data 0).map (fun x => (va + x.1) % 2 ^ 64)

/-! ### Causes of the engines (R155) -/

/-- A race on an engine's access (R134, R135): engine 1 array, 2 matrix, 3 stream, on its path. DESIGN CHOICE (log entry 46): RACEINFO is
written at the conflict, so that of several engines' conflicts the last one stands there when the first is delivered. -/
def State.engineRace (s : State) (sn src path va : Nat) (c : Conflict) : State :=
  (s.modStrand sn (fun t => t.mapCtl (fun x => { x with raceinfo := raceInfoOf c.osn c.oseq c.kind c.oatom path c.gran }))).engineTrap
    sn 0x08 src 0 (raceVal va c.gran)

end Sys2Proof.Machine
end

