-- ==== Sys2Proof/Machine/Array.lean ====
section
/-! DEFINITION. The modulo array (R183-R231): one step of a strand's loop, its wrap, its end, and the filling of its load queues. -/
namespace Sys2Proof.Machine

/-! ### The state by PE -/

def Strand.pe (t : Strand) (p : Nat) : Pe := t.arrx.pes.getD p .fresh
def Strand.mapArr (t : Strand) (f : Arr → Arr) : Strand := { t with arr := f t.arr }
def Strand.mapArrX (t : Strand) (f : ArrX → ArrX) : Strand := { t with arrx := f t.arrx }
def Strand.modPe (t : Strand) (p : Nat) (f : Pe → Pe) : Strand := t.mapArrX (fun a => { a with pes := modAt f a.pes p })

/-- The word of PE `p` at entry `e` of the strand's window (R191). -/
def Strand.cwAt (t : Strand) (p e : Nat) : Cw := Cw.of (tblGet 0 (t.pe p).cw e)

/-- The word that PE `p` executes in this step: one whose stage is not valid acts as `nop` (R191). -/
def Strand.cwNow (t : Strand) (p : Nat) : Cw :=
  let w := t.cwAt p (t.arr.ent + t.arr.row)
  if bitOf t.arr.svm w.stg then w else Cw.of 0

/-- The floating environment of the loop (R191). -/
def Arr.fpc (a : Arr) : Fpc := ⟨a.frm, a.fftz, a.fdaz⟩

/-- The rotating entry that w`n` names (R186), as a register key. -/
def rotKey (rb n : Nat) : Nat := 16 + (n + rb) % 32

/-- The neighbour whose latch a code reads (R185). -/
def neighbour (p code : Nat) : Nat :=
  let row := p / 4
  let col := p % 4
  match code with
  | 56 => 4 * ((row + 3) % 4) + col
  | 57 => 4 * row + (col + 1) % 4
  | 58 => 4 * ((row + 1) % 4) + col
  | _ => 4 * row + (col + 3) % 4

/-- The head of a PE's load queue, when it is filled (R195). -/
def Pe.headVal (e : Pe) : Option AV := match e.lq with | x :: _ => if x.filled then some x.val else none | [] => none

/-- ix of stage `stg` (R197). -/
def Arr.ix (a : Arr) (stg : Nat) : Nat := wrapTo 32 ((a.p : Int) - stg)

/-- The value of an operand code (R87, R185-R187), as at the end of the previous step. -/
def Strand.src (t : Strand) (p code stg : Nat) : AV :=
  let e := t.pe p
  if code < 16 then tblGet .zero e.regs code
  else if code < 48 then tblGet .zero e.regs (rotKey t.arr.rb (code - 16))
  else if code < 56 then ⟨tblGet 0 e.k (code - 48), true, false⟩
  else if code < 60 then (t.pe (neighbour p code)).latch
  else if code = 60 then e.headVal.getD ⟨0, false, false⟩
  else if code = 61 then ⟨BitVec.ofNat 32 (t.arr.ix stg), true, false⟩
  else if code = 62 then .zero
  else t.arrx.sq

/-- An operand after its modifier (R89). -/
def Strand.operand (t : Strand) (p : Nat) (w : Cw) (code mod : Nat) : AV :=
  let v := t.src p code w.stg
  if mod = 0 then v else { v with v := BitVec.ofNat 32 (cwModify w mod v.v.toNat) }

/-- Whether a word pops its PE's load queue: it reads code 60 and the head is filled. -/
def Strand.popsLq (t : Strand) (p : Nat) (w : Cw) : Bool :=
  ((w.row.a && decide (w.a = 60)) || (w.row.b && decide (w.b = 60))) && (t.pe p).headVal.isSome

/-! ### Holds and stalls (R195, R227) -/

/-- The word at a ring's cursor, and the ring after it is popped (R227); none for an empty ring. -/
def Ring.rpop (r : Ring) : Option (Nat × Nat × Ring) :=
  if r.held = 0 then Option.none
  else some (r.head, r.cur, if r.bytes ≤ 4 * (r.cur + 1) then r.pop else { r with cur := r.cur + 1 })

/-- Whether the step holds or stalls (R195): PE by PE, with the ring words that earlier PEs of the step take. DESIGN CHOICE (log entry 46): an
`ldi` that pops its own full load queue in the same word does not stall. -/
def Strand.holds (t : Strand) : List Nat → Strand → Bool
  | [], _ => false
  | p :: ps, u =>
    let w := t.cwNow p
    let e := t.pe p
    let ring := u.ring w.x
    let lqHold := w.hld && ((w.row.a && decide (w.a = 60)) || (w.row.b && decide (w.b = 60))) && e.headVal.isNone
    let rHold := w.hld && ring.live &&
      ((decide (w.fn = 0x37) && decide (ring.held = 0)) || (decide (w.fn = 0x38) && decide ((t.ring w.x).held = 0)))
    let kHold := w.hld && decide (w.fn = 0x3C) && !t.token w.x
    let lqFull := decide (w.fn = 0x35) && decide (8 < e.lq.length + 1 - b2n (t.popsLq p w))
    let sqFull := decide (w.row.d = 1) && decide (w.d = 60) && decide (8 ≤ e.sq.length)
    if lqHold || rHold || kHold || lqFull || sqFull then true
    else
      let u := if w.fn = 0x37 then (match ring.rpop with | some (_, _, r) => u.setRing w.x r | none => u) else u
      t.holds ps u

/-! ### The effects of a step -/

/-- What a step has gathered, PE by PE: the strand (its rings, streams and identities move on), memory, and what takes effect at the
commit. -/
structure StepFx where
  t : Strand
  m : Mem
  fl : Fl
  /-- results: PE, destination (R194), value, latency -/
  writes : List (Nat × Nat × AV × Nat)
  pops : List Nat
  allocs : List (Nat × LqEnt)
  pushes : List (Nat × AV)
  stores : List Store
  toks : List Nat
  exit : Option Nat
  /-- banks that `rpop` and `rrd` of the step read (R226) -/
  reads : List Nat
  /-- accesses of the step, in order: identity, whether a write, parts -/
  accs : List (Nat × Bool × List Part)

/-- How a word's execution ends. -/
inductive WordEnd where
  | ok (f : StepFx)
  | cause (c detail val : Nat) (m : Mem)
  | park (va kind entry lvl : Nat) (wr : Bool) (m : Mem)
  | hold (m : Mem)

/-- Gather a result: a register, the latch alone, or the store queue (R208). -/
def StepFx.result (f : StepFx) (rb p : Nat) (w : Cw) (v : AV) : StepFx :=
  let v := if v.valid then v else { v with v := 0 }
  let dest := if w.d < 16 then w.d else if w.d < 48 then rotKey rb (w.d - 16) else 64
  let f := { f with writes := f.writes ++ [(p, dest, v, w.row.lat)] }
  if w.d = 60 then { f with pushes := f.pushes ++ [(p, v)] } else f

/-- The bank part of a ring's word (R227). -/
def Mem.ringWord (m : Mem) (t : Strand) (r : Ring) (tile word : Nat) : AV :=
  let l := m.bankRead (t.ringBank r) (r.tileOff tile + 4 * word) 4
  ⟨BitVec.ofNat 32 (pbNat l), true, pbPois l⟩

/-- The ring functions (R227). DESIGN CHOICE (log entry 46): where the ring's slot is empty or in L1 mode, DETACHED (R275) comes before an empty ring's
invalid zero or RING. -/
def StepFx.ringFn (f : StepFx) (t : Strand) (p : Nat) (w : Cw) : WordEnd :=
  let r0 := t.ring w.x
  let r := f.t.ring w.x
  let tv := 256 * p + w.x
  if !r0.live then .cause 0x09 2 tv f.m
  else match f.m.ringAns t r0 false with
    | .detached => .cause 0x03 0 (r0.tileVa r0.head) f.m
    | .wait => .hold f.m
    | .bank bank =>
      match w.fn with
      | 0x37 =>
        (match r.rpop with
         | some (tile, cur, r') => .ok ({ f with t := f.t.setRing w.x r', reads := f.reads ++ [bank] }.result t.arr.rb p w (f.m.ringWord t r tile cur))
         | none => .ok (f.result t.arr.rb p w ⟨0, false, false⟩))
      | 0x38 =>
        let b := t.operand p w w.b w.mb
        let f := if t.popsLq p w then { f with pops := f.pops ++ [p] } else f
        if r0.held = 0 then .ok (f.result t.arr.rb p w ⟨0, false, b.p⟩)
        else if !b.valid then .ok (f.result t.arr.rb p w ⟨0, false, b.p⟩)
        else
          let v := f.m.ringWord t r0 r0.head (b.v.toNat % (r0.bytes / 4))
          .ok ({ f with reads := f.reads ++ [bank] }.result t.arr.rb p w { v with p := v.p || b.p })
      | _ => if r0.held = 0 then .cause 0x09 1 tv f.m else .ok { f with t := f.t.setRing w.x r.pop }

/-- The address of `ldi` and `sta` (R225), or the offset that leaves the window. -/
def arrAddr (x off : Nat) (a15 : AV) : Except Nat Nat :=
  if x % 4 = 0 then (if 2 ^ 20 ≤ off then .error ((0xFFFFFFFFFFF00000 + off) % 2 ^ 64) else .ok (0xFFFFFFFFFFF00000 + off))
  else .ok (wrapTo 64 (sgn 32 a15.v.toNat * (2 ^ 32 : Nat) + off))

/-- The ck after its step at which a load of the window is there (R226): 3, and one for each read of its bank that is served first in that ck: the reads
of the sequencer, and the step's reads of lower PEs, by `ldi`, `rpop` and `rrd`. -/
def StepFx.bankDelay (f : StepFx) (t : Strand) (ps : List Part) : Nat :=
  let at' := fun (b : Nat) => ps.any (fun q => match q.place with | .bank a _ => decide (a = b) | _ => false)
  let same := fun (p : Part) => match p.place with | .bank a _ => at' a | _ => false
  3 + t.seq.served.countP at' + f.reads.countP at' + f.allocs.countP (fun x => x.2.parts.any same)

/-- `ldi` and `sta` (R225). DESIGN CHOICES (log entry 46): the invalid zero of an `ldi` with an invalid operand carries no poison, and of
several poisoned inputs A is reported before B, and B before a15. -/
def StepFx.memFn (f : StepFx) (sn : Nat) (t : Strand) (p : Nat) (w : Cw) : WordEnd :=
  let ld := decide (w.fn = 0x35)
  let a := t.operand p w w.a w.ma
  let b := t.operand p w w.b w.mb
  let glob := decide (w.x % 4 = 1)
  let a15 := t.src p 15 0
  let n := 2 ^ (w.x / 4)
  let f := if t.popsLq p w then { f with pops := f.pops ++ [p] } else f
  let id := f.t.seq.nextId
  let seq := f.t.seq.seq
  let valid := a.valid && b.valid && (!glob || a15.valid)
  if !valid then
    .ok (if ld then { f with allocs := f.allocs ++ [(p, ⟨0, seq, false, true, ⟨0, false, false⟩, [], false, 0⟩)] } else f)
  else if a.p then .cause 0x0D 0 (256 * p + w.a) f.m
  else if ld && b.p then .cause 0x0D 0 (256 * p + w.b) f.m
  else if glob && a15.p then .cause 0x0D 0 (256 * p + 15) f.m
  else
    let off := (if ld then a.v.toNat + b.v.toNat * n else a.v.toNat) % 2 ^ 32
    match arrAddr w.x off a15 with
    | .error v => .cause 0x04 2 v f.m
    | .ok va =>
      match f.m.access (coreOfSn sn) t va n (if ld then .r else .w) (if ld then [] else pbOf n b.v.toNat b.p) with
      | (.trap c d v, m) => .cause c d v m
      | (.park v k e l, m) => .park v k e l (!ld) m
      | (.wait, m) => .hold m
      | (.ok ps, m) =>
        let f := { f with m := m, t := f.t.nextAcc.nextSeq, accs := f.accs ++ [(id, !ld, ps)] }
        if ld then .ok { f with allocs := f.allocs ++ [(p, ⟨id, seq, false, false, ⟨0, false, false⟩, ps, false, f.bankDelay t ps⟩)] }
        else .ok { f with stores := f.stores ++ [⟨id, seq, true, va, ps, false⟩] }

/-- `cvtf8` and `cvtf4` (R217): the outlier ring's slot is asked only by an element that is captured. DESIGN CHOICE (log entry 46): an invalid operand
gives the invalid zero before the ring that k7 names is looked at. -/
def StepFx.narrowFn (f : StepFx) (t : Strand) (p : Nat) (w : Cw) : WordEnd :=
  let a := t.operand p w w.a w.ma
  let b := t.operand p w w.b w.mb
  let f := if t.popsLq p w then { f with pops := f.pops ++ [p] } else f
  let c := t.arr.fpc
  let f8 := decide (w.fn = 0x2B)
  let fmt : FFmt := if f8 then (if bitOf w.x 2 then .e5m2 else .e4m3) else .fp4
  let width := fmt.width
  let lane := if f8 then w.x % 4 else w.x % 8
  let cap := bitOf w.x 3
  let ring := (tblGet 0 (t.pe p).k 7).toNat % 16
  if !(a.valid && b.valid) then .ok (f.result t.arr.rb p w ⟨0, false, a.p || b.p⟩)
  else if cap && (decide (t.allot.nrg ≤ ring) || !(t.ring ring).live) then .cause 0x09 2 ring f.m
  else
    let x := FFmt.f32.read c.daz a.v.toNat
    let rng := f.t.gen (1 + p)
    let fill := f.t.arrx.outl.find? (fun o => decide (o.ring = ring))
    let out := match fmt.narrow c.rm x.isSig x.toX (genNext rng).toNat with | .outOfRange _ _ _ _ => cap && !a.p | .code _ _ _ => false
    match (if out then f.m.ringAns t (t.ring ring) false else .bank 0) with
    | .detached => .cause 0x03 0 ((t.ring ring).tileVa ((fill.map (·.tile)).getD (f.t.ring ring).nextTile)) f.m
    | .wait => .hold f.m
    | .bank _ =>
      let (e, o) := narrowElem fmt c.rm x.isSig x.toX (genNext rng).toNat a.p (if cap then some ring else none)
        ((t.arr.ix w.stg * 128 + 8 * p + lane) % 2 ^ 32) ⟨f.t, f.m, fill⟩
      let others := f.t.arrx.outl.filter (fun o => decide (o.ring ≠ ring))
      let u := (o.t.draw (1 + p) e.drew).mapArrX (fun a => { a with outl := if cap then others ++ o.fill.toList else a.outl })
      let v := b.v.toNat - elemOf width b.v.toNat lane * 2 ^ (width * lane) + e.code * 2 ^ (width * lane)
      .ok ({ f with t := u, m := o.m, fl := f.fl ||| e.fl }.result t.arr.rb p w ⟨BitVec.ofNat 32 v, true, a.p || b.p⟩)

/-- A function that reads operands and writes a result (R187, R213-R222). -/
def StepFx.valueFn (f : StepFx) (t : Strand) (p : Nat) (w : Cw) : WordEnd :=
  let a := if w.row.a then t.operand p w w.a w.ma else .zero
  let b := if w.row.b then t.operand p w w.b w.mb else .zero
  let x := if w.row.x = 1 then t.src p w.x 0 else .zero
  let f := if t.popsLq p w then { f with pops := f.pops ++ [p] } else f
  if w.fn = 0x19 ∨ w.fn = 0x1A ∨ w.fn = 0x1B ∨ w.fn = 0x3A then .ok (f.result t.arr.rb p w (cwAware w.fn a b x))
  else
    let pois := a.p || b.p || x.p
    if !(a.valid && b.valid && x.valid) then .ok (f.result t.arr.rb p w ⟨0, false, pois⟩)
    else
      let r := cwValue w t.arr.fpc (f.t.gen (1 + p)) a.v.toNat b.v.toNat x.v.toNat
      let u := if r.rng = f.t.gen (1 + p) then f.t else f.t.mapSeq (fun q => { q with gens := tblInsert q.gens (1 + p) r.rng })
      .ok ({ f with t := u, fl := f.fl ||| r.fl }.result t.arr.rb p w ⟨BitVec.ofNat 32 r.v, true, pois⟩)

/-- `exit` (R228): the lowest PE that fires in a step gives EXITIX. -/
def StepFx.exitFn (f : StepFx) (t : Strand) (p : Nat) (w : Cw) : WordEnd :=
  let a := t.operand p w w.a w.ma
  let f := if t.popsLq p w then { f with pops := f.pops ++ [p] } else f
  if !a.valid then .ok f
  else if a.p then .cause 0x0D 0 (256 * p + w.a) f.m
  else if a.v = 0 then .ok f
  else .ok { f with exit := match f.exit with | some k => some k | none => some (t.arr.ix w.stg) }

/-- The counters of `iter` (R230). -/
def Arr.counter (a : Arr) (x : Nat) : Nat :=
  match x with | 0 => a.p | 1 => a.iter | 2 => a.trip | 3 => b2n a.exit | _ => a.exitix

/-- Execute the word of one PE (R208). -/
def StepFx.word (f : StepFx) (sn : Nat) (t : Strand) (p : Nat) : WordEnd :=
  let w := t.cwNow p
  match w.fn with
  | 0x00 => .ok f
  | 0x2B => f.narrowFn t p w
  | 0x2C => f.narrowFn t p w
  | 0x35 => f.memFn sn t p w
  | 0x36 => f.memFn sn t p w
  | 0x37 => f.ringFn t p w
  | 0x38 => f.ringFn t p w
  | 0x39 => f.ringFn t p w
  | 0x3B => f.exitFn t p w
  | 0x3C =>
    if t.token w.x then .ok ({ f with toks := f.toks ++ [w.x] }.result t.arr.rb p w ⟨1, true, false⟩)
    else .ok (f.result t.arr.rb p w ⟨0, false, false⟩)
  | 0x3D => .ok (f.result t.arr.rb p w ⟨BitVec.ofNat 32 (t.arr.counter w.x), true, false⟩)
  | _ => f.valueFn t p w

/-- Execute the words of the PEs in increasing id (R192, R193). DESIGN CHOICE (log entry 46): of several words of a step that raise a cause,
the one of the lowest PE id raises it. -/
def StepFx.words (sn : Nat) (t : Strand) : StepFx → List Nat → WordEnd
  | f, [] => .ok f
  | f, p :: ps =>
    match f.word sn t p with
    | .ok f => StepFx.words sn t f ps
    | r => r

/-! ### The commit (R192, R194, R210) -/

/-- A result lands in its register and in the latch. -/
def Pe.put (e : Pe) (dest : Nat) (v : AV) : Pe :=
  { e with regs := if dest < 64 then tblPut .zero e.regs dest v else e.regs, latch := v }

/-- Insert by order of issue. -/
def insFlight (x : Flight) : List Flight → List Flight
  | [] => [x]
  | y :: ys => if x.ord < y.ord then x :: y :: ys else y :: insFlight x ys

/-- Age the flight registers by one: those that reach 0 write their results, in order of issue. -/
def Pe.age (e : Pe) : Pe :=
  let fs := e.flight.map (fun f => { f with rem := f.rem - 1 })
  let land := (fs.filter (fun f => decide (f.rem = 0))).foldr insFlight []
  land.foldl (fun e f => e.put f.dest f.val) { e with flight := fs.filter (fun f => decide (f.rem ≠ 0)) }

/-- The flight register a result takes (R210). -/
def Pe.freeFlight (e : Pe) : Nat := ((span 0 8).find? (fun k => !(e.flight.any (fun f => decide (f.reg = k))))).getD 8

/-- A result of the step: landed at once for latency 1, else put into a flight register. -/
def Pe.issueResult (e : Pe) (dest : Nat) (v : AV) (lat ord : Nat) : Pe :=
  if lat = 1 then e.put dest v else { e with flight := e.flight ++ [⟨e.freeFlight, v, dest, lat - 1, ord⟩] }

/-- A context block takes effect (R189, R190). -/
def Strand.applyBlock (t : Strand) (b : CtxBlock) : Strand :=
  let ii := bitsOf b.hdr 0 6 + 1
  let ent := bitsOf b.hdr 16 6
  let pes := (span 0 16).map (fun p =>
    let e := t.pe p
    let cw := tblPutAll 0 e.cw ent (slice b.words (ii * p) ii)
    match b.consts with
    | some ks => { e with cw := cw, k := tblPutAll 0 e.k 0 (slice ks (8 * p) 8) }
    | none => { e with cw := cw })
  t.mapArrX (fun a => { a with pes := pes, hdrs := tblPut none a.hdrs (bitsOf b.hdr 12 3) (some b.hdr) })

/-- The shadow takes effect, if it is full (R190). -/
def Strand.applyShadow (t : Strand) : Strand :=
  match t.arr.shadow with
  | some b => (t.applyBlock b).mapArr (fun a => { a with shadow := none })
  | none => t

/-- Wrap (R197). -/
def Strand.wrap (t : Strand) : Strand :=
  let a := t.arr
  let enters := decide (a.st = .run) && !a.exit && (decide (a.trip = 0) || decide (a.iter < a.trip))
  let svm := (2 * a.svm + b2n enters) % 2 ^ a.nstg
  let st := if a.st = .run ∧ enters = false then ASt.drain else a.st
  let t := match a.sqp with | some v => t.mapArrX (fun x => { x with sq := v }) | none => t
  let t := t.applyShadow
  t.mapArr (fun a => { a with svm := svm, iter := (a.iter + b2n enters) % 2 ^ 32, st := if svm = 0 then .flush else st, rb := (a.rb + 31) % 32,
                              p := (a.p + 1) % 2 ^ 32, row := 0, sqp := none })

/-- The commit of a step (R192), at a clock. -/
def StepFx.commit (f : StepFx) (sn clock : Nat) : Strand :=
  let t := f.t
  let ord := t.arrx.ord
  let pes := t.arrx.pes.map Pe.age
  let t := t.mapArrX (fun a => { a with pes := pes, ord := ord + 1, held := false, await := false, parked := none })
  let t := f.writes.foldl (fun t w => t.modPe w.1 (fun e => e.issueResult w.2.1 w.2.2.1 w.2.2.2 ord)) t
  let t := f.pops.foldl (fun t p => t.modPe p (fun e => { e with lq := e.lq.drop 1 })) t
  let t := f.allocs.foldl (fun t x => t.modPe x.1 (fun e => { e with lq := e.lq ++ [{ x.2 with due := clock + x.2.due }] })) t
  let t := f.pushes.foldl (fun t x => t.modPe x.1 (fun e => { e with sq := e.sq ++ [x.2] })) t
  let t := f.toks.foldl (fun t c => t.takeToken c) t
  let t := t.mapArr (fun a => match f.exit with | some k => if a.exit then a else { a with exit := true, exitix := k } | none => a)
  let acks := (f.stores.map (fun x => x.parts.countP (fun p => p.place.remote (dieOfSn sn)))).sum
  let t := (t.mapSeq (fun q => { q with stores := q.stores ++ f.stores })).mapCtl (fun c => { c with ackcnt := c.ackcnt + acks })
  let t := (t.addFl f.fl).progress
  if t.arr.row + 1 = t.arr.ii then t.wrap else t.mapArr (fun a => { a with row := a.row + 1 })

/-! ### Race checks of a step (R193) -/

/-- How the checks of a step's accesses end. -/
inductive Checks where
  | pass (s : State)
  | hold (s : State)
  | race (c : Conflict) (va : Nat) (s : State)

/-- The home slices check the accesses of a step on RC pages, in order (R131, R193): each records the access and answers. -/
def State.checkParts (sn : Nat) (t : Strand) : State → List (Bool × Part) → Checks
  | s, [] => .pass s
  | s, (wr, p) :: ps =>
    if !p.rc then State.checkParts sn t s ps
    else match s.mem.at s.clock (t.who sn 0 true (stepAcc p.va)) (if wr then .write else .read) p.place p.n id with
      | .ok r m => State.checkParts sn t ((s.setMem m).supp sn 0 r.passed) ps
      | .hold m => .hold (s.setMem m)
      | .badBacking _ m => .hold (s.setMem m)
      | .race c m => .race c p.va (s.setMem m)

/-- The parts of an access on RC pages are performed with their checks, so that nothing a record holds is still to be done when a release ends its
region (R129, R133): the parts, those performed marked done. An access that follows an earlier one that is still to be performed waits (R117). -/
def State.performParts (sn : Nat) (t : Strand) (wr : Bool) : State → List Part → Except State (List Part × State)
  | s, [] => .ok ([], s)
  | s, p :: ps =>
    match (if !p.rc then RP.ok p.data false s
           else if t.blocked t.seq.seq true p then RP.hold s
           else if wr then s.writePart sn t 0 (stepAcc p.va) (.ls p.sco) { p with rc := false }
           else s.readPart sn t 0 (stepAcc p.va) { p with rc := false }) with
    | .ok d _ s =>
      (match State.performParts sn t wr s ps with
       | .ok (l, s) => .ok ((if p.rc then { p with done := true, data := if wr then p.data else d } else p) :: l, s)
       | .error s => .error s)
    | .hold s => .error s
    | .race _ s => .error s

/-- The accesses of a step in order, each with its identity and its parts as performed. -/
def State.performAccs (sn : Nat) (t : Strand) : State → List (Nat × Bool × List Part) → Except State (List (Nat × List Part) × State)
  | s, [] => .ok ([], s)
  | s, (id, wr, ps) :: xs =>
    match State.performParts sn t wr s ps with
    | .error s => .error s
    | .ok (l, s) =>
      match State.performAccs sn t s xs with
      | .ok (ls, s) => .ok ((id, l) :: ls, s)
      | .error s => .error s

/-- What a step has gathered, with the parts of its accesses as performed. -/
def StepFx.performed (f : StepFx) (l : List (Nat × List Part)) : StepFx :=
  let parts := fun (id : Nat) (ps : List Part) => ((l.find? (fun x => decide (x.1 = id))).map (·.2)).getD ps
  { f with
    allocs := f.allocs.map (fun a => (a.1, if a.2.filled then a.2 else { a.2 with parts := parts a.2.id a.2.parts }))
    stores := f.stores.map (fun x => { x with parts := parts x.id x.parts }) }

/-! ### The steps -/

/-- The 16 PE ids. -/
def peIds : List Nat := span 0 16

/-- A step of the array, `answered` when the check replies of its accesses have arrived (R192, R193). -/
def State.arrayRow (s : State) (sn : Nat) (t : Strand) (answered : Bool) : State :=
  let hold := fun (s : State) => s.modStrand sn (fun t => t.mapArrX (fun a => { a with held := true, await := false }))
  let discard := fun (m : Mem) => ((s.setMem { s.mem with draws := m.draws }).modStrand sn (fun t => t.mapArrX (fun a => { a with await := false, held := false })))
  if t.holds peIds t then hold s
  else match StepFx.words sn t ⟨t, s.mem, 0, [], [], [], [], [], [], none, [], []⟩ peIds with
    | .cause c d v m => (discard m).engineTrap sn c 1 d v
    | .park v k e l wr m =>
      let (w, s) := (discard m).parkRecord sn 0 v k e l wr false
      s.modStrand sn (fun t => t.mapArrX (fun a => { a with parked := some w }))
    | .hold m => hold (discard m)
    | .ok f =>
      let acks := (f.stores.map (fun x => x.parts.countP (fun p => p.place.remote (dieOfSn sn)))).sum
      if decide (0 < acks) && decide (1024 < t.seq.ctl.ackcnt + acks) then hold (discard f.m)
      else
        let parts := f.accs.flatMap (fun x => x.2.2.map (fun p => (x.2.1, p)))
        if parts.any (·.2.rc) then
          if !answered then (s.setMem { s.mem with tlb := f.m.tlb, draws := f.m.draws }).modStrand sn
            (fun t => t.mapArrX (fun a => { a with await := true, held := false }))
          else match State.checkParts sn t (s.setMem f.m) parts with
            | .pass s' =>
              (match State.performAccs sn t s' f.accs with
               | .ok (l, s') => s'.modStrand sn (fun u => (((f.performed l).commit sn s.clock).mapCtl (fun c =>
                   { c with raceinfo := u.seq.ctl.raceinfo, supcnt := u.seq.ctl.supcnt })).mapSeq (fun q => { q with acks := u.seq.acks }))
               | .error s' => s.setMem { s.mem with spills := s'.mem.spills, draws := s'.mem.draws })
            | .hold s' => s.setMem { s.mem with spills := s'.mem.spills, draws := s'.mem.draws }
            | .race c va s' => (discard s'.mem).engineRace sn 1 0 va c
        else (s.setMem f.m).setStrand sn (f.commit sn s.clock)

/-- Whether the array of a strand takes a step on an offered slot: its loop runs, it does not await replies, and it is not parked before a
flush (R191, R193, R201). -/
def State.arrayReady (s : State) (sn : Nat) (t : Strand) : Bool :=
  t.engineOn 1 && !t.arrx.await && (match t.arrx.parked with | some (_, g) => s.flushed sn g | none => true)

/-- ARRAY_STEP (R192): one row of the strand's loop on an offered slot. -/
def execArrayStep (s : State) : Host.Outcome State Fault Refusal :=
  s.forStrand fun sn t =>
    if s.arrayReady sn t && (decide (t.arr.st = .run) || decide (t.arr.st = .drain)) then
      (s.setStrand sn (t.mapArrX (fun a => { a with parked := none }))).arrayRow sn (t.mapArrX (fun a => { a with parked := none })) false
    else s

/-- ARRAY_CHECKS_ANSWERED (R193): the check replies of a step's accesses arrive, and the step commits or is discarded. -/
def execArrayChecksAnswered (s : State) : Host.Outcome State Fault Refusal :=
  s.forStrand fun sn t => if t.arrx.await && t.engineOn 1 then s.arrayRow sn t true else s

/-- The partly filled outlier tiles of a loop are completed and pushed (R217). -/
def State.finishOutl (s : State) (sn : Nat) (t : Strand) : State :=
  t.arrx.outl.foldl (fun s o =>
    match s.strand? sn with
    | some t =>
      let r := OutlSt.finish ⟨t, s.mem, some o⟩
      (s.setMem r.m).setStrand sn (r.t.mapArrX (fun a => { a with outl := [] }))
    | none => s) s

/-- The places in program order at which finished loops began and ended, with the loop that ends now (R117): those of loops with a store still to
be performed. -/
def Strand.pastLoops (t : Strand) : List (Nat × Nat) :=
  (t.arrx.past ++ [(t.arrx.seq, t.seq.seq)]).filter (fun l => t.seq.stores.any (fun x => x.arr && decide (l.1 ≤ x.seq) && decide (x.seq < l.2)))

/-- The end of a loop (R199): the load queues are emptied, the shadow takes effect, the finish token is set, and ST becomes IDLE. -/
def Strand.loopFinish (t : Strand) : Strand :=
  let t := t.mapArrX (fun a => { a with past := t.pastLoops, pes := a.pes.map (fun e => { e with lq := [] }) })
  ((t.applyShadow.setToken t.arr.fch).mapArr (fun a => { a with st := .idle })).progress

/-- Whether an outlier tile of the strand's rings waits behind tiles reserved before it: the rings that the loop's words capture into. -/
def Strand.outlBehind (t : Strand) : Bool :=
  peIds.any (fun p => (span t.arr.ent t.arr.ii).any (fun e =>
    let w := t.cwAt p e
    (decide (w.fn = 0x2B) || decide (w.fn = 0x2C)) && bitOf w.x 3 &&
      ((t.ring ((tblGet 0 (t.pe p).k 7).toNat % 16)).resv.any (·.landed))))

/-- ARRAY_FLUSH_SLOT (R199): in FLUSH an offered slot ages the flight registers by one; the loop finishes when none is held, every
load-queue entry is filled, every store has been issued and the store queues are empty. -/
def execArrayFlushSlot (s : State) : Host.Outcome State Fault Refusal :=
  s.forStrand fun sn t =>
    if t.engineOn 1 && decide (t.arr.st = .flush) then
      let aged := t.arrx.pes.any (fun e => !e.flight.isEmpty)
      let t := t.mapArrX (fun a => { a with pes := a.pes.map Pe.age, held := false })
      let t := if aged then t.progress else t
      if t.arrx.pes.all (fun e => e.flight.isEmpty && e.sq.isEmpty && e.lq.all (·.filled)) then
        let s := (s.setStrand sn t).finishOutl sn t
        s.modStrand sn (fun t => if t.outlBehind then t else t.loopFinish)
      else s.setStrand sn t
    else s

/-- The earlier stores to the window whose bytes a load of the window reads are performed at the bank before it (R117, R226). -/
def State.windowStores (s : State) (sn seq : Nat) (p : Part) : State :=
  match s.strand? sn with
  | none => s
  | some t =>
    t.seq.stores.foldl (fun s x => x.parts.foldl (fun s y =>
      match y.place, s.strand? sn with
      | .bank b off, some u =>
        if !y.done && y.overlaps p && t.ordered x.seq x.arr seq true && !x.rc && !u.blocked x.seq x.arr y then
          (s.setMem (s.mem.bankWrite b off y.data)).setStrand sn
            (u.modStore x.id (fun x => { x with parts := x.parts.map (fun z => if z = y then { z with done := true } else z) }))
        else s
      | _, _ => s) s) s

/-- LOAD_QUEUE_FILL (R196): the next part of a load of the array is performed, at its bank or home or outside the package; with the last, the
entry takes Zext of the bytes, valid. -/
def execLoadQueueFill (s : State) : Host.Outcome State Fault Refusal :=
  s.forStrand fun sn t =>
    match (t.pe s.agent.b).lq[s.agent.c]? with
    | none => s
    | some x =>
      let put := fun (s : State) (y : LqEnt) => s.modStrand sn (fun t => (t.modPe s.agent.b (fun e => { e with lq := modAt (fun _ => y) e.lq s.agent.c })).progress)
      let fill := fun (y : LqEnt) =>
        if allDone y.parts then
          let l := partBytes y.parts
          { y with filled := true, val := ⟨BitVec.ofNat 32 (pbNat l), true, pbPois l⟩, parts := [] }
        else y
      if x.filled || x.cp then s
      else match nextPart x.parts with
        | none => put s (fill x)
        | some p =>
          let s := match p.place with | .bank _ _ => s.windowStores sn x.seq p | _ => s
          let t := (s.strand? sn).getD t
          if t.blocked x.seq true p then s
          else match s.readPart sn t 0 x.id { p with rc := false } with
            | .ok d _ s => put s (fill { x with parts := setPart (fun p => { p with done := true, data := d }) x.parts })
            | .hold s => s
            | .race _ s => s

end Sys2Proof.Machine
end

