-- ==== Sys2Proof/Machine/Sys.lean ====
section
/-! DEFINITION. The system functions (R149, R157, R174, R175) and the fences (R136-R139). -/
namespace Sys2Proof.Machine

/-- `nop` (R174). -/
def execNop (s : State) : Host.Outcome State Fault Refusal := s.onStrand fun sn t => s.setStrand sn (t.retire 4)

/-- `trapi` (R174): raises TRAPI; TVAL is the code. -/
def execTrapi (code : BitVec 8) (s : State) : Host.Outcome State Fault Refusal := s.onStrand fun sn _ => s.trap sn 0x0E 0 0 code.toNat

/-- `break` (R174): raises BREAK. -/
def execBrk (s : State) : Host.Outcome State Fault Refusal := s.onStrand fun sn _ => s.trap sn 0x0F 0 0 0

/-- `rett` (R157): ILLEGAL outside a handler. -/
def execRett (s : State) : Host.Outcome State Fault Refusal :=
  s.onStrand fun sn t => if t.seq.trap.intrap then s.rett sn else s.illegal sn Instr.rett.tval

/-- `crr` (R149, R174): the result is never poisoned. -/
def execCrr (gd : Reg) (creg : BitVec 12) (s : State) : Host.Outcome State Fault Refusal :=
  s.onStrand fun sn t =>
    if t.busy [gd] then s
    else match s.creg sn t creg.toNat with
      | some v => s.setStrand sn (t.done 4 gd v false)
      | none => s.trap sn 0x01 0 1 (Instr.crr gd creg).tval.toNat

/-- Whether a control register takes program writes (R148). -/
def cregWritable (n : Nat) : Bool := [0x009, 0x020, 0x021, 0x022, 0x023, 0x024, 0x040, 0x041, 0x050, 0x051, 0x070, 0x080, 0x081].any (fun m => decide (m = n))

/-- A write of a control register (R149): the number is checked first, then the operand's poison, then the value. -/
def cregOp (o : CregOp) (i : Instr) (ga : Reg) (creg : BitVec 12) (s : State) : Host.Outcome State Fault Refusal :=
  s.onStrand fun sn t =>
    if cregWritable creg.toNat = false then s.trap sn 0x01 0 1 i.tval.toNat
    else if t.busy [ga] then s
    else if t.gp ga then s.poisonTrap sn ga
    else match t.cregWrite o creg.toNat (t.g ga) with
      | none => s.trap sn 0x01 0 1 i.tval.toNat
      | some t' =>
        -- R151: a write of RETIRED leaves the value it gives
        s.setStrand sn (if creg = 0x009#12 then (t'.retire 4).mapCtl (fun c => { c with retired := t'.seq.ctl.retired }) else t'.retire 4)

/-- `crw` (R149). -/
def execCrw (ga : Reg) (creg : BitVec 12) : State → Host.Outcome State Fault Refusal := cregOp .w (.crw ga creg) ga creg
/-- `crs` (R149). -/
def execCrs (ga : Reg) (creg : BitVec 12) : State → Host.Outcome State Fault Refusal := cregOp .s (.crs ga creg) ga creg
/-- `crc` (R149). -/
def execCrc (ga : Reg) (creg : BitVec 12) : State → Host.Outcome State Fault Refusal := cregOp .c (.crc ga creg) ga creg

/-! ### What is performed (R117, R118) -/

/-- Paths of a mask: LS, CP, MX, AT, NM (R136). -/
def maskHas (m : Nat) (path : Nat) : Bool := bitOf m path

/-- Whether an access of the atomic path has been performed (R322): its update, or its code. -/
def Pend.performed : Pend → Bool
  | .atom _ upd _ _ _ _ => upd
  | .pin _ _ code => code.isSome
  | .node word => word.isSome
  | _ => true

/-- Whether a pending access travels on a path (R15). -/
def Pend.onPath (path : Nat) : Pend → Bool
  | .load _ _ => decide (path = 0)
  | .atom _ _ _ _ _ _ => decide (path = 3)
  | .pin _ _ _ => decide (path = 3)
  | .node _ => decide (path = 4)
  | .send _ _ => false

/-- Whether every tile of the strand's rings that has been written whole has landed (R142). -/
def Strand.tilesLanded (t : Strand) : Bool := t.str.rings.all (fun e => e.2.resv.all (fun x => !x.written || x.landed))

/-- Whether every access of the strand on a path, earlier in program order than `seq`, is performed at a scope (R117, R118, R124). -/
def Strand.performedBefore (t : Strand) (die scope seq path : Nat) : Bool :=
  match path with
  | 0 => t.undoneLS.all (fun x => x.performedAt die scope || !t.earlier x.seq x.arr seq)
  | 1 => t.tilesLanded && t.str.queue.all (fun e => decide (seq ≤ e.seq)) &&
      t.str.ags.all (fun e => decide (e.2.run = .stopped) || !e.2.bind || decide (seq ≤ e.2.seq))
  | 2 => t.mx.queue.all (fun e => decide (seq ≤ e.seq))
  | 3 => t.seq.loads.all (fun a => decide (seq ≤ a.seq) || !a.kind.onPath 3 || a.kind.performed) && t.seq.reds.all (fun a => decide (seq ≤ a.seq))
  | _ => t.seq.loads.all (fun a => decide (seq ≤ a.seq) || !a.kind.onPath 4 || a.kind.performed)

/-- The same for every path of a mask, with ACKCNT = 0 at die scope or wider (R125, R137, R138). -/
def Strand.performedAll (t : Strand) (die scope seq mask : Nat) : Bool :=
  ((span 0 5).all (fun p => !maskHas mask p || t.performedBefore die scope seq p)) && (decide (scope < 3) || decide (t.seq.ctl.ackcnt = 0))

/-- Whether every read on the paths of a mask is performed (R137): an LS store needs not be. -/
def Strand.readsDone (t : Strand) (die seq mask : Nat) : Bool :=
  (span 0 5).all (fun p => !maskHas mask p ||
    (if p = 0 then t.undoneLS.all (fun x => x.wr || x.part.done || !t.earlier x.seq x.arr seq)
     else t.performedBefore die 0 seq p))

/-- Whether a barrier of the queues holds back an access on a path with a place in program order (R137, R138). -/
def Strand.barred (t : Strand) (die seq path : Nat) : Bool :=
  t.seq.barriers.any (fun b => decide (b.seq ≤ seq) && maskHas b.dst path &&
    !(if b.readsOnly then t.readsDone die b.seq b.src else t.performedAll die b.scope b.seq b.src))

/-- Place a barrier in the queues of the engines a mask names, dropping barriers that hold nothing back any more. -/
def Strand.addBarrier (t : Strand) (die src dst : Nat) (readsOnly : Bool) (scope : Nat) : Strand :=
  let t := t.nextSeq
  t.mapSeq (fun q => { q with barriers := q.barriers.filter (fun b =>
      !(if b.readsOnly then t.readsDone die b.seq b.src else t.performedAll die b.scope b.seq b.src)) ++ [⟨q.seq, src, dst, readsOnly, scope⟩] })

/-- The acquire part of a fence (R137), after its release part if it has one. -/
def fenceAcquire (scope pmask : Nat) (s : State) (sn : Nat) (t : Strand) : State :=
  if maskHas pmask 0 then
    if t.readsDone (dieOfSn sn) t.seq.seq pmask then
      let s := s.setStrand sn (t.retire 4)
      if 2 ≤ scope then s.invalL1 (coreOfSn sn) else s
    else s
  else s.setStrand sn ((t.addBarrier (dieOfSn sn) pmask pmask true 0).retire 4)

/-- `fence` (R137). A release waits for the accesses it covers and for ACKCNT, ends the region, and completes when every slice has
entered it (R129); an acquire follows it. -/
def execFence (ord scope : BitVec 3) (pmask : BitVec 5) (s : State) : Host.Outcome State Fault Refusal :=
  s.onStrand fun sn t =>
    if fenceLegal ord scope pmask = false then s.illegal sn (Instr.fence ord scope pmask).tval
    else if ord = 1#3 then fenceAcquire scope.toNat pmask.toNat s sn t
    else match t.seq.wait with
      | .release q =>
        if s.relDone sn q then
          (if ord = 2#3 then s.setStrand sn (t.retire 4) else fenceAcquire scope.toNat pmask.toNat s sn t)
        else s
      | _ =>
        if t.performedAll (dieOfSn sn) scope.toNat t.seq.seq pmask.toNat && s.canRelease sn t then
          s.endRegion sn |>.modStrand sn (·.setWait (.release t.seq.ctl.cseq))
        else s

/-- `fencex` (R138): the sequencer stalls when LS is in DMASK; otherwise the barrier is placed in the queues named. -/
def execFencex (smask dmask : BitVec 5) (scope : BitVec 3) (s : State) : Host.Outcome State Fault Refusal :=
  s.onStrand fun sn t =>
    if fencexLegal smask dmask scope = false then s.illegal sn (Instr.fencex smask dmask scope).tval
    else if maskHas dmask.toNat 0 then
      if t.performedAll (dieOfSn sn) scope.toNat t.seq.seq smask.toNat then
        let s := s.setStrand sn (t.retire 4)
        if smask.toNat / 2 ≠ 0 then s.invalL1 (coreOfSn sn) else s
      else s
    else s.setStrand sn ((t.addBarrier (dieOfSn sn) smask.toNat dmask.toNat false scope.toNat).retire 4)

/-- Whether every command of the strand has completed and every access is performed, with ACKCNT = 0 (R175). -/
def Strand.quiet (t : Strand) : Bool :=
  t.seq.loads.isEmpty && t.seq.stores.isEmpty && t.seq.reds.isEmpty && t.mx.queue.isEmpty && t.str.queue.isEmpty &&
  t.str.ags.all (fun e => decide (e.2.run = .stopped) || !e.2.bind) && t.arrx.pes.all (fun e => e.lq.all (fun x => x.cp || x.filled || allDone x.parts)) &&
  decide (t.seq.ctl.ackcnt = 0)

/-- `halt` (R175): LOOP while the strand's loop runs; else it waits for every command and access, ends the region, and when that release
is complete the strand is ready to end (STRAND_END). -/
def execHalt (s : State) : Host.Outcome State Fault Refusal :=
  s.onStrand fun sn t =>
    if t.arr.st ≠ .idle then s.trap sn 0x0C 0 0x80 0
    else match t.seq.wait with
      | .release q => if s.relDone sn q then s.setStrand sn (t.setWait .halted) else s
      | .halted => s
      | _ =>
        if t.quiet && s.canRelease sn t then s.endRegion sn |>.modStrand sn (·.setWait (.release t.seq.ctl.cseq)) else s

end Sys2Proof.Machine
end

