-- ==== Sys2Proof/Machine/Atomics.lean ====
section
/-! DEFINITION. Atomics and reductions (R320-R327), peer and host atomics (R328, R329), the cache instructions (R331-R335), and their
steps: ATOMIC_UPDATE, ATOMIC_REPLY, REDIRECT_LAND, REDIRECT_RETRY, HOST_ATOMIC_COMPLETION, COMPLETION_TIMEOUT. -/
namespace Sys2Proof.Machine

/-- A floating update, rounded to nearest even and never flushed (R60, R320). -/
def atomFadd (f : FFmt) (m b : Nat) : Nat × BitVec 10 :=
  let r := fpArith .add f 0 false false m b 0 0
  (r.bits, r.fl)

/-- The new word and the flags of an update of `w` bits (R320). -/
def atomNew (op : AtomOp) (w m b e : Nat) : Nat × BitVec 10 :=
  let s := sgn w
  match op with
  | .add => ((m + b) % 2 ^ w, 0)
  | .minS => (if s b < s m then b else m, 0)
  | .maxS => (if s m < s b then b else m, 0)
  | .minU => (if b < m then b else m, 0)
  | .maxU => (if m < b then b else m, 0)
  | .fadd32 => atomFadd .f32 m b
  | .fadd64 => atomFadd .f64 m b
  | .faddB2 =>
    let lo := atomFadd .bf16 (m % 65536) (b % 65536)
    let hi := atomFadd .bf16 (m / 65536) (b / 65536)
    (lo.1 + 65536 * hi.1, lo.2 ||| hi.2)
  | .and => (Nat.land m b, 0)
  | .or => (Nat.lor m b, 0)
  | .xor => (Nat.xor m b, 0)
  | .swap => (b, 0)
  | .inc => (if b ≤ m then 0 else (m + 1) % 2 ^ w, 0)
  | .dec => (if m = 0 ∨ b < m then b else m - 1, 0)
  | .cas => (if m = e then b else m, 0)

/-- Poison of the new word (R320). -/
def atomPois (op : AtomOp) (m e : Nat) (mp bp ep : Bool) : Bool :=
  match op with
  | .swap => bp
  | .cas => (decide (m = e) && bp) || mp || ep
  | _ => mp || bp

/-- The update of an atomic on the bytes of its word. -/
def Atom.apply (a : Atom) (old : List PB) : List PB :=
  let m := pbNat old
  pbOf (a.w / 8) (atomNew a.op a.w m a.b a.e).1 (atomPois a.op m a.e (pbPois old) a.bp a.ep)

/-- AOP is in the AOPSET of the strand's image (R324). -/
def State.aopIn (s : State) (t : Strand) (aop : Nat) : Bool := bitOf (s.instOf t.kinst).aopset aop

/-- Whether a redirect descriptor passes R326. -/
def redirOk (i : Inst) (w d : Nat) : Bool :=
  decide (bitsOf d 56 8 = 0) && decide (bitsOf d 20 5 = 0) && decide (bitsOf d 0 20 % (w / 8) = 0) &&
  decide (bitsOf d 40 8 < i.w) && decide (bitsOf d 48 8 < i.h)

/-- Whether the release part of an order, or its acquire part, applies (R116, R322). -/
def ordRel (o : BitVec 3) : Bool := decide (2 ≤ o.toNat)
def ordAcq (o : BitVec 3) : Bool := decide (o = 1#3) || decide (3 ≤ o.toNat)

/-- Issue an atomic or reduction that has passed its checks (R322): its release part, then its entry in the load table or among the
reductions, then its acquire part as a barrier of path AT. -/
def State.issueAtom (s : State) (sn : Nat) (t : Strand) (gd : Reg) (a : Atom) (va : Nat) (p : Part) (ord scope : BitVec 3) : State :=
  let ready := match t.seq.wait with | .release q => s.relDone sn q | .released => true | _ => !ordRel ord
  let remote := p.place.remote (dieOfSn sn)
  let older := t.seq.loads ++ t.seq.reds
  if !ready then
    (match t.seq.wait with
     | .release _ => s
     | _ =>
       if t.performedAll (dieOfSn sn) scope.toNat t.seq.seq 8 && s.canRelease sn t then
         s.endRegion sn |>.modStrand sn (·.setWait (.release t.seq.ctl.cseq))
       else s)
  else if (p.sco && older.any (fun x => x.kind.onPath 3 && (!x.kind.performed || x.ack) && x.parts.any (·.sco))) ||
      (remote && decide (1024 ≤ t.seq.ctl.ackcnt)) then s.setStrand sn (t.setWait (if ordRel ord then .released else .none))
  else
    let x : Acc := ⟨t.seq.nextId, t.seq.seq, gd.toNat, va, .atom a false 0 false 0 false, [p], p.rc, remote⟩
    let t := t.nextAcc.nextSeq
    let t := t.mapSeq (fun q => if a.red then { q with reds := q.reds ++ [x] } else { q with loads := q.loads ++ [x] })
    let t := t.mapCtl (fun c => { c with ackcnt := c.ackcnt + b2n remote })
    let t := if ordAcq ord then t.addBarrier (dieOfSn sn) 8 8 true 0 else t
    s.setStrand sn (if p.rc then t.setWait (.check x.id) else (if a.red then t else t.setPend gd).retire 4)

/-- An AMO, AMOC or RED (R321): `aop` is its AOP, none for AMOC. -/
def atomOp (i : Instr) (op : AtomOp) (aop : Option Nat) (w : Nat) (sx red : Bool) (gd ga gb : Reg) (ord scope : BitVec 3) (s : State) :
    Host.Outcome State Fault Refusal :=
  s.onStrand fun sn t =>
    if (match aop with | some k => !s.aopIn t k | none => false) || !amoLegal ord scope then s.illegal sn i.tval
    else if t.busy [gd, ga, gb] then s
    else
      let ea := (t.g ga).toNat
      let d := (t.g gd).toNat
      if t.gp ga then s.poisonTrap sn ga
      else if red && decide (gd ≠ 0) && t.gp gd then s.poisonTrap sn gd
      else if red && decide (gd ≠ 0) && !redirOk (s.instOf t.kinst) w d then s.illegal sn i.tval
      else if inWindow ea || decide (ea % (w / 8) ≠ 0) then s.trap sn 0x12 0 0 ea
      else if (if red then decide (64 ≤ t.seq.reds.length) else t.loadFull) then s
      else match s.mem.page (coreOfSn sn) (partOfSn sn) ea .rw with
        | (.error (.trap c x v), m) => (s.setMem m).trap sn c 0 x v
        | (.error (.park v k e l), m) => (s.setMem m).park sn 3 v k e l true true
        | (.error _, _) => s
        | (.ok l, m) =>
          let a : Atom := ⟨op, w, (t.g gb).toNat % 2 ^ w, t.gp gb, if op = .cas then d % 2 ^ w else 0, decide (op = .cas) && t.gp gd, sx,
            if red && decide (gd ≠ 0) then some d else none, red, false⟩
          (s.setMem m).issueAtom sn t gd a ea (l.part ea (w / 8) []) ord scope

/-- AOP 0x00 of AMO (R324). -/
def execAmoadd32 (gd ga gb : Reg) (ord scope : BitVec 3) : State → Host.Outcome State Fault Refusal :=
  atomOp (.amoadd32 gd ga gb ord scope) .add (some 0) 32 false false gd ga gb ord scope
/-- AOP 0x01 of AMO (R324). -/
def execAmoadd64 (gd ga gb : Reg) (ord scope : BitVec 3) : State → Host.Outcome State Fault Refusal :=
  atomOp (.amoadd64 gd ga gb ord scope) .add (some 1) 64 false false gd ga gb ord scope
/-- AOP 0x02 of AMO (R324). -/
def execAmominI32 (gd ga gb : Reg) (ord scope : BitVec 3) : State → Host.Outcome State Fault Refusal :=
  atomOp (.amominI32 gd ga gb ord scope) .minS (some 2) 32 true false gd ga gb ord scope
/-- AOP 0x03 of AMO (R324). -/
def execAmominN32 (gd ga gb : Reg) (ord scope : BitVec 3) : State → Host.Outcome State Fault Refusal :=
  atomOp (.amominN32 gd ga gb ord scope) .minU (some 3) 32 false false gd ga gb ord scope
/-- AOP 0x04 of AMO (R324). -/
def execAmominI64 (gd ga gb : Reg) (ord scope : BitVec 3) : State → Host.Outcome State Fault Refusal :=
  atomOp (.amominI64 gd ga gb ord scope) .minS (some 4) 64 false false gd ga gb ord scope
/-- AOP 0x05 of AMO (R324). -/
def execAmominN64 (gd ga gb : Reg) (ord scope : BitVec 3) : State → Host.Outcome State Fault Refusal :=
  atomOp (.amominN64 gd ga gb ord scope) .minU (some 5) 64 false false gd ga gb ord scope
/-- AOP 0x06 of AMO (R324). -/
def execAmomaxI32 (gd ga gb : Reg) (ord scope : BitVec 3) : State → Host.Outcome State Fault Refusal :=
  atomOp (.amomaxI32 gd ga gb ord scope) .maxS (some 6) 32 true false gd ga gb ord scope
/-- AOP 0x07 of AMO (R324). -/
def execAmomaxN32 (gd ga gb : Reg) (ord scope : BitVec 3) : State → Host.Outcome State Fault Refusal :=
  atomOp (.amomaxN32 gd ga gb ord scope) .maxU (some 7) 32 false false gd ga gb ord scope
/-- AOP 0x08 of AMO (R324). -/
def execAmomaxI64 (gd ga gb : Reg) (ord scope : BitVec 3) : State → Host.Outcome State Fault Refusal :=
  atomOp (.amomaxI64 gd ga gb ord scope) .maxS (some 8) 64 false false gd ga gb ord scope
/-- AOP 0x09 of AMO (R324). -/
def execAmomaxN64 (gd ga gb : Reg) (ord scope : BitVec 3) : State → Host.Outcome State Fault Refusal :=
  atomOp (.amomaxN64 gd ga gb ord scope) .maxU (some 9) 64 false false gd ga gb ord scope
/-- AOP 0x0a of AMO (R324). -/
def execAmofaddF32 (gd ga gb : Reg) (ord scope : BitVec 3) : State → Host.Outcome State Fault Refusal :=
  atomOp (.amofaddF32 gd ga gb ord scope) .fadd32 (some 10) 32 false false gd ga gb ord scope
/-- AOP 0x0b of AMO (R324). -/
def execAmofaddF64 (gd ga gb : Reg) (ord scope : BitVec 3) : State → Host.Outcome State Fault Refusal :=
  atomOp (.amofaddF64 gd ga gb ord scope) .fadd64 (some 11) 64 false false gd ga gb ord scope
/-- AOP 0x0c of AMO (R324). -/
def execAmofaddBf16x2 (gd ga gb : Reg) (ord scope : BitVec 3) : State → Host.Outcome State Fault Refusal :=
  atomOp (.amofaddBf16x2 gd ga gb ord scope) .faddB2 (some 12) 32 false false gd ga gb ord scope
/-- AOP 0x0d of AMO (R324). -/
def execAmoand32 (gd ga gb : Reg) (ord scope : BitVec 3) : State → Host.Outcome State Fault Refusal :=
  atomOp (.amoand32 gd ga gb ord scope) .and (some 13) 32 false false gd ga gb ord scope
/-- AOP 0x0e of AMO (R324). -/
def execAmoand64 (gd ga gb : Reg) (ord scope : BitVec 3) : State → Host.Outcome State Fault Refusal :=
  atomOp (.amoand64 gd ga gb ord scope) .and (some 14) 64 false false gd ga gb ord scope
/-- AOP 0x0f of AMO (R324). -/
def execAmoor32 (gd ga gb : Reg) (ord scope : BitVec 3) : State → Host.Outcome State Fault Refusal :=
  atomOp (.amoor32 gd ga gb ord scope) .or (some 15) 32 false false gd ga gb ord scope
/-- AOP 0x10 of AMO (R324). -/
def execAmoor64 (gd ga gb : Reg) (ord scope : BitVec 3) : State → Host.Outcome State Fault Refusal :=
  atomOp (.amoor64 gd ga gb ord scope) .or (some 16) 64 false false gd ga gb ord scope
/-- AOP 0x11 of AMO (R324). -/
def execAmoxor32 (gd ga gb : Reg) (ord scope : BitVec 3) : State → Host.Outcome State Fault Refusal :=
  atomOp (.amoxor32 gd ga gb ord scope) .xor (some 17) 32 false false gd ga gb ord scope
/-- AOP 0x12 of AMO (R324). -/
def execAmoxor64 (gd ga gb : Reg) (ord scope : BitVec 3) : State → Host.Outcome State Fault Refusal :=
  atomOp (.amoxor64 gd ga gb ord scope) .xor (some 18) 64 false false gd ga gb ord scope
/-- AOP 0x13 of AMO (R324). -/
def execAmoswap32 (gd ga gb : Reg) (ord scope : BitVec 3) : State → Host.Outcome State Fault Refusal :=
  atomOp (.amoswap32 gd ga gb ord scope) .swap (some 19) 32 false false gd ga gb ord scope
/-- AOP 0x14 of AMO (R324). -/
def execAmoswap64 (gd ga gb : Reg) (ord scope : BitVec 3) : State → Host.Outcome State Fault Refusal :=
  atomOp (.amoswap64 gd ga gb ord scope) .swap (some 20) 64 false false gd ga gb ord scope
/-- AOP 0x15 of AMO (R324). -/
def execAmoinc32 (gd ga gb : Reg) (ord scope : BitVec 3) : State → Host.Outcome State Fault Refusal :=
  atomOp (.amoinc32 gd ga gb ord scope) .inc (some 21) 32 false false gd ga gb ord scope
/-- AOP 0x16 of AMO (R324). -/
def execAmoinc64 (gd ga gb : Reg) (ord scope : BitVec 3) : State → Host.Outcome State Fault Refusal :=
  atomOp (.amoinc64 gd ga gb ord scope) .inc (some 22) 64 false false gd ga gb ord scope
/-- AOP 0x17 of AMO (R324). -/
def execAmodec32 (gd ga gb : Reg) (ord scope : BitVec 3) : State → Host.Outcome State Fault Refusal :=
  atomOp (.amodec32 gd ga gb ord scope) .dec (some 23) 32 false false gd ga gb ord scope
/-- AOP 0x18 of AMO (R324). -/
def execAmodec64 (gd ga gb : Reg) (ord scope : BitVec 3) : State → Host.Outcome State Fault Refusal :=
  atomOp (.amodec64 gd ga gb ord scope) .dec (some 24) 64 false false gd ga gb ord scope
/-- AOP 0x00 of RED (R324). -/
def execRedadd32 (gd ga gb : Reg) (ord scope : BitVec 3) : State → Host.Outcome State Fault Refusal :=
  atomOp (.redadd32 gd ga gb ord scope) .add (some 0) 32 false true gd ga gb ord scope
/-- AOP 0x01 of RED (R324). -/
def execRedadd64 (gd ga gb : Reg) (ord scope : BitVec 3) : State → Host.Outcome State Fault Refusal :=
  atomOp (.redadd64 gd ga gb ord scope) .add (some 1) 64 false true gd ga gb ord scope
/-- AOP 0x02 of RED (R324). -/
def execRedminI32 (gd ga gb : Reg) (ord scope : BitVec 3) : State → Host.Outcome State Fault Refusal :=
  atomOp (.redminI32 gd ga gb ord scope) .minS (some 2) 32 true true gd ga gb ord scope
/-- AOP 0x03 of RED (R324). -/
def execRedminN32 (gd ga gb : Reg) (ord scope : BitVec 3) : State → Host.Outcome State Fault Refusal :=
  atomOp (.redminN32 gd ga gb ord scope) .minU (some 3) 32 false true gd ga gb ord scope
/-- AOP 0x04 of RED (R324). -/
def execRedminI64 (gd ga gb : Reg) (ord scope : BitVec 3) : State → Host.Outcome State Fault Refusal :=
  atomOp (.redminI64 gd ga gb ord scope) .minS (some 4) 64 false true gd ga gb ord scope
/-- AOP 0x05 of RED (R324). -/
def execRedminN64 (gd ga gb : Reg) (ord scope : BitVec 3) : State → Host.Outcome State Fault Refusal :=
  atomOp (.redminN64 gd ga gb ord scope) .minU (some 5) 64 false true gd ga gb ord scope
/-- AOP 0x06 of RED (R324). -/
def execRedmaxI32 (gd ga gb : Reg) (ord scope : BitVec 3) : State → Host.Outcome State Fault Refusal :=
  atomOp (.redmaxI32 gd ga gb ord scope) .maxS (some 6) 32 true true gd ga gb ord scope
/-- AOP 0x07 of RED (R324). -/
def execRedmaxN32 (gd ga gb : Reg) (ord scope : BitVec 3) : State → Host.Outcome State Fault Refusal :=
  atomOp (.redmaxN32 gd ga gb ord scope) .maxU (some 7) 32 false true gd ga gb ord scope
/-- AOP 0x08 of RED (R324). -/
def execRedmaxI64 (gd ga gb : Reg) (ord scope : BitVec 3) : State → Host.Outcome State Fault Refusal :=
  atomOp (.redmaxI64 gd ga gb ord scope) .maxS (some 8) 64 false true gd ga gb ord scope
/-- AOP 0x09 of RED (R324). -/
def execRedmaxN64 (gd ga gb : Reg) (ord scope : BitVec 3) : State → Host.Outcome State Fault Refusal :=
  atomOp (.redmaxN64 gd ga gb ord scope) .maxU (some 9) 64 false true gd ga gb ord scope
/-- AOP 0x0a of RED (R324). -/
def execRedfaddF32 (gd ga gb : Reg) (ord scope : BitVec 3) : State → Host.Outcome State Fault Refusal :=
  atomOp (.redfaddF32 gd ga gb ord scope) .fadd32 (some 10) 32 false true gd ga gb ord scope
/-- AOP 0x0b of RED (R324). -/
def execRedfaddF64 (gd ga gb : Reg) (ord scope : BitVec 3) : State → Host.Outcome State Fault Refusal :=
  atomOp (.redfaddF64 gd ga gb ord scope) .fadd64 (some 11) 64 false true gd ga gb ord scope
/-- AOP 0x0c of RED (R324). -/
def execRedfaddBf16x2 (gd ga gb : Reg) (ord scope : BitVec 3) : State → Host.Outcome State Fault Refusal :=
  atomOp (.redfaddBf16x2 gd ga gb ord scope) .faddB2 (some 12) 32 false true gd ga gb ord scope
/-- AOP 0x0d of RED (R324). -/
def execRedand32 (gd ga gb : Reg) (ord scope : BitVec 3) : State → Host.Outcome State Fault Refusal :=
  atomOp (.redand32 gd ga gb ord scope) .and (some 13) 32 false true gd ga gb ord scope
/-- AOP 0x0e of RED (R324). -/
def execRedand64 (gd ga gb : Reg) (ord scope : BitVec 3) : State → Host.Outcome State Fault Refusal :=
  atomOp (.redand64 gd ga gb ord scope) .and (some 14) 64 false true gd ga gb ord scope
/-- AOP 0x0f of RED (R324). -/
def execRedor32 (gd ga gb : Reg) (ord scope : BitVec 3) : State → Host.Outcome State Fault Refusal :=
  atomOp (.redor32 gd ga gb ord scope) .or (some 15) 32 false true gd ga gb ord scope
/-- AOP 0x10 of RED (R324). -/
def execRedor64 (gd ga gb : Reg) (ord scope : BitVec 3) : State → Host.Outcome State Fault Refusal :=
  atomOp (.redor64 gd ga gb ord scope) .or (some 16) 64 false true gd ga gb ord scope
/-- AOP 0x11 of RED (R324). -/
def execRedxor32 (gd ga gb : Reg) (ord scope : BitVec 3) : State → Host.Outcome State Fault Refusal :=
  atomOp (.redxor32 gd ga gb ord scope) .xor (some 17) 32 false true gd ga gb ord scope
/-- AOP 0x12 of RED (R324). -/
def execRedxor64 (gd ga gb : Reg) (ord scope : BitVec 3) : State → Host.Outcome State Fault Refusal :=
  atomOp (.redxor64 gd ga gb ord scope) .xor (some 18) 64 false true gd ga gb ord scope
/-- AOP 0x13 of RED (R324). -/
def execRedswap32 (gd ga gb : Reg) (ord scope : BitVec 3) : State → Host.Outcome State Fault Refusal :=
  atomOp (.redswap32 gd ga gb ord scope) .swap (some 19) 32 false true gd ga gb ord scope
/-- AOP 0x14 of RED (R324). -/
def execRedswap64 (gd ga gb : Reg) (ord scope : BitVec 3) : State → Host.Outcome State Fault Refusal :=
  atomOp (.redswap64 gd ga gb ord scope) .swap (some 20) 64 false true gd ga gb ord scope
/-- AOP 0x15 of RED (R324). -/
def execRedinc32 (gd ga gb : Reg) (ord scope : BitVec 3) : State → Host.Outcome State Fault Refusal :=
  atomOp (.redinc32 gd ga gb ord scope) .inc (some 21) 32 false true gd ga gb ord scope
/-- AOP 0x16 of RED (R324). -/
def execRedinc64 (gd ga gb : Reg) (ord scope : BitVec 3) : State → Host.Outcome State Fault Refusal :=
  atomOp (.redinc64 gd ga gb ord scope) .inc (some 22) 64 false true gd ga gb ord scope
/-- AOP 0x17 of RED (R324). -/
def execReddec32 (gd ga gb : Reg) (ord scope : BitVec 3) : State → Host.Outcome State Fault Refusal :=
  atomOp (.reddec32 gd ga gb ord scope) .dec (some 23) 32 false true gd ga gb ord scope
/-- AOP 0x18 of RED (R324). -/
def execReddec64 (gd ga gb : Reg) (ord scope : BitVec 3) : State → Host.Outcome State Fault Refusal :=
  atomOp (.reddec64 gd ga gb ord scope) .dec (some 24) 64 false true gd ga gb ord scope
/-- `amocas.32` (R325): the expected value is the old gd. -/
def execAmocas32 (gd ga gb : Reg) (ord scope : BitVec 3) : State → Host.Outcome State Fault Refusal :=
  atomOp (.amocas32 gd ga gb ord scope) .cas none 32 false false gd ga gb ord scope
/-- `amocas.64` (R325): the expected value is the old gd. -/
def execAmocas64 (gd ga gb : Reg) (ord scope : BitVec 3) : State → Host.Outcome State Fault Refusal :=
  atomOp (.amocas64 gd ga gb ord scope) .cas none 64 false false gd ga gb ord scope

/-! ### The update and its reply -/

/-- Change an access among the load table and the reductions. -/
def Strand.modAny (t : Strand) (id : Nat) (f : Acc → Acc) : Strand :=
  t.mapSeq (fun q => { q with loads := q.loads.map (fun a => if a.id = id then f a else a), reds := q.reds.map (fun a => if a.id = id then f a else a) })
/-- Drop an access of either, with its acknowledgement (R322). -/
def Strand.dropAny (t : Strand) (a : Acc) : Strand :=
  (t.mapSeq (fun q => { q with loads := q.loads.filter (fun x => decide (x.id ≠ a.id)), reds := q.reds.filter (fun x => decide (x.id ≠ a.id)) })).mapCtl
    (fun c => { c with ackcnt := c.ackcnt - b2n a.ack })
/-- The access of a strand with an identity. -/
def Strand.findAny (t : Strand) (id : Nat) : Option Acc := (t.seq.loads ++ t.seq.reds).find? (fun a => decide (a.id = id))

/-- The redirected value of a reduction on its way to its target (R327). -/
def redirOf (kinst slice : Nat) (i : Inst) (a : Atom) (d old : Nat) (pois : Bool) (status : Nat) : Redir :=
  ⟨kinst, i.lin (bitsOf d 40 8) (bitsOf d 48 8), slice, bitsOf d 0 20, a.w, old, pois, bitsOf d 20 20, stOr (stIf pois stPOISON) status, none⟩

/-- The update of an atomic has been made, with an old value and status bits of its access: record it for the reply, and send the old value
on where it is redirected. -/
def State.atomDone (s : State) (sn : Nat) (t : Strand) (x : Acc) (a : Atom) (slice old : Nat) (pois : Bool) (fl : BitVec 10) (link : Bool)
    (st : Nat) : State :=
  let t := (t.modAny x.id (fun x => { x with kind := .atom a true old pois fl link, parts := setPart (fun p => { p with done := true }) x.parts })).progress
  let s := s.setStrand sn t
  match a.redir with
  | some d => { s with redirs := s.redirs ++ [redirOf t.kinst slice (s.instOf t.kinst) a d old pois (stOr (stOr (statusOf fl) (stIf link stLINK)) st)] }
  | none => s

/-- Whether an earlier atomic of the strand to the same bytes, or to an SCO page, is still to be performed (R322). -/
def Strand.atomBlocked (t : Strand) (x : Acc) : Bool :=
  (t.seq.loads ++ t.seq.reds).any (fun y => decide (y.seq < x.seq) && y.kind.onPath 3 && !y.kind.performed &&
    (y.parts.any (fun p => x.parts.any (fun q => p.overlaps q)) || (y.parts.any (·.sco) && x.parts.any (·.sco))))

/-- The portal's or the edge's part of an atomic on a host or peer frame (R328, R329): it is sent once, a host one when a tag is free, with the
poison of its operands (R73); its answer is HOST_ATOMIC_COMPLETION's, or, from a peer, FORWARDED_ACCESS's. -/
def State.sendAtom (s : State) (sn : Nat) (t : Strand) (x : Acc) (a : Atom) (loc addr va : Nat) : State :=
  if allDone x.parts || (decide (loc = 1) && decide (256 ≤ s.hostOps.length)) then s
  else
    let t := t.modAny x.id (fun x => { x with parts := setPart (fun p => { p with done := true }) x.parts })
    let s := ((s.setStrand sn t).modMem (fun m => m.countLine (partOfSn sn) va true))
    { s with outs := s.outs ++ [.atomic (s.portFn loc (partOfSn sn)) loc addr a.op a.w (a.b, a.bp) (a.e, a.ep)],
             hostOps := if loc = 1 then s.hostOps ++ [⟨sn, x.id, s.clock⟩] else s.hostOps }

/-- ATOMIC_UPDATE (R320): the atomic unit of the home slice performs one update, with its race check (R131); an atomic on a host or peer
frame leaves the package. -/
def execAtomicUpdate (s : State) : Host.Outcome State Fault Refusal :=
  s.forStrand fun sn t =>
    match t.findAny s.agent.b with
    | none => s
    | some x =>
      match x.kind, x.parts with
      | .atom a false _ _ _ _, p :: _ =>
        if t.atomBlocked x || t.barred (dieOfSn sn) x.seq 3 then s
        else (match p.place with
          | .fwd loc addr va => s.sendAtom sn t x a loc addr va
          | pl =>
            match s.mem.at s.clock (t.who sn 3 x.rc x.id) .atomic pl p.n a.apply with
            | .hold m => s.setMem m
            | .badBacking _ m => s.setMem m
            | .race c m => ((s.setMem m).setStrand sn (t.dropAny x)).raceFail sn 4 3 x.va c
            | .ok r m =>
              let m0 := pbNat r.old
              let fl := (atomNew a.op a.w m0 a.b a.e).2
              let slice := match pl with | .frame pa => homeOfPa pa | .unb va hd _ _ => homeSlice hd (bitsOf va 7 32) | _ => 0
              ((s.setMem m).atomDone sn t x a slice m0 (pbPois r.old) fl false (stOr (stIf r.corr stECC) (stIf a.late stSHUTTER))).supp sn 3 r.passed)
      | _, _ => s

/-- gd of a returning atomic (R320, R324): a 32-bit value is extended, an error returns a poisoned zero (R328, R329). -/
def atomResult (a : Atom) (old : Nat) : W64 := if a.w = 32 then loadValue 4 a.sx old else BitVec.ofNat 64 old

/-- ATOMIC_REPLY (R322): the reply of an atomic or reduction sets gd and FPSTAT, frees its entry and its acknowledgement; one on an RC
page retires its instruction. -/
def execAtomicReply (s : State) : Host.Outcome State Fault Refusal :=
  s.forStrand fun sn t =>
    match t.findAny s.agent.b with
    | none => s
    | some x =>
      match x.kind with
      | .atom a true old pois fl _ =>
        let t := ((t.dropAny x).addFl fl).progress
        let t := if a.red then t else t.setG (BitVec.ofNat 5 x.dest) (atomResult a old) pois
        s.afterCheck sn x.rc t
      | _ => s

/-- The old value of an atomic on host or peer memory has come back, with its poison (R73, R328, R329): one that failed gives a poisoned zero and
LINK. -/
def State.outerAtom (s : State) (sn id : Nat) (ok : Bool) (old : Nat) (pois : Bool) : State :=
  match s.strand? sn with
  | none => s
  | some t =>
    match t.findAny id with
    | none => s
    | some x =>
      match x.kind with
      | .atom a false _ _ _ _ =>
        if ok then
          let fl := (atomNew a.op a.w (old % 2 ^ a.w) a.b a.e).2
          s.atomDone sn t x a (192 + sn) (old % 2 ^ a.w) pois fl false 0
        else s.atomDone sn t x a (192 + sn) 0 true 0 true 0
      | _ => s

/-- Take an AtomicOp's tag back. -/
def State.dropTag (s : State) (k : Nat) : State := { s with hostOps := dropAt s.hostOps k }

/-- HOST_ATOMIC_COMPLETION (R329): the completion of the AtomicOp with tag index k. -/
def execHostAtomicCompletion (k : Nat) (ok : Bool) (old : BitVec 64 × Bool) (s : State) : Host.Outcome State Fault Refusal :=
  match s.hostOps[k]? with
  | none => .next s
  | some h =>
    let s := (s.dropTag k).outerAtom h.sn h.acc ok old.1.toNat old.2
    .next (if ok then s else s.report (.portalError h.sn))

/-- COMPLETION_TIMEOUT (R329): the AtomicOp with the tag index of the agent has had no completion in time. -/
def execCompletionTimeout (s : State) : Host.Outcome State Fault Refusal :=
  match s.hostOps[s.agent.a]? with
  | none => .next s
  | some h => .next (((s.dropTag s.agent.a).outerAtom h.sn h.acc false 0 false).report (.portalError h.sn))

/-! ### Redirected values (R327) -/

/-- Whether an earlier value from the same slice is on its way to the same target. -/
def redirFirst (rs : List Redir) (k : Nat) (r : Redir) : Bool :=
  !((rs.take k).any (fun x => decide (x.slice = r.slice) && decide (x.kinst = r.kinst) && decide (x.tlin = r.tlin)))

/-- REDIRECT_LAND (R327): the value of the agent's index lands in the target's window and arrives at its object, or is refused and retried
after 256 ck; it is dropped when the instance has ended. DESIGN CHOICE (log entry 46): it waits while its slot or its object's slot drains, as a
delivery does (R268), and its arrival is made at any offset OBJ names. -/
def execRedirectLand (s : State) : Host.Outcome State Fault Refusal :=
  match s.redirs[s.agent.a]? with
  | none => .next s
  | some r =>
    let gone := { s with redirs := dropAt s.redirs s.agent.a }
    let refuse := { s with redirs := modAt (fun r => { r with retry := some (s.clock + 256) }) s.redirs s.agent.a }
    if r.retry.isSome || !redirFirst s.redirs s.agent.a r then .next s
    else if (s.inst? r.kinst).isNone then .next gone
    else match s.snOf r.kinst r.tlin with
      | none => if s.saved.any (fun x => decide (x.kinst = r.kinst) && decide (x.lin = r.tlin)) then .next refuse else .next gone
      | some sn =>
        match s.strand? sn with
        | none => .next gone
        | some t =>
          if t.run ≠ .running then .next refuse
          else match s.mem.slotAnsDrain t (r.dst / 65536), s.mem.slotAnsDrain t (r.obj / 65536) with
            | .bank b, .bank c =>
              if (t.slot (r.dst / 65536)).draining || (t.slot (r.obj / 65536)).draining then .next s
              else
                let m := s.mem.bankWrite b (r.dst % 65536) (pbOf (r.w / 8) r.val r.pois)
                .next ((gone.setMem (m.arrive c (r.obj % 65536) 1 r.status)).modStrand sn (·.progress))
            | _, _ => .next refuse

/-- A refused value whose retry has come due. -/
def Redir.again (clock : Nat) (r : Redir) : Redir :=
  match r.retry with
  | some c => if c ≤ clock then { r with retry := none } else r
  | none => r

/-- REDIRECT_RETRY (R327): a refused value is tried again once 256 ck have passed. -/
def execRedirectRetry (s : State) : Host.Outcome State Fault Refusal :=
  .next { s with redirs := modAt (Redir.again s.clock) s.redirs s.agent.a }

/-! ### Cache instructions (R331-R335) -/

/-- An access reaches a line: its use stamp is updated (R304). -/
def Mem.touch (m : Mem) (l : Line) : Mem := { m with stamp := m.stamp + 1 }.putLine { l with stamp := m.stamp }

/-- Pin the line of a physical address (R311, R332): the code, or none while the slice cannot fill it. DESIGN CHOICE (log entry 46): the partition
that pins a line owns it from then on. -/
def Mem.pinLine (m : Mem) (p pa : Nat) : Option Nat × Mem :=
  let s := homeOfPa pa
  let name := pa / 128
  let ways := (span 0 16).filter (fun w => bitOf (m.wmask p s) w)
  let pinned := fun w => (m.setLines s (setOf name)).any (fun l => decide (l.way = w) && l.pinned)
  match m.findLine s name with
  | some l =>
    if l.pinned then (some 1, m.touch l)
    else if ways.all pinned then (some 2, m.touch l)
    else (some 0, m.touch { l with pinned := true, part := p })
  | none =>
    if ways.all pinned then (some 2, m)
    else match m.physAcc (ownWho p) .read (name * 128) 1 id with
      | .ok _ m =>
        (match m.findLine s name with
         | some l => (some 0, m.putLine { l with pinned := true, part := p })
         | none => (some 2, m))
      | .hold m => (none, m)
      | .badBacking _ m => (none, m)
      | .race _ m => (none, m)

/-- Unpin the line of a physical address (R332). -/
def Mem.unpinLine (m : Mem) (pa : Nat) : Nat × Mem :=
  match m.findLine (homeOfPa pa) (pa / 128) with
  | some l => if l.pinned then (0, m.touch { l with pinned := false }) else (1, m.touch l)
  | none => (1, m)

/-- `pin` and `unpin` (R332): checked as R321, with a window address raising ATOM_ALIGN and PERM raised when R = 0; the code of a page
that cannot be pinned is known at once; on an RC page the instruction waits for its race check (R321, R322). -/
def pinOp (unpin : Bool) (gd ga : Reg) (s : State) : Host.Outcome State Fault Refusal :=
  s.onStrand fun sn t =>
    if t.busy [gd, ga] then s
    else
      let ea := (t.g ga).toNat
      if t.gp ga then s.poisonTrap sn ga
      else if inWindow ea then s.trap sn 0x12 0 0 ea
      else if t.loadFull then s
      else match s.mem.page (coreOfSn sn) (partOfSn sn) ea .r with
        | (.error (.trap c x v), m) => (s.setMem m).trap sn c 0 x v
        | (.error (.park v k e l), m) => (s.setMem m).park sn 3 v k e l false false
        | (.error _, _) => s
        | (.ok l, m) =>
          let bad := !l.pinEl || l.ub || decide (l.loc ≠ 0)
          let x : Acc := ⟨t.seq.nextId, t.seq.seq, gd.toNat, ea, .pin unpin bad (if bad && !l.rc then some 3 else none), [l.part ea 1 []], l.rc, false⟩
          let t := (t.nextAcc.nextSeq).mapSeq (fun q => { q with loads := q.loads ++ [x] })
          (s.setMem m).setStrand sn (if l.rc then t.setWait (.check x.id) else (t.setPend gd).retire 4)

/-- `pin` (R332). -/
def execPin (gd ga : Reg) : State → Host.Outcome State Fault Refusal := pinOp false gd ga
/-- `unpin` (R332). -/
def execUnpin (gd ga : Reg) : State → Host.Outcome State Fault Refusal := pinOp true gd ga

/-- Whether an earlier `pin` or `unpin` of the same line has not acted (R117, R332). -/
def Strand.pinBehind (t : Strand) (seq pa : Nat) : Bool :=
  t.seq.loads.any (fun b => decide (b.seq < seq) && (match b.kind with | .pin _ _ none => true | _ => false) &&
    b.parts.any (fun p => match p.place with | .frame q => decide (q / 128 = pa / 128) | _ => false))

/-- The slice and the set of a place, and the line that holds it there (R304, R312). -/
def Mem.lineAt (m : Mem) (p : Nat) (pl : Place) : (Nat × Nat) × Option Line :=
  match m.frameAt p pl, pl with
  | some pa, _ => ((homeOfPa pa, setOf (pa / 128)), m.findLine (homeOfPa pa) (pa / 128))
  | none, .unb va hd _ _ => ((homeSlice hd (bitsOf va 7 32), setOf (bitsOf va 7 32)), m.findUnb (homeSlice hd (bitsOf va 7 32)) p va)
  | none, _ => ((0, 0), none)

/-- The offset in its line of what a place names. -/
def Place.lineOff : Place → Nat
  | .frame pa => pa % 128
  | .unb va _ _ _ => va % 128
  | _ => 0

/-- The race check of a `pin` or `unpin` on an RC page, in the atomic row, at the granule of its address (R321). It touches no byte and leaves the
records as they are (log entry 46). -/
def State.pinConflict (s : State) (sn : Nat) (t : Strand) (a : Acc) (p : Part) : Option Conflict :=
  if a.rc then (s.mem.lineAt (partOfSn sn) p.place).2.bind (fun l => s.mem.lineConflict l (t.who sn 3 true a.id) .atomic p.place.lineOff 1) else none

/-- The pin step of an access at its home slice (R332), which waits while a mask change holds its set (R310). -/
def State.slicePin (s : State) (sn : Nat) (t : Strand) (a : Acc) (unpin bad : Bool) : State :=
  match a.parts with
  | [] => s
  | p :: _ =>
    let home := (s.mem.lineAt (partOfSn sn) p.place).1
    let pa := (s.mem.frameAt (partOfSn sn) p.place).getD 0
    if t.barred (dieOfSn sn) a.seq 3 || t.pinBehind a.seq pa || s.mem.setHeld home.1 home.2 then s
    else
      let c := s.pinConflict sn t a p
      match c, t.seq.ctl.supp with
      | some c, false => (s.setStrand sn (t.dropAcc a.id)).raceFail sn 4 3 a.va c
      | _, _ =>
        let r : Option Nat × Mem :=
          if bad then (some 3, s.mem)
          else if unpin then (some (s.mem.unpinLine pa).1, (s.mem.unpinLine pa).2)
          else s.mem.pinLine (partOfSn sn) pa
        ((s.setMem r.2).setStrand sn (t.modAcc a.id (fun a => { a with kind := .pin unpin bad r.1 }))).supp sn 3 (if r.1.isSome then c else none)

/-- The 4 KiB pages, with their parts, of a line range (R333). -/
def rangePages (va n : Nat) : List (Nat × Nat) := pieces (n / 4096 + 2) va n 4096

/-- Translate every page of a range, in increasing address, before any line is touched (R333, R334). -/
def Mem.rangeCheck (core p : Nat) (perm : Perm) (rcOk : Bool) (ga : Nat) : Mem → List (Nat × Nat) → Except Chk (List (Leaf × Nat × Nat)) × Mem
  | m, [] => (.ok [], m)
  | m, (va, n) :: rest =>
    match m.page core p va perm with
    | (.error c, m) => (.error c, m)
    | (.ok l, m) =>
      if l.rc && !rcOk then (.error (.trap 0x04 1 ga), m)
      else match Mem.rangeCheck core p perm rcOk ga m rest with
        | (.ok ls, m) => (.ok ((l, va, n) :: ls), m)
        | r => r

/-- The frame range behind a piece of a page of a partition that `Mem.page` has just accepted, which reads the backing entry unless a line of the part
stands at its home slice: the page's own frame, or the frame of a backed part (R345). -/
def Mem.frameOf (m : Mem) (p : Nat) (l : Leaf) (va : Nat) : Option Nat :=
  if l.ub then
    if (m.findUnb (homeSlice l.hdie (bitsOf va 7 32)) p va).isSome then none
    else
    let e := m.peek64 (backingEntry (bitsOf l.e 12 27 * 4096) va l.bits)
    if bitOf e 0 then some (bitsOf e 12 27 * 4096 + va % 4096) else none
  else if l.loc = 0 then some (l.paOf va) else none

/-- Whether a line is a backed line of a range of frames. -/
def Line.inFrames (l : Line) (pa n : Nat) : Bool := !l.unb && decide (pa ≤ 128 * l.name) && decide (128 * l.name < pa + n)

/-- Whether a range of pages meets a set that a mask change holds (R310). -/
def Mem.rangeHeld (m : Mem) (p : Nat) (ls : List (Leaf × Nat × Nat)) : Bool :=
  ls.any (fun x => (pieces x.2.2 x.2.1 x.2.2 128).any (fun y => let h := (m.lineAt p (x.1.place y.1)).1; m.setHeld h.1 h.2))

/-- Whether an earlier access of the strand on path AT to bytes of a range is still to be performed (R117). -/
def Strand.atBehind (t : Strand) (ls : List (Leaf × Nat × Nat)) : Bool :=
  (t.seq.loads ++ t.seq.reds).any (fun y => y.kind.onPath 3 && !y.kind.performed &&
    y.parts.any (fun p => ls.any (fun x => p.overlaps (x.1.part x.2.1 x.2.2 []))))

/-- Recall the edge entries of a range of frames (R328). -/
def Mem.recallRange (m : Mem) (pa n : Nat) : Mem :=
  (m.edge.filter (fun e => decide (pa ≤ e.pa) && decide (e.pa < pa + n))).foldl (fun m e => m.recall e.pa) m

/-- Drop the lines of a piece of a page, after the recall of their edge entries (R328, R333). -/
def Mem.discardPiece (p : Nat) (m : Mem) (x : Leaf × Nat × Nat) : Mem :=
  let (l, va, n) := x
  let gone := fun (k : Line) => l.ub && k.unb && decide (k.part = p) && decide (k.vpart = bitsOf va 12 36) &&
    decide (bitsOf va 7 32 ≤ k.name) && decide (k.name < bitsOf va 7 32 + n / 128)
  let m := (match m.frameOf p l va with
    | some pa =>
      let m := m.recallRange pa n
      { m with lines := m.lines.filter (fun k => !k.inFrames pa n) }
    | none => m)
  let k := m.lines.countP gone
  ({ m with lines := m.lines.filter (fun x => !gone x) }).addLines p (-(k : Int))

/-- Write back the dirty backed lines of a piece of a page, leaving its lines clean; their use stamps are updated (R304, R334). -/
def Mem.wbackPiece (p : Nat) (m : Mem) (x : Leaf × Nat × Nat) : Mem :=
  let (l, va, n) := x
  match m.frameOf p l va with
  | none => m
  | some pa =>
    let m := m.recallRange pa n
    (m.lines.filter (fun k => k.inFrames pa n)).foldl (fun m k => (m.writeBack k).touch { k with dirty := false }) m

/-- Whether a `discard` or `wback` of frames must wait for device memory (R340, R356): for the recall of a dirty edge entry, or, of a `wback`, for a
dirty line. -/
def Mem.framesHeld (m : Mem) (wb : Bool) (frames : List (Nat × Nat)) : Bool :=
  m.edge.any (fun e => frames.any (fun f => decide (f.1 ≤ e.pa) && decide (e.pa < f.1 + f.2)) && m.recallHeld e.pa) ||
  (wb && (m.lines.any (fun k => k.dirty && frames.any (fun f => k.inFrames f.1 f.2) && !m.devOpen (128 * k.name))))

/-- Whether a range is one that `discard` and `wback` take (R333). -/
def rangeOk (ga gb : Nat) : Bool :=
  decide (ga % 128 = 0) && decide (gb % 128 = 0) && decide (gb ≤ 2 ^ 32) && decide (ga + gb ≤ 2 ^ 64 - 2 ^ 20)

/-- `discard` and `wback` (R333, R334), in an entry of the schedule that admits the partition (R34), after the strand's earlier atomics to bytes of
the range (R117). -/
def rangeOp (wb : Bool) (ga gb : Reg) (s : State) : Host.Outcome State Fault Refusal :=
  s.onStrand fun sn t =>
    if t.busy [ga, gb] then s
    else match t.firstPois [ga, gb] with
      | some r => s.poisonTrap sn r
      | none =>
        let va := (t.g ga).toNat
        let n := (t.g gb).toNat
        if n = 0 then s.setStrand sn (t.retire 4)
        else if !rangeOk va n then s.trap sn 0x12 0 0 va
        else if t.barred (dieOfSn sn) t.seq.seq 3 || !s.admits (partOfSn sn) then s
        else match Mem.rangeCheck (coreOfSn sn) (partOfSn sn) (if wb then .r else .w) wb va s.mem (rangePages va n) with
          | (.error (.trap c x v), m) => (s.setMem m).trap sn c 0 x v
          | (.error (.park v k e l), m) => (s.setMem m).park sn 3 v k e l (!wb) false
          | (.error _, _) => s
          | (.ok ls, m) =>
            let frames := ls.filterMap (fun x => (m.frameOf (partOfSn sn) x.1 x.2.1).map (fun pa => (pa, x.2.2)))
            if t.atBehind ls || m.rangeHeld (partOfSn sn) ls || m.framesHeld wb frames then s
            else if wb then (s.setMem (ls.foldl (Mem.wbackPiece (partOfSn sn)) m)).setStrand sn (t.retire 4)
            else
              ((s.setMem (ls.foldl (Mem.discardPiece (partOfSn sn)) m)).modCore (coreOfSn sn) (fun c => { c with l1 := c.l1.filter (fun k =>
                !(frames.any (fun f => decide (f.1 ≤ 128 * k.name) && decide (128 * k.name < f.1 + f.2)))) })).setStrand sn (t.retire 4)

/-- `discard` (R333). -/
def execDiscard (ga gb : Reg) : State → Host.Outcome State Fault Refusal := rangeOp false ga gb
/-- `wback` (R334). -/
def execWback (ga gb : Reg) : State → Host.Outcome State Fault Refusal := rangeOp true ga gb

/-- `l1inv` (R335): it makes no acquire and ends no region. -/
def execL1inv (s : State) : Host.Outcome State Fault Refusal :=
  s.onStrand fun sn t => (s.setStrand sn (t.retire 4)).modCore (coreOfSn sn) (fun c => { c with l1 := [] })

/-- SLICE_ACCESS (R110): an access of a strand, named by its identity, reaches its home slice and is serialised there: a load, the store
of an RC page that awaits its check (R131, R416), a `pin` or `unpin` (R332). Stores of other pages are STORE_PERFORM's. -/
def execSliceAccess (s : State) : Host.Outcome State Fault Refusal :=
  s.forStrand fun sn t =>
    match t.seq.loads.find? (fun a => decide (a.id = s.agent.b)) with
    | some a => (match a.kind with | .load _ _ => s.sliceLoad sn t a | .pin u bad none => s.slicePin sn t a u bad | _ => s)
    | none =>
      match t.seq.stores.find? (fun x => decide (x.id = s.agent.b)) with
      | some x => if x.rc && decide (t.seq.wait = .check x.id) then s.sliceStore sn t x else s
      | none => s

end Sys2Proof.Machine
end

