-- ==== Sys2Proof/Machine/Issue.lean ====
section
/-! DEFINITION. A strand as a launch starts it (R146, R188, R232, R250), the issue of one instruction (R17, R79), the rows of a node
program (R92, R93), and the placing of an instruction where the machine fetches next. -/
namespace Sys2Proof.Machine

/-! ### A fresh strand -/

/-- The control registers of a fresh strand at their reset values; CSEQ continues after the released sequence of its number (R129). -/
def Ctl.fresh (rseq : Nat) : Ctl :=
  { retired := 0, daz := false, ftz := false, rm := 0, fpstat := 0, isat := false, mxst := 0, supcnt := 0, supp := false, rseq := rseq,
    cseq := (rseq + 1) % 256, raceinfo := 0, notrap := false, ltag := 0, ly := 0, lx := 0, dcnt := 0, drop := false, ackcnt := 0 }

/-- The trap registers of a fresh strand (R153). -/
def Trap.fresh : Trap :=
  { tvec := 0, tcause := 0, tpc := 0, tval := 0, tsave := 0, ehs := false, ehm := false, eha := false, intrap := false, hold := none,
    raised := [] }

/-- The sequencer's part of a fresh strand (R146): PC at its code, g1 at its arguments, its slots as attached. -/
def Seq.fresh (pc arg : W64) (slots : List Slot) (rseq : Nat) : Seq :=
  { pc := pc, g := tblPut 0 [] 1 arg, gp := [], gpend := [], glat := [], undo := none, loads := [], stores := [], reds := [], ctl := .fresh rseq, trap := .fresh,
    wait := .none, ir := (0, 0), slots := slots, gens := [], barriers := [], acks := [], nextId := 16, seq := 0, served := [] }

/-- A fresh strand (R146, R188, R232, R250). -/
def Strand.fresh (kinst lin : Nat) (allot : Allot) (secp : Bool) (pc arg : W64) (slots : List Slot) (rseq : Nat) : Strand :=
  { kinst := kinst, lin := lin, run := .running, allot := allot, tok := 0, secp := secp, seq := .fresh pc arg slots rseq, arr := .fresh,
    arrx := .fresh, mx := .fresh, str := .fresh, prog := false }

/-! ### Issue -/

/-- How an issue opportunity of a strand ends: an instruction to run, or the state it leaves. -/
inductive Issue where
  | run (i : Instr) (s : State)
  | idle (s : State)

/-- The instruction that two words give, or the cause they raise (R79 steps 3 to 6). -/
def State.decodeAt (s : State) (sn : Nat) (t : Strand) (w f : W32) : Issue :=
  if fOp w = 0x36#6 ∧ t.secp = false then .idle (s.trap sn 0x02 0 0 (wordsTval w f).toNat)
  else match decodeWords w f with
    | .ok i => .run i s
    | .error _ => .idle (s.illegal sn (wordsTval w f))

/-- Fetch and decode the instruction at PC; a fetch that fails is FETCH_FAULT's. -/
def State.fetchIssue (s : State) (sn : Nat) (t : Strand) : Issue :=
  match s.fetch sn t with
  | (.ok w f, s) => (s.modStrand sn (fun t => t.mapSeq (fun q => { q with ir := (w, f) }))).decodeAt sn t w f
  | (.wait, s) => .idle s
  | _ => .run .fetchFault s

/-- Whether the instruction at PC has issued and runs on (R180): it is not fetched anew. -/
def Wait.runsOn : Wait → Bool
  | .none => false
  | .parked _ _ => false
  | _ => true

/-- An issue opportunity of a strand (R17, R155, R171): engine causes that wait are taken first; an instruction that awaits its check
stays, a parked one stays until its partition's flush. -/
def State.issue (s : State) (sn : Nat) : Issue :=
  let s := s.takeTraps 4 sn
  match s.strand? sn with
  | none => .idle s
  | some t =>
    if t.run ≠ .running then .idle s
    else match t.seq.wait with
      | .check _ => .idle s
      | .checked _ => .idle s
      | .parked _ g => if s.flushed sn g then (s.setStrand sn (t.setWait .none)).fetchIssue sn (t.setWait .none) else .idle s
      | w => if w.runsOn then s.decodeAt sn t t.seq.ir.1 t.seq.ir.2 else s.fetchIssue sn t

/-- Whether an issue opportunity left the strand where it was: the strand was not ready (R159). -/
def State.stalled (s s' : State) (sn : Nat) : Bool :=
  match s.strand? sn, s'.strand? sn with
  | some t, some t' =>
    decide (t.seq.pc = t'.seq.pc) && decide (t.seq.ctl.retired = t'.seq.ctl.retired) && decide (t.seq.wait = t'.seq.wait) &&
    decide (t.seq.trap.intrap = t'.seq.trap.intrap) && decide (t.run = t'.run)
  | _, _ => true

/-- One instruction has issued on the core of a strand in this ck (R17): the other strands' turns come after it. -/
def State.issued (s : State) (sn : Nat) : State :=
  { s.modCore (coreOfSn sn) (fun c => { c with rr := sidxOf sn }) with
    agenda := s.agenda.filter (fun m => match m with | .issue k => decide (coreOfSn k ≠ coreOfSn sn) | _ => true) }

/-- An instruction that has just retired, whose result is on its way, can still be abandoned by a pre-emption (R180). -/
def State.noteUndo (s s' : State) (sn : Nat) : State :=
  match s.strand? sn, s'.strand? sn with
  | some t, some u => if (Undo.of t u).isSome then s'.setStrand sn (u.mapSeq (fun q => { q with undo := Undo.of t u })) else s'
  | _, _ => s'

/-- The state after an issue opportunity: a strand that was not ready leaves the opportunity to the next. -/
def State.afterIssue (s : State) (sn : Nat) (s' : State) : State := if s.stalled s' sn then s' else (s.noteUndo s' sn).issued sn

/-- The outcome of an issue opportunity. -/
def State.outIssue (s : State) (sn : Nat) (o : Host.Outcome State Fault Refusal) : Host.Outcome State Fault Refusal :=
  match o with
  | .next s' => .next (s.afterIssue sn s')
  | r => r

/-! ### Rows of a node program (R92, R351) -/

def State.node (s : State) (k : Nat) : Node := tblGet .fresh s.nodes k
def State.setNode (s : State) (k : Nat) (n : Node) : State := { s with nodes := tblPut .fresh s.nodes k n }
def State.modNode (s : State) (k : Nat) (f : Node → Node) : State := s.setNode k (f (s.node k))

/-- The row a node program is at, if it is well-formed (R92, R93). -/
def State.nodeRow (s : State) (k : Nat) : Option Instr :=
  match (s.node k).prog with
  | none => none
  | some r => match decodeRow (r.req.rows.getD r.row 0) with
    | .ok i => some i
    | .error _ => none

/-! ### Placing an instruction (log entry 5) -/

/-- Where the placed instruction stands: virtual address 0x4000_0000, physical address 0x10000; its tables from 0x11000. -/
def placeVa : Nat := 0x40000000
def placePa : Nat := 0x10000

/-- Write 64-bit words into device memory as nothing had used it. -/
def Mem.putWords (m : Mem) (pa n x : Nat) : Mem := { m with dram := tblPutAll 0 m.dram pa (toBytes n x) }

/-- The strand that the placed instruction runs on: strand 0, with every resource of its core. -/
def placedStrand (rseq : Nat) : Strand :=
  .fresh 0 0 ⟨64, 16, 16, 16, 4, 16⟩ false (BitVec.ofNat 64 placeVa) 0 (List.replicate 16 .empty) rseq

/-- An instruction stored where strand 0 fetches next (log entry 5): its words in device memory, a page of R and X that maps them, the
partition's tables, and the strand, of a one-core instance, at its first byte; the next move is its issue. -/
def State.placeCode (s : State) (w : Nat) : State :=
  let m := s.mem
  let m := { m with lines := m.lines.filter (fun l => !decide (placePa / 128 ≤ l.name) || !decide (l.name < placePa / 128 + 192)),
                    tlb := [], cfg := cfgPut m.cfg (offPtbase 0) (0x11001) }
  let m := m.putWords placePa 8 w
  let m := m.putWords 0x11000 8 0x12001
  let m := m.putWords (0x12000 + 8) 8 0x13001
  let m := m.putWords 0x13000 8 0x14001
  let m := m.putWords 0x14000 8 (placePa + 0x17)
  let entry := if m.admits 0 then m.entry else ((span 0 48).find? (fun e => decide (m.sched.getD e 0 = 0))).getD m.entry
  let i : Inst := ⟨0, 0, 0, 0, 0, 0, 0, 16, 2 ^ 25 - 1, false, none, 0, s.clock, 0, none, false, false, true, false⟩
  let t := match s.strand? 0 with
    | some t => { t with run := .running, seq := { t.seq with pc := BitVec.ofNat 64 placeVa, wait := .none, trap := { t.seq.trap with raised := [] } } }
    | none => placedStrand (tblGet 0 s.rseqs 0)
  let s := (s.setMem { m with entry := entry }).setStrand 0 t
  let s := match s.inst? t.kinst with | some _ => s | none => s.setInst t.kinst i
  { s.modCore 0 (fun c => { c with ic := [], grant := max c.grant 1 }) with agenda := [.issue 0], gated := [] }

/-- A row stored as the program of node 0 of stack 0, which is at it (log entry 17). -/
def State.placeRow (s : State) (w : Nat) : State :=
  let req : NReq := ⟨0, 0, 0, [BitVec.ofNat 32 w], []⟩
  { s.setNode 0 ⟨[], some ⟨req, 0, [], 0, [], [], 0, 0, none⟩⟩ with agenda := [.row 0] }

end Sys2Proof.Machine
end

