-- ==== Sys2Proof/Machine/Bank.lean ====
section
/-! DEFINITION. The bank switch (R261-R268), arrival objects (R269-R272), and the ring instructions (R273-R278). -/
namespace Sys2Proof.Machine

/-! ### What names a slot or a ring -/

/-- Whether a LIVE ring descriptor of the strand names a slot (R265, R267). -/
def Strand.ringNames (t : Strand) (i : Nat) : Bool := (span 0 t.allot.nrg).any (fun n => (t.ring n).live && decide ((t.ring n).slot = i))

/-- The rings that a command of the matrix engine names. -/
def MxCmd.rings : MxCmd → List Nat
  | .step _ rna rnb _ _ _ _ _ _ _ _ _ _ => [rna, rnb]
  | .zero _ _ => []
  | .ld rs _ _ _ => [rs]
  | .st rd _ _ _ _ _ ore _ _ _ _ _ _ => rd :: ore.toList
  | .mov _ _ _ => []

/-- The rings that a stream command names. -/
def SCmd.rings : SCmd → List Nat
  | .ringld _ rg _ _ => [rg]
  | .ringst _ rg _ _ => [rg]
  | .cvcopy _ _ _ _ _ ore => ore.toList
  | _ => []

/-- The rings that the `nemit` rows of a node program name (R354). -/
def rowRings (rows : List W32) : List Nat :=
  rows.filterMap (fun w => match decodeRow w with | .ok (.nemit _ _ imm) => some imm.toNat | _ => none)

/-- Whether a list of rings names ring `n` directly or through a link (R276). -/
def Strand.linksTo (t : Strand) (n : Nat) (rs : List Nat) : Bool :=
  rs.any (fun r => decide (r = n) || decide ((t.ring r).scl = some n) || decide ((t.ring r).oul = some n))

/-- Whether a word of the running loop names ring `n` (R91, R217, R227, R276). -/
def Strand.loopNames (t : Strand) (n : Nat) : Bool :=
  decide (t.arr.st ≠ .idle) && peIds.any (fun p => (span t.arr.ent t.arr.ii).any (fun e =>
    let w := t.cwAt p e
    ((decide (w.fn = 0x37) || decide (w.fn = 0x38) || decide (w.fn = 0x39)) && decide (w.x = n)) ||
    ((decide (w.fn = 0x2B) || decide (w.fn = 0x2C)) && bitOf w.x 3 && decide ((tblGet 0 (t.pe p).k 7).toNat % 16 = n))))

/-- Whether a command of the strand that has not completed, or a running loop, names ring `n` (R276); one that reserved a tile completes
when the tile has landed. -/
def State.ringUsed (s : State) (sn : Nat) (t : Strand) (n : Nat) : Bool :=
  t.mx.queue.any (fun e => t.linksTo n e.cmd.rings) || t.str.queue.any (fun e => t.linksTo n e.cmd.rings) || t.loopNames n || !(t.ring n).resv.isEmpty ||
  s.nodes.any (fun k => (k.2.queue ++ (k.2.prog.map (·.req)).toList).any (fun r => decide (r.sn = sn) && t.linksTo n (rowRings r.rows)))

/-! ### Slots (R262-R267) -/

/-- Whether an access already issued to a bank has not completed (R265): the drain of a slot waits for it. -/
def Strand.bankUndone (t : Strand) (b : Nat) : Bool :=
  t.undoneLS.any (fun x => !x.part.done && (match x.part.place with | .bank c _ => decide (b = c) | _ => false))

/-- Whether the drain of slot `i` is over (R265): every command issued earlier to the matrix and stream engines has completed, and every
access issued to the bank. -/
def Strand.drained (t : Strand) (i : Nat) : Bool :=
  t.mx.queue.isEmpty && t.str.queue.isEmpty && !(t.slot i).zero && !t.bankUndone ((t.slot i).bank.getD 0)

/-- Whether the slot of an instruction cannot be given or switched (R263, R265, R267): empty, locked, or named by a LIVE ring. -/
def Strand.slotFixed (t : Strand) (m : Mem) (i : Nat) : Bool :=
  match (t.slot i).bank with
  | none => true
  | some b => (t.slot i).lock || m.bankLocked b || t.ringNames i

/-- `bl1` and `bscr` (R265): the checks, and the drain that BANK_MODE_SET ends. -/
def bankMode (l1 : Bool) (n : BitVec 4) (s : State) : Host.Outcome State Fault Refusal :=
  s.onStrand fun sn t =>
    let i := n.toNat
    match t.seq.wait with
    | .drain _ _ => s
    | _ =>
      if t.slotFixed s.mem i then s.trap sn 0x03 0 0 (slotAddr i)
      else if (t.slot i).zero then s
      else if (t.slot i).l1 = l1 then s.setStrand sn (t.retire 4)
      else s.setStrand sn ((t.modSlot i (fun x => { x with draining := true })).setWait (.drain i (if l1 then 1 else 2)))

/-- `bl1` (R265). -/
def execBl1 (n : BitVec 4) : State → Host.Outcome State Fault Refusal := bankMode true n
/-- `bscr` (R265). -/
def execBscr (n : BitVec 4) : State → Host.Outcome State Fault Refusal := bankMode false n

/-- BANK_MODE_SET (R265): the drain is over; the mode is set and L1 invalidated. To L1 the bank's bytes are lost; to scratch its bytes are
zeroed, and accesses wait until BSCR_ZERO_DONE. -/
def execBankModeSet (s : State) : Host.Outcome State Fault Refusal :=
  s.forStrand fun sn t =>
    match t.seq.wait with
    | .drain i 1 =>
      if t.run = .running ∧ t.drained i = true then
        (s.setStrand sn ((t.modSlot i (fun x => { x with l1 := true, draining := false })).retire 4)).invalL1 (coreOfSn sn)
      else s
    | .drain i 2 =>
      if t.run = .running ∧ t.drained i = true then
        (((s.modMem (fun m => m.bankZero ((t.slot i).bank.getD 0))).setStrand sn
          ((t.modSlot i (fun x => { x with l1 := false, zero := true })).retire 4)).invalL1 (coreOfSn sn))
      else s
    | _ => s

/-- BSCR_ZERO_DONE (R265): the zeroing of a slot ends. -/
def execBscrZeroDone (s : State) : Host.Outcome State Fault Refusal :=
  s.forStrand fun sn t =>
    if (t.slot s.agent.b).zero then s.setStrand sn ((t.modSlot s.agent.b (fun x => { x with zero := false, draining := false })).progress) else s

/-- Target core of a `give`, within the giver's hatch group (R266). -/
def giveCore (sn ga : Nat) : Nat := groupCore (groupOf (coreOfSn sn)) (bitsOf ga 4 3)

/-- The linear position of a core in an instance's footprint. -/
def Inst.linOf (i : Inst) (core : Nat) : Option Nat :=
  if i.ox ≤ coreX core ∧ coreX core < i.ox + i.w ∧ i.oy ≤ coreY core ∧ coreY core < i.oy + i.h then some (i.lin (coreX core - i.ox) (coreY core - i.oy))
  else none

/-- Whether an address names an arrival object (R272, R288): in the window, and a multiple of 32. -/
def arrAligned (a : Nat) : Bool := inWindow a && decide (a % 32 = 0)

/-- `give` (R266, R267): the checks; then the drain; then its region ends, and GIVE_ATTACH makes the attach. -/
def execGive (ga gb : Reg) (s : State) : Host.Outcome State Fault Refusal :=
  s.onStrand fun sn t =>
    match t.seq.wait with
    | .attach _ _ _ _ => s
    | .drain i _ =>
      if t.drained i && s.canRelease sn t then
        (s.endRegion sn).modStrand sn (·.setWait (.attach i t.seq.ctl.cseq (t.g ga).toNat (t.g gb).toNat))
      else s
    | _ =>
      if t.busy [ga, gb] then s
      else match t.firstPois [ga, gb] with
        | some r => s.poisonTrap sn r
        | none =>
          let a := (t.g ga).toNat
          let i := bitsOf a 0 4
          if bitsOf a 12 52 ≠ 0 then s.illegal sn (Instr.give ga gb).tval
          else if !arrAligned (t.g gb).toNat then s.trap sn 0x0A 0 0x20 (t.g gb).toNat
          else if t.slotFixed s.mem i || (t.slot i).l1 then s.trap sn 0x03 0 0 (slotAddr i)
          else if ((s.instOf t.kinst).linOf (giveCore sn a)).isNone then s.trap sn 0x03 0 0 (slotAddr (bitsOf a 8 4))
          else if (t.slot i).zero then s
          else s.setStrand sn ((t.modSlot i (fun x => { x with draining := true })).setWait (.drain i 0))

/-- The bank of a slot that an arrival of another agent reaches (R268, R267): attached in scratch mode and unlocked. -/
def Mem.openSlot (m : Mem) (t : Strand) (i : Nat) : Option Nat :=
  match (t.slot i).bank with
  | some b => if (t.slot i).l1 || (t.slot i).lock || m.bankLocked b then none else some b
  | none => none

/-- GIVE_ATTACH (R267): detach, attach and the arrival of 65,536 in one; a failure leaves the bank where it is. -/
def execGiveAttach (s : State) : Host.Outcome State Fault Refusal :=
  s.forStrand fun sn t =>
    match t.seq.wait with
    | .attach i q ga gb =>
      if t.run ≠ .running ∨ s.relDone sn q = false then s
      else
        let j := bitsOf ga 8 4
        let fail := fun (v : Nat) => (s.setStrand sn t.undrain).trap sn 0x03 0 0 v
        match (s.instOf t.kinst).linOf (giveCore sn ga) with
        | none => fail (slotAddr j)
        | some lin =>
          match s.snOf t.kinst lin with
          | none => if s.saved.any (fun v => decide (v.kinst = t.kinst) && decide (v.lin = lin)) then s else fail (slotAddr j)
          | some tn =>
            match s.strand? tn with
            | none => fail (slotAddr j)
            | some u =>
              if u.run ≠ .running then s
              else if u.allot.nsl ≤ j || (u.slot j).bank.isSome then fail (slotAddr j)
              else
                let bank := (t.slot i).bank
                let t1 := (t.modSlot i (fun _ => .empty)).retire 4
                let s1 := (s.setStrand sn t1).modStrand tn (fun u => (u.modSlot j (fun _ => ⟨bank, false, false, false, false⟩)).progress)
                match s1.strand? tn with
                | none => s
                | some u1 =>
                  match s1.mem.openSlot u1 (winSlot gb) with
                  | some c => s1.modMem (fun m => m.arrive c (winOff gb) 65536 0)
                  | none => fail gb
    | _ => s

/-! ### ARR (R272) -/

/-- The checks of an ARR instruction (R272) and the bank that holds the object; `none` where it waits. -/
def State.arrBank (s : State) (sn : Nat) (t : Strand) (regs : List Reg) (ga : Reg) : Except State Nat :=
  if t.busy regs then .error s
  else match t.firstPois regs with
    | some r => .error (s.poisonTrap sn r)
    | none =>
      let a := (t.g ga).toNat
      if !arrAligned a then .error (s.trap sn 0x0A 0 0x20 a)
      else match s.mem.slotsCheck t false a [winSlot a] with
        | some (.trap c d v) => .error (s.trap sn c 0 d v)
        | some _ => .error s
        | none => if t.blocked t.seq.seq false (winPart t a 32 []) then .error s else .ok ((t.slot (winSlot a)).bank.getD 0)

/-- `arrinit` (R272): a TARGET of 0 raises ARRIVAL with DETAIL 0x21, for which the spec states no TVAL (a free value). -/
def execArrinit (ga gb : Reg) (s : State) : Host.Outcome State Fault Refusal :=
  s.onStrand fun sn t =>
    match s.arrBank sn t [ga, gb] ga with
    | .error s => s
    | .ok b =>
      let n := (t.g gb).toNat % 2 ^ 32
      let off := winOff (t.g ga).toNat
      if n = 0 then
        let (v, m) := s.mem.pick (2 ^ 64)
        (s.setMem m).trap sn 0x0A 0 0x21 v
      else
        let o := s.mem.arrObj b off
        (s.setMem (s.mem.putArrObj b off { o with target := n, count := 0, flags := 0, cur := 0 })).setStrand sn (t.retire 4)

/-- `arradd` (R272). -/
def execArradd (ga gb : Reg) (s : State) : Host.Outcome State Fault Refusal :=
  s.onStrand fun sn t =>
    match s.arrBank sn t [ga, gb] ga with
    | .error s => s
    | .ok b => (s.setMem (s.mem.arrive b (winOff (t.g ga).toNat) ((t.g gb).toNat % 2 ^ 32) 0)).setStrand sn (t.retire 4)

/-- `arrwait` (R272): it reads the object again until GEN differs, then acts as the acquire of R141. -/
def execArrwait (ga gb : Reg) (s : State) : Host.Outcome State Fault Refusal :=
  s.onStrand fun sn t =>
    match s.arrBank sn t [ga, gb] ga with
    | .error s => s
    | .ok b =>
      if (s.mem.arrObj b (winOff (t.g ga).toNat)).gen = (t.g gb).toNat % 2 ^ 16 then s
      else (s.setStrand sn (t.retire 4)).invalL1 (coreOfSn sn)

/-- `arrpoll` (R272). DESIGN CHOICE (log entry 46): gd is unpoisoned, whatever the marks of the object's bytes (R73, R147). -/
def execArrpoll (gd ga : Reg) (s : State) : Host.Outcome State Fault Refusal :=
  s.onStrand fun sn t =>
    if t.busy [gd] then s
    else match s.arrBank sn t [ga] ga with
      | .error s => s
      | .ok b => (s.setStrand sn (t.done 4 gd (BitVec.ofNat 64 (s.mem.arrObj b (winOff (t.g ga).toNat)).gen) false)).invalL1 (coreOfSn sn)

/-! ### Ring descriptors (R273-R277) -/

/-- The 128 bits of a descriptor (R273). -/
def Ring.word (r : Ring) : Nat :=
  if r.live then
    r.cur * 2 ^ 96 + r.tail * 2 ^ 80 + r.head * 2 ^ 64 + b2n r.oue * 2 ^ 61 + r.oulf * 2 ^ 57 + b2n r.sce * 2 ^ 56 +
      r.sclf * 2 ^ 52 + r.efmt * 2 ^ 48 + r.trows * 2 ^ 32 + 2 ^ 24 + r.logn * 2 ^ 20 + r.slot * 2 ^ 16 + r.off
  else 0

/-- Whether `rgld` accepts a value for ring `n` of a strand with `nrg` rings (R277). -/
def ringAccepts (nrg n x : Nat) : Bool :=
  let f := bitsOf x
  let logn := f 20 4
  let oul := bitOf x 61
  let sce := bitOf x 56
  decide (x = 0) ||
  (bitOf x 24 && decide (logn ≤ 8) && decide (1 ≤ f 32 11) && decide (f 32 11 ≤ 1024) && decide (f 0 6 = 0) &&
   decide (f 0 16 + 2 ^ logn * 64 * f 32 11 ≤ 65536) && decide (f 64 9 < 2 ^ (logn + 1)) && decide (f 80 9 < 2 ^ (logn + 1)) &&
   decide ((f 80 9 + 2 ^ (logn + 1) - f 64 9) % 2 ^ (logn + 1) ≤ 2 ^ logn) && decide (f 96 14 < 16 * f 32 11) && decide (f 48 4 ≤ 13) &&
   (!oul || (decide (f 57 4 < nrg) && decide (f 57 4 ≠ n))) && (!sce || (decide (f 52 4 < nrg) && decide (f 52 4 ≠ n))) &&
   (!(oul && sce) || decide (f 57 4 ≠ f 52 4)) &&
   decide (f 110 18 = 0) && decide (f 89 7 = 0) && decide (f 73 7 = 0) && decide (f 62 2 = 0) && decide (f 43 5 = 0) && decide (f 25 7 = 0))

/-- The descriptor that an accepted value holds. -/
def Ring.ofWord (x : Nat) : Ring :=
  let f := bitsOf x
  if x = 0 then Ring.none
  else ⟨true, f 16 4, f 0 16, f 20 4, f 32 11, f 48 4, bitOf x 56, f 52 4, bitOf x 61, f 57 4, f 64 9, f 80 9, f 96 14, []⟩

/-- `rgld` (R276): it waits for the commands and the loop that name the ring, reads 16 bytes, and takes a value that R277 accepts. -/
def execRgld (ga : Reg) (n : BitVec 4) (s : State) : Host.Outcome State Fault Refusal :=
  s.onStrand fun sn t =>
    if t.allot.nrg ≤ n.toNat then s.illegal sn (Instr.rgld ga n).tval
    else if t.busy [ga] then s
    else if t.gp ga then s.poisonTrap sn ga
    else if s.ringUsed sn t n.toNat then s
    else
      let va := (t.g ga).toNat
      match State.readRun sn t 2 s va [] with
      | .stop s => s
      | .ok data s =>
        match firstBadByte va data with
        | some a => s.trap sn 0x0D 0 2 a
        | none =>
          if ringAccepts t.allot.nrg n.toNat (pbNat data) then
            s.modStrand sn (fun t => (t.setRing n.toNat (Ring.ofWord (pbNat data))).retire 4)
          else s.trap sn 0x09 0 3 n.toNat

/-- The checks of the two stores of `rgsv`, in order (R170). -/
def Mem.access2 (m : Mem) (core : Nat) (t : Strand) (va : Nat) (data : List PB) : Chk × Mem :=
  match m.access core t va 8 .w (data.take 8) with
  | (.ok ps, m) =>
    (match m.access core t ((va + 8) % 2 ^ 64) 8 .w (data.drop 8) with
     | (.ok qs, m) => (.ok (ps ++ qs), m)
     | r => r)
  | r => r

/-- Write the parts of a store in order: with race checks, when its instruction may not retire before them (R416). -/
def State.writeParts (sn : Nat) (t : Strand) : State → List Part → Except State State
  | s, [] => .ok s
  | s, p :: ps =>
    match s.writePart sn t 0 (runAcc p.va) (.ls p.sco) p with
    | .ok _ _ s => State.writeParts sn t s ps
    | .hold s => .error s
    | .race c s => .error (s.raceOf sn c p)

/-- `rgsv` (R276): the ring is written as two 8-byte stores. -/
def execRgsv (ga : Reg) (n : BitVec 4) (s : State) : Host.Outcome State Fault Refusal :=
  s.onStrand fun sn t =>
    if t.allot.nrg ≤ n.toNat then s.illegal sn (Instr.rgsv ga n).tval
    else if t.busy [ga] then s
    else if t.gp ga then s.poisonTrap sn ga
    else if s.ringUsed sn t n.toNat then s
    else if 15 ≤ t.seq.stores.countP (fun x => !x.arr) then s
    else
      let va := (t.g ga).toNat
      match s.mem.access2 (coreOfSn sn) t va (pbOf 16 (t.ring n.toNat).word false) with
      | (.trap c d v, m) => (s.setMem m).trap sn c 0 d v
      | (.park v k e l, m) => (s.setMem m).park sn 0 v k e l true false
      | (.wait, _) => s
      | (.ok ps, m) =>
        if (ps.any (·.sco) && t.scoBusy) || t.ackFull sn ps then s
        else if ps.any (·.rc) then
          if ps.any (t.blocked t.seq.seq false) then s
          else match State.writeParts sn t (s.setMem m) ps with
            | .ok s => s.modStrand sn (·.retire 4)
            | .error s => s
        else
          let t := (t.nextAcc.nextSeq).mapSeq (fun q => { q with stores := q.stores ++ [⟨t.seq.nextId, t.seq.seq, false, va, ps, false⟩] })
          let t := t.mapCtl (fun c => { c with ackcnt := c.ackcnt + ps.countP (fun p => p.place.remote (dieOfSn sn)) })
          (s.setMem m).setStrand sn (t.retire 4)

/-- `rgoff` (R276). -/
def execRgoff (n : BitVec 4) (s : State) : Host.Outcome State Fault Refusal :=
  s.onStrand fun sn t =>
    if t.allot.nrg ≤ n.toNat then s.illegal sn (Instr.rgoff n).tval
    else if s.ringUsed sn t n.toNat then s
    else s.setStrand sn ((t.setRing n.toNat .none).retire 4)

/-- Whether an earlier LS store of the strand to the window is still to be written (R276). -/
def Strand.windowStores (t : Strand) : Bool :=
  t.seq.stores.any (fun x => t.ordered x.seq x.arr t.seq.seq false &&
    x.parts.any (fun p => !p.done && (match p.place with | .bank _ _ => true | _ => false)))

/-- Whether an earlier LS load of the strand is still to be performed (R276). -/
def Strand.loadsUndone (t : Strand) : Bool :=
  t.seq.loads.any (fun a => a.kind.isLoad && !allDone a.parts) ||
  t.arrx.pes.any (fun e => e.lq.any (fun x => !x.cp && !allDone x.parts && t.ordered x.seq true t.seq.seq false))

/-- `rgpush` (R276). -/
def execRgpush (n : BitVec 4) (s : State) : Host.Outcome State Fault Refusal :=
  s.onStrand fun sn t =>
    let r := t.ring n.toNat
    if t.allot.nrg ≤ n.toNat then s.illegal sn (Instr.rgpush n).tval
    else if !r.live then s.trap sn 0x09 0 2 n.toNat
    else if t.windowStores then s
    else if r.full then s.trap sn 0x09 0 4 n.toNat
    else s.setStrand sn ((t.setRing n.toNat (r.reserve.land r.nextTile)).retire 4)

/-- `rgpop` (R276). -/
def execRgpop (n : BitVec 4) (s : State) : Host.Outcome State Fault Refusal :=
  s.onStrand fun sn t =>
    let r := t.ring n.toNat
    if t.allot.nrg ≤ n.toNat then s.illegal sn (Instr.rgpop n).tval
    else if !r.live then s.trap sn 0x09 0 2 n.toNat
    else if t.loadsUndone then s
    else if r.held = 0 then s.trap sn 0x09 0 4 n.toNat
    else s.setStrand sn ((t.setRing n.toNat r.pop).retire 4)

/-- `rgstat` (R276): a snapshot, never poisoned. -/
def execRgstat (gd : Reg) (n : BitVec 4) (s : State) : Host.Outcome State Fault Refusal :=
  s.onStrand fun sn t =>
    let r := t.ring n.toNat
    if t.allot.nrg ≤ n.toNat then s.illegal sn (Instr.rgstat gd n).tval
    else if t.busy [gd] then s
    else s.setStrand sn (t.done 4 gd (BitVec.ofNat 64 (r.held + r.head * 2 ^ 16 + r.tail * 2 ^ 32 + b2n r.live * 2 ^ 63)) false)

end Sys2Proof.Machine
end

