-- ==== Sys2Proof/Machine/Matrix.lean ====
section
/-! DEFINITION. The matrix engine (R232-R260): its checks at issue, its sub-queue, its units. -/
namespace Sys2Proof.Machine

/-! ### Formats and panels (R235, R236, R238) -/

/-- Kind of an operand element. -/
inductive MEl where
  | fl (f : FFmt)
  | i8 | n8 | t2
  deriving DecidableEq, Repr

/-- Width of an operand element in bits. -/
def MEl.width : MEl → Nat
  | .fl f => f.width
  | .i8 => 8 | .n8 => 8 | .t2 => 2

/-- The A and B elements and the interval depth K of a FMT code (R235). -/
def mxFmt : Nat → MEl × MEl × Nat
  | 0 => (.fl .f64, .fl .f64, 1) | 1 => (.fl .f32, .fl .f32, 2) | 2 => (.fl .bf16, .fl .bf16, 8) | 3 => (.fl .f16, .fl .f16, 8)
  | 4 => (.fl .e4m3, .fl .e4m3, 16) | 5 => (.fl .e4m3, .fl .e5m2, 16) | 6 => (.fl .e5m2, .fl .e4m3, 16) | 7 => (.fl .e5m2, .fl .e5m2, 16)
  | 8 => (.fl .fp4, .fl .fp4, 32) | 9 => (.i8, .i8, 16) | 10 => (.i8, .n8, 16) | 11 => (.n8, .i8, 16) | 12 => (.n8, .n8, 16)
  | 13 => (.t2, .i8, 32) | _ => (.t2, .n8, 32)

/-- M and N of a SHAPE code (R236). -/
def mxRows (shape : Nat) : Nat := if shape / 2 = 0 then 16 else 8
def mxCols (shape : Nat) : Nat := if shape % 2 = 0 then 16 else 8

/-- Bytes of a row of an A panel, or a column of a B panel. -/
def MEl.lineBytes (e : MEl) (k : Nat) : Nat := k * e.width / 8

/-- Block size of a BLK code; scale entries of a row or column (R238). -/
def mxBlock (blk : Nat) : Nat := 4 * 2 ^ blk
def mxScales (blk k : Nat) : Nat := if mxBlock blk ≤ k then k / mxBlock blk else 1

/-- What a side of a tile step reads: its ring, element kind, lines of a panel, period. -/
structure MxSide where
  ring : Nat
  el : MEl
  lines : Nat
  per : Nat
  deriving DecidableEq, Repr

/-- Bytes of a panel; panels of a tile (R237). -/
def MxSide.panel (d : MxSide) (k : Nat) : Nat := d.lines * d.el.lineBytes k
def MxSide.q (d : MxSide) (k : Nat) (r : Ring) : Nat := r.bytes / d.panel k

/-- A tile step's fields. -/
structure MxStep where
  fmt : Nat
  a : MxSide
  b : MxSide
  acb : Nat
  acn : Nat
  shape : Nat
  blk : Nat
  sfmt : Nat
  fresh : Bool
  rep : Nat
  isat : Bool
  deriving DecidableEq, Repr

/-- The step of a command. -/
def MxStep.of (fmt rna rnb acb acn shape pa pb blk sfmt : Nat) (fresh : Bool) (rep : Nat) (isat : Bool) : MxStep :=
  ⟨fmt, ⟨rna, (mxFmt fmt).1, mxRows shape, pa⟩, ⟨rnb, (mxFmt fmt).2.1, mxCols shape, pb⟩, acb, acn, shape, blk, sfmt, fresh, rep, isat⟩

def MxStep.k (e : MxStep) : Nat := (mxFmt e.fmt).2.2

/-- The scale ring of a side: when BLK is not zero and the operand ring carries a link (R238). -/
def Strand.scaleRing (t : Strand) (e : MxStep) (d : MxSide) : Option Nat := if e.blk = 0 then none else (t.ring d.ring).scl

/-! ### The ring-state checks (R251) -/

/-- A role of a descriptor in a command: its number and its first failing condition. -/
abbrev MxRole := Nat × Option Nat

/-- The first descriptor that fails, else a descriptor that serves two roles: DETAIL and TVAL (R251). -/
def mxReport (roles : List MxRole) : Option (Nat × Nat) :=
  match roles.find? (fun r => r.2.isSome) with
  | some (n, some d) => some (d, n)
  | _ =>
    (roles.find? (fun r => decide (1 < roles.countP (fun x => decide (x.1 = r.1))))).map (fun r => (0x13, r.1))

/-- A role that needs only a ring. -/
def Strand.roleLive (t : Strand) (n : Nat) : MxRole := (n, if (t.ring n).live then none else some 0x02)

/-- The roles of one side of a step (R251). -/
def Strand.sideRoles (t : Strand) (e : MxStep) (d : MxSide) : List MxRole :=
  let r := t.ring d.ring
  let bad := if !r.live then some 0x02 else if r.bytes % d.panel e.k ≠ 0 ∨ r.bytes = 0 then some 0x10 else none
  (d.ring, bad) :: (match t.scaleRing e d with
    | some n =>
      let x := t.ring n
      [(n, if !x.live then some 0x02 else if x.bytes < d.q e.k r * (d.lines * mxScales e.blk e.k) then some 0x11 else none)]
    | none => [])

/-- Bytes of a stored element by DFMT, in half bytes, and of a loaded one by LF (R244, R247). -/
def dfmtBits : Nat → Nat
  | 0 => 32 | 1 => 16 | 2 => 16 | 3 => 8 | 4 => 8 | 5 => 4 | 6 => 64 | 8 => 32 | 9 => 16 | _ => 8
def lfBits : Nat → Nat
  | 0 => 32 | 1 => 16 | 2 => 16 | _ => 64

/-- The outlier ring of a store: the one named, or the one linked from RD, for a destination of R67. -/
def Strand.storeOutl (t : Strand) (rd dfmt : Nat) (ore : Option Nat) : Option Nat :=
  if 3 ≤ dfmt ∧ dfmt ≤ 5 then (match ore with | some n => some n | none => (t.ring rd).oul) else none

/-- The first ring-state condition of a command that fails (R251). -/
def Strand.mxRing (t : Strand) : MxCmd → Option (Nat × Nat)
  | .step fmt rna rnb acb acn shape pa pb blk sfmt fresh rep isat =>
    let e := MxStep.of fmt rna rnb acb acn shape pa pb blk sfmt fresh rep isat
    mxReport (t.sideRoles e e.a ++ t.sideRoles e e.b)
  | .ld rs _ _ lf =>
    mxReport [(rs, if !(t.ring rs).live then some 0x02 else if (t.ring rs).bytes < 32 * lfBits lf then some 0x12 else none)]
  | .st rd _ _ _ dfmt _ ore _ _ _ _ _ _ =>
    mxReport ((rd, if !(t.ring rd).live then some 0x02 else if (t.ring rd).bytes < 32 * dfmtBits dfmt then some 0x12 else none) ::
      (match t.storeOutl rd dfmt ore with | some n => [t.roleLive n] | none => []))
  | _ => none

/-! ### Issue (R240-R250) -/

/-- How the check of an arrival address ends (R241 check 4, R288 check 3). -/
inductive ArrChk where
  | ok (a : Nat)
  | trap (cause detail val : Nat)
  | wait
  deriving DecidableEq, Repr

/-- The check of an arrival address: 0 names no object. -/
def Mem.arrCheck (m : Mem) (t : Strand) (a : Nat) : ArrChk :=
  if a = 0 then .ok 0
  else if !arrAligned a then .trap 0x0A 0x20 a
  else match m.slotsCheck t false a [winSlot a] with
    | some (.trap c d v) => .trap c d v
    | some _ => .wait
    | none => .ok a

/-- A command enters the sub-queue and its instruction retires; a full one holds it (R241, R250). -/
def State.mxEnter (s : State) (sn : Nat) (t : Strand) (cmd : MxCmd) (arr : Nat) : State :=
  match t.mxRing cmd with
  | some (d, v) => s.trap sn 0x09 0 d v
  | none =>
    if 16 ≤ t.mx.queue.length then s
    else
      let e : MxEnt := ⟨t.seq.seq, cmd, arr, 0, 0, none, none, false⟩
      let t := t.nextSeq
      s.setStrand sn ({ t with mx := { t.mx with queue := t.mx.queue ++ [e] } }.retire 8)

/-- Issue with an arrival address (R241 checks 4 and 5). -/
def State.mxIssue (s : State) (sn : Nat) (t : Strand) (cmd : MxCmd) (gc : Reg) : State :=
  match s.mem.arrCheck t (t.g gc).toNat with
  | .trap c d v => s.trap sn c 0 d v
  | .wait => s
  | .ok a => s.mxEnter sn t cmd a

/-- `mxstep` (R241). -/
def execMxstep (ga gc : Reg) (fresh : BitVec 1) (sfmt blk : BitVec 2) (pb pa : BitVec 3) (shape : BitVec 2) (acnm1 acb : BitVec 3)
    (rnb rna fmt : BitVec 4) (s : State) : Host.Outcome State Fault Refusal :=
  s.onStrand fun sn t =>
    let i := Instr.mxstep ga gc fresh sfmt blk pb pa shape acnm1 acb rnb rna fmt
    if t.allot.nrg ≤ rna.toNat || t.allot.nrg ≤ rnb.toNat || !mxstepLegal sfmt blk acnm1 acb rnb rna fmt then s.illegal sn i.tval
    else if t.busy [ga, gc] then s
    else match t.firstPois [ga, gc] with
      | some r => s.poisonTrap sn r
      | none =>
        if t.g ga = 0 ∨ 65536 ≤ (t.g ga).toNat then s.illegal sn i.tval
        else s.mxIssue sn t (.step fmt.toNat rna.toNat rnb.toNat acb.toNat (acnm1.toNat + 1) shape.toNat pa.toNat pb.toNat blk.toNat sfmt.toNat
          (decide (fresh = 1)) (t.g ga).toNat t.seq.ctl.isat) gc

/-- `mxzero` (R248). -/
def execMxzero (nm1 acb : BitVec 3) (s : State) : Host.Outcome State Fault Refusal :=
  s.onStrand fun sn t =>
    if !accRangeLegal false acb nm1 then s.illegal sn (Instr.mxzero nm1 acb).tval
    else s.mxEnter sn t (.zero acb.toNat (nm1.toNat + 1)) 0

/-- `mxld` (R247). -/
def execMxld (gc : Reg) (lf : BitVec 2) (nm1 acb : BitVec 3) (rs : BitVec 4) (s : State) : Host.Outcome State Fault Refusal :=
  s.onStrand fun sn t =>
    if t.allot.nrg ≤ rs.toNat || !accRangeLegal (decide (lf = 3)) acb nm1 then s.illegal sn (Instr.mxld gc lf nm1 acb rs).tval
    else if t.busy [gc] then s
    else if t.gp gc then s.poisonTrap sn gc
    else s.mxIssue sn t (.ld rs.toNat acb.toNat (nm1.toNat + 1) lf.toNat) gc

/-- `mxst` (R246): ga and gb are data, whose poison passes into the elements. -/
def execMxst (ga gb gc : Reg) (ts : BitVec 2) (orn : BitVec 4) (ore : BitVec 1) (dfmt : BitVec 4) (ak : BitVec 2) (nm1 acb : BitVec 3)
    (rd : BitVec 4) (s : State) : Host.Outcome State Fault Refusal :=
  s.onStrand fun sn t =>
    if t.allot.nrg ≤ rd.toNat || (decide (ore = 1) && decide (t.allot.nrg ≤ orn.toNat)) || !mxstLegal ts ore dfmt ak nm1 acb ||
        !mxstRegsLegal ts ga gb then
      s.illegal sn (Instr.mxst ga gb gc ts orn ore dfmt ak nm1 acb rd).tval
    else if t.busy [ga, gb, gc] then s
    else if t.gp gc then s.poisonTrap sn gc
    else
      let w := if ts = 1#2 then 32 else 16
      s.mxIssue sn t (.st rd.toNat acb.toNat (nm1.toNat + 1) ak.toNat dfmt.toNat ts.toNat (if ore = 1 then some orn.toNat else none)
        ((t.g ga).toNat % 2 ^ w) ((t.g gb).toNat % 2 ^ w) (decide (ts ≠ 0) && (t.gp ga || t.gp gb)) t.seq.ctl.rm t.seq.ctl.ftz t.seq.ctl.daz) gc

/-- `mxmov` (R248). -/
def execMxmov (tr : BitVec 1) (dst src : BitVec 3) (s : State) : Host.Outcome State Fault Refusal :=
  s.onStrand fun sn t => s.mxEnter sn t (.mov src.toNat dst.toNat (decide (tr = 1))) 0

/-- `mxsync` (R249): it waits until every earlier command has completed; then every byte they pushed is in its bank (R243). Towards LS it
acts as a `fencex mx, ls, core`, which leaves L1 empty (R138). -/
def execMxsync (s : State) : Host.Outcome State Fault Refusal :=
  s.onStrand fun sn t => if t.mx.queue.isEmpty then (s.setStrand sn (t.retire 8)).invalL1 (coreOfSn sn) else s

/-! ### Accumulators (R232-R234) -/

/-- Key of element (i, j) of a tile. -/
def accKey (c i j : Nat) : Nat := 256 * c + 16 * i + j
def Mx.el (x : Mx) (c i j : Nat) : AccEl := tblGet .zero x.acc (accKey c i j)
def Mx.putEl (x : Mx) (c i j : Nat) (e : AccEl) : Mx := { x with acc := tblPut .zero x.acc (accKey c i j) e }

/-- An element as the engine reads it: bits, poison, and whether its parity failed (R234). -/
def AccEl.read (e : AccEl) : Nat × Bool × Bool := (e.v.toNat, e.p || e.bad, e.bad)

/-- A 32-bit element, or an FP64 value of a pair (R233). -/
def Mx.read (x : Mx) (pair : Bool) (c i j : Nat) : Nat × Bool × Bool :=
  let (a, p, b) := (x.el c i j).read
  if pair then
    let (a2, p2, b2) := (x.el (c + 1) i j).read
    (a + 2 ^ 32 * a2, p || p2, b || b2)
  else (a, p, b)

/-- Write a 32-bit element, or an FP64 value of a pair, with good parity. -/
def Mx.write (x : Mx) (pair : Bool) (c i j v : Nat) (p : Bool) : Mx :=
  let x := x.putEl c i j ⟨BitVec.ofNat 32 v, p, false⟩
  if pair then x.putEl (c + 1) i j ⟨BitVec.ofNat 32 (v / 2 ^ 32), p, false⟩ else x

/-! ### One interval (R61-R65, R242) -/

/-- Element `q` of width `w` of packed bytes, with the poison of the bytes it lies in (R47, R73). -/
def packedEl (w : Nat) (l : List PB) (q : Nat) : Nat × Bool :=
  if w < 8 then
    let b := l.getD (w * q / 8) (0, false)
    (bitsOf b.1.toNat (w * q % 8) w, b.2)
  else
    let b := slice l (w * q / 8) (w / 8)
    (pbNat b, pbPois b)

/-- A block scale of a code (R52). -/
def scaleVal (sfmt x : Nat) : FVal :=
  if sfmt = 0 then (if x = 255 then .nan false else .fin false 1 ((x : Int) - 127))
  else (if sfmt = 1 then FFmt.e4m3 else .e5m2).decode x

/-- A panel read from a ring's head tile: its lines, and the scale of each block of each line where the operand is scaled. -/
structure MxPanel where
  lines : List (List PB)
  scales : Option (List (List PB))

/-- Read a side's panel of interval `n` (R237, R238). -/
def Mem.mxPanel (m : Mem) (t : Strand) (e : MxStep) (d : MxSide) (n : Nat) : MxPanel :=
  let r := t.ring d.ring
  let p := n % 2 ^ d.per % d.q e.k r
  let lb := d.el.lineBytes e.k
  let bytes := m.bankRead (t.ringBank r) (r.tileOff r.head + p * d.panel e.k) (d.panel e.k)
  let sc := mxScales e.blk e.k
  ⟨(span 0 d.lines).map (fun i => slice bytes (i * lb) lb),
   (t.scaleRing e d).map (fun x =>
     let r := t.ring x
     let b := m.bankRead (t.ringBank r) (r.tileOff r.head + p * (d.lines * sc)) (d.lines * sc)
     (span 0 d.lines).map (fun i => slice b (i * sc) sc))⟩

/-- Whether the reads of a side's panel of interval `n` correct an error, and memory with it corrected (R258). -/
def Mem.mxCorr (m : Mem) (t : Strand) (e : MxStep) (d : MxSide) (n : Nat) : Bool × Mem :=
  let r := t.ring d.ring
  let p := n % 2 ^ d.per % d.q e.k r
  let (c, m) := m.bankCorr (t.ringBank r) (r.tileOff r.head + p * d.panel e.k) (d.panel e.k)
  match t.scaleRing e d with
  | none => (c, m)
  | some x =>
    let r := t.ring x
    let len := d.lines * mxScales e.blk e.k
    let (c', m) := m.bankCorr (t.ringBank r) (r.tileOff r.head + p * len) len
    (c || c', m)

/-- The scale of element `q` of a line, with its poison: 1 where the operand is not scaled (R53). -/
def MxPanel.scale (p : MxPanel) (e : MxStep) (i q : Nat) : FVal × Bool :=
  match p.scales with
  | none => (.fin false 1 0, false)
  | some ls =>
    let b := (ls.getD i []).getD (if mxBlock e.blk ≤ e.k then q / mxBlock e.blk else 0) (0, false)
    (scaleVal e.sfmt b.1.toNat, b.2)

/-- The product of factors in the order of R62 and R66: none where it is NaN, and whether 0 times infinity made it so (R63, R66). -/
def prodVal (l : List FVal) : Option FVal × Bool :=
  l.foldl (fun (a : Option FVal × Bool) x =>
    match a.1 with
    | none => a
    | some y => if x.isNaN then (none, a.2) else match xMul y x with | some z => (some z, a.2) | none => (none, true)) (some (.fin false 1 0), false)

/-- Exact sum of finite terms; a zero is -0 only when every term is (R63). -/
def sumFin (ts : List (Bool × Nat × Int)) : Exact :=
  let nz := ts.filter (fun x => decide (x.2.1 ≠ 0))
  let e := (nz.map (·.2.2)).foldl min (match nz with | x :: _ => x.2.2 | [] => 0)
  let v := (nz.map (fun x => sgnMag x.1 (x.2.1 * 2 ^ (x.2.2 - e).toNat))).sum
  if v = 0 then ⟨ts.all (fun x => x.1 && decide (x.2.1 = 0)), 0, 0, false⟩ else ⟨decide (v < 0), v.natAbs, e, false⟩

/-- The floating sum of an interval (R62, R63): accumulator, and for each product its factors. -/
def mxFloat (f : FFmt) (acc : FVal) (ps : List (List FVal)) : Nat × Fl :=
  let prods := ps.map prodVal
  let zi := prods.any (·.2)
  let terms := acc :: prods.filterMap (·.1)
  let pinf := terms.any (fun x => x.isInf && !x.neg)
  let ninf := terms.any (fun x => x.isInf && x.neg)
  let sig := acc.isSig || ps.any (fun l => l.any (·.isSig))
  let nan := acc.isNaN || ps.any (fun l => l.any (·.isNaN))
  let fl := flIf (zi || (pinf && ninf) || sig) flNV
  if nan || zi || (pinf && ninf) then (f.canonNaN, fl)
  else if pinf || ninf then (f.withSign ninf f.infCode, fl)
  else
    let o := f.finish 0 false (.ex (sumFin (terms.filterMap (fun x => match x with | .fin s m e => some (s, m, e) | _ => none)))) 0
    (o.bits, fl ||| o.fl)

/-- The integer value of an operand code, and whether it is the reserved t2 code (R48). -/
def MEl.int (e : MEl) (x : Nat) : Int × Bool :=
  match e with
  | .i8 => (sgn 8 x, false)
  | .n8 => (x, false)
  | .t2 => (if x = 1 then 1 else if x = 3 then -1 else 0, decide (x = 2))
  | .fl _ => (0, false)

/-- Accumulator format of a step: FP64, FP32 or INT32 (R61). -/
def MxStep.pair (e : MxStep) : Bool := decide (e.fmt = 0)
def MxStep.isInt (e : MxStep) : Bool := decide (9 ≤ e.fmt)

/-- One element of an interval: its bits, poison and flags. -/
def MxStep.element (e : MxStep) (pa pb : MxPanel) (i j base : Nat) (bp : Bool) : Nat × Bool × Fl :=
  let ks := span 0 e.k
  let as := ks.map (packedEl e.a.el.width (pa.lines.getD i []))
  let bs := ks.map (packedEl e.b.el.width (pb.lines.getD j []))
  let pois := bp || as.any (·.2) || bs.any (·.2)
  if e.isInt then
    let av := as.map (fun x => e.a.el.int x.1)
    let bv := bs.map (fun x => e.b.el.int x.1)
    let v := sgn 32 base + ((av.zip bv).map (fun x => x.1.1 * x.2.1)).sum
    let tr := flIf (av.any (·.2) || bv.any (·.2)) flTRSVD
    if e.isat then
      let (c, cl) := clampI (-(2 ^ 31 : Nat)) ((2 ^ 31 : Nat) - 1) v
      (wrapTo 32 c, pois, tr ||| flIf cl flSAT)
    else (wrapTo 32 v, pois, tr)
  else
    let f : FFmt := if e.pair then .f64 else .f32
    let sa := ks.map (pa.scale e i)
    let sb := ks.map (pb.scale e j)
    let dec := fun (k : MEl) (x : Nat) => match k with | .fl f => f.decode x | _ => FVal.fin false 0 0
    let ps := ks.map (fun q => [dec e.a.el (as.getD q (0, false)).1, dec e.b.el (bs.getD q (0, false)).1,
      (sa.getD q (.fin false 1 0, false)).1, (sb.getD q (.fin false 1 0, false)).1])
    let (v, fl) := mxFloat f (f.decode base) ps
    (v, pois || sa.any (·.2) || sb.any (·.2), fl ||| flIf (sa.any (·.1.isNaN) || sb.any (·.1.isNaN)) flNANSC)

/-- Status bits gathered by a command: those of R72, and above them NX in bit 16 and UF in bit 17 for FPSTAT (log entry 16). -/
def mxStatus (fl : Fl) (pois parity : Bool) : Nat :=
  stIf pois stPOISON + statusOf fl + stIf parity stPARITY + stIf (fl.getLsbD 4) (2 ^ 16) + stIf (fl.getLsbD 3) (2 ^ 17)

/-- The FPSTAT fields that gathered status bits set (R71, R243). -/
def flOfStatus (st : Nat) : Fl :=
  flIf (bitOf st 2) flOUTL ||| flIf (bitOf st 3) flOLOST ||| flIf (bitOf st 4) flSAT ||| flIf (bitOf st 5) flNANSC ||| flIf (bitOf st 6) flNV |||
  flIf (bitOf st 7) flOF ||| flIf (bitOf st 11) flTRSVD ||| flIf (bitOf st 16) flNX ||| flIf (bitOf st 17) flUF

/-- Write one element of an interval: the accumulators, and the status so far. -/
def MxStep.update (e : MxStep) (pa pb : MxPanel) (n c : Nat) (x : Mx × Nat) (ij : Nat × Nat) : Mx × Nat :=
  let zero := e.fresh && decide (n < e.acn)
  let (v, p, bad) := if zero then (0, false, false) else x.1.read e.pair c ij.1 ij.2
  let (r, pois, fl) := e.element pa pb ij.1 ij.2 v p
  (x.1.write e.pair c ij.1 ij.2 r pois, stOr x.2 (mxStatus fl pois bad))

/-- The elements (i, j) with i < m and j < n, row by row. -/
def gridOf (m n : Nat) : List (Nat × Nat) := (span 0 m).flatMap (fun i => (span 0 n).map (fun j => (i, j)))

/-- Pop a side's ring and its scale ring (R237). -/
def Strand.popSide (t : Strand) (e : MxStep) (d : MxSide) : Strand :=
  let sc := t.scaleRing e d
  let t := t.modRing d.ring Ring.pop
  match sc with
  | some n => t.modRing n Ring.pop
  | none => t

/-- Interval `n` of a step on the head tiles as they stand (R242): the strand, and the status bits set. -/
def Strand.interval (t : Strand) (m : Mem) (e : MxStep) (n : Nat) : Strand × Nat :=
  let w := if e.pair then 2 else 1
  let c := e.acb + n % e.acn * w
  let pa := m.mxPanel t e e.a n
  let pb := m.mxPanel t e e.b n
  let (x, st) := (gridOf e.a.lines e.b.lines).foldl (e.update pa pb n c) (t.mx, 0)
  let t := { t with mx := x }
  let pops := fun (d : MxSide) => decide ((n + 1) % 2 ^ d.per = 0) || decide (n + 1 = e.rep)
  let t := if pops e.a then t.popSide e e.a else t
  let t := if pops e.b then t.popSide e e.b else t
  (t, st)

/-! ### Units of a store and a load (R245, R247) -/

/-- The tensor scales of a store, with whether one is NaN (R66). -/
def tsVal (ts : Nat) (daz : Bool) (x : Nat) : FVal := if ts = 0 then .fin false 1 0 else (if ts = 1 then FFmt.f32 else .bf16).read daz x

/-- The exact product of an accumulator element and its tensor scales: the value, whether it is invalid (0 times infinity or a signalling
NaN), and whether a scale is NaN (R66). -/
def scaledVal (x a b : FVal) : XRes × Bool × Bool :=
  let sig := x.isSig || a.isSig || b.isSig
  let ns := a.isNaN || b.isNaN
  match prodVal [x, a, b] with
  | (some v, _) => (v.toX, sig, ns)
  | (none, zi) => (.nan, sig || zi, ns)

/-- The floating destination of a DFMT code (R244). -/
def dfmtF : Nat → FFmt
  | 0 => .f32 | 1 => .bf16 | 2 => .f16 | 3 => .e4m3 | 4 => .e5m2 | 5 => .fp4 | _ => .f64

/-- An integer destination: the code, and whether it was clamped (R245). -/
def dfmtInt (dfmt : Nat) (x : Int) : Nat × Bool :=
  let r := if dfmt = 9 then clampI (-32768) 32767 x else if dfmt = 10 then clampI (-128) 127 x else if dfmt = 11 then clampI 0 255 x else (x, false)
  (wrapTo (dfmtBits dfmt) r.1, r.2)

/-- A store's parameters. -/
structure MxStore where
  ak : Nat
  dfmt : Nat
  ts : Nat
  tsa : Nat
  tsb : Nat
  tsp : Bool
  rm : Nat
  ftz : Bool
  daz : Bool
  outl : Option Nat
  deriving DecidableEq, Repr

/-- Element `idx` of a stored tile (R245): its code with poison, the status, and the state it leaves. -/
def MxStore.element (e : MxStore) (c idx : Nat) (o : OutlSt) : (Nat × Bool) × Nat × OutlSt :=
  let (v, p, bad) := o.t.mx.read (decide (e.ak = 2)) c (idx / 16) (idx % 16)
  if e.ak = 1 then
    let (d, cl) := dfmtInt e.dfmt (sgn 32 v)
    ((d, p), mxStatus (flIf cl flSAT) p bad, o)
  else
    let pois := p || e.tsp
    let f : FFmt := if e.ak = 2 then .f64 else .f32
    let (x, inv, ns) := scaledVal (f.read e.daz v) (tsVal e.ts e.daz e.tsa) (tsVal e.ts e.daz e.tsb)
    let rnd := o.t.rnd 17
    let d := dfmtF e.dfmt
    if 3 ≤ e.dfmt ∧ e.dfmt ≤ 5 then
      let (r, o) := narrowElem d e.rm inv x rnd pois e.outl idx o
      ((r.code, pois), mxStatus (r.fl ||| flIf inv flNV ||| flIf ns flNANSC) pois bad, { o with t := o.t.draw 17 r.drew })
    else
      let r := d.finish e.rm e.ftz x rnd
      ((r.bits, pois), mxStatus (r.fl ||| flIf inv flNV ||| flIf ns flNANSC) pois bad, { o with t := o.t.draw 17 r.drew })

/-- Elements of a stored tile in increasing index. -/
def MxStore.elements (e : MxStore) (c : Nat) : List Nat → OutlSt → List (Nat × Bool) × Nat × OutlSt
  | [], o => ([], 0, o)
  | i :: is, o =>
    let (x, st, o) := e.element c i o
    let (xs, st2, o) := MxStore.elements e c is o
    (x :: xs, stOr st st2, o)

/-- Packed bytes of elements of a width: two of 4 bits share a byte and its mark (R47, R73). -/
def packPB (w : Nat) : List (Nat × Bool) → List PB
  | [] => []
  | x :: xs =>
    if w < 8 then
      match xs with
      | y :: ys => (BitVec.ofNat 8 (x.1 + 16 * y.1), x.2 || y.2) :: packPB w ys
      | [] => [(BitVec.ofNat 8 x.1, x.2)]
    else pbOf (w / 8) x.1 x.2 ++ packPB w xs

/-- Units of a tile of `bits`-wide elements (R250); the elements of unit `u`. -/
def tileUnits (bits : Nat) : Nat := max 1 ((32 * bits + 127) / 128)
def unitElems (bits u : Nat) : List Nat := span (u * (1024 / bits)) (min 256 (1024 / bits))

/-- Load one element (R247). -/
def loadEl (lf c : Nat) (l : List PB) (base : Nat) (x : Mx × Nat) (idx : Nat) : Mx × Nat :=
  let (v, p) := packedEl (lfBits lf) l (idx - base)
  let wide := fun (f : FFmt) => FFmt.finish .f32 0 false (f.decode v).toX 0
  let r := match lf with | 1 => (wide .bf16).bits | 2 => (wide .f16).bits | _ => v
  let sig := match lf with | 1 => (FFmt.bf16.decode v).isSig | 2 => (FFmt.f16.decode v).isSig | _ => false
  (x.1.write (decide (lf = 3)) c (idx / 16) (idx % 16) r p, stOr x.2 (mxStatus (flIf sig flNV) p false))

/-! ### The engine (R250-R252) -/

/-- How a unit ends. -/
inductive MxEnd where
  | held
  | cause (c detail val : Nat)
  | ok (t : Strand) (m : Mem) (e : MxEnt) (st : Nat)

/-- The slot of a ring that a unit reaches (R275): the cause it raises, or whether it waits. -/
def Mem.ringReach (m : Mem) (t : Strand) (n tile : Nat) : Option (Option Nat) :=
  match m.ringAns t (t.ring n) true with
  | .detached => some (some ((t.ring n).tileVa tile))
  | .wait => some none
  | .bank _ => none

/-- Reach each of a list of rings at its head; the first that does not answer decides. -/
def Mem.ringsReach (m : Mem) (t : Strand) : List Nat → Option MxEnd
  | [] => none
  | n :: ns =>
    if (t.ring n).held = 0 then some .held
    else match m.ringReach t n (t.ring n).head with
      | some (some v) => some (.cause 0x03 0 v)
      | some none => some .held
      | none => m.ringsReach t ns

/-- Interval unit of the head entry. -/
def Strand.unitStep (t : Strand) (m : Mem) (x : MxEnt) (e : MxStep) : MxEnd :=
  match m.ringsReach t ([e.a.ring] ++ (t.scaleRing e e.a).toList ++ [e.b.ring] ++ (t.scaleRing e e.b).toList) with
  | some r => r
  | none =>
    let (ca, m') := m.mxCorr t e e.a x.done
    let (cb, m') := m'.mxCorr t e e.b x.done
    let (t, st) := t.interval m e x.done
    let st := stOr st (stIf (ca || cb) stECC)
    .ok t m' { x with done := x.done + 1, status := stOr x.status st } st

/-- Load unit. -/
def Strand.unitLd (t : Strand) (m : Mem) (x : MxEnt) (rs acb lf : Nat) : MxEnd :=
  match m.ringsReach t [rs] with
  | some r => r
  | none =>
    let bits := lfBits lf
    let u := x.done % tileUnits bits
    let c := acb + x.done / tileUnits bits * (if lf = 3 then 2 else 1)
    let r := t.ring rs
    let idx := unitElems bits u
    let bytes := m.bankRead (t.ringBank r) (r.tileOff r.head + 128 * u) 128
    let (corr, m) := m.bankCorr (t.ringBank r) (r.tileOff r.head + 128 * u) 128
    let (mx, st) := idx.foldl (loadEl lf c bytes (u * (1024 / bits))) (t.mx, stIf corr stECC)
    let t := { t with mx := mx }
    let t := if u + 1 = tileUnits bits then t.setRing rs r.pop else t
    .ok t m { x with done := x.done + 1, status := stOr x.status st } st

/-- Whether an outlier ring holds landed tiles behind others that have not landed (R69): a destination tile waits for them. -/
def Strand.outlWaits (t : Strand) (n : Option Nat) : Bool :=
  match n with
  | some n => (t.ring n).resv.any (·.landed)
  | none => false

/-- Store unit: the tile is reserved with its first unit, and with its last every byte of it is written. -/
def Strand.unitSt (t : Strand) (m : Mem) (x : MxEnt) (e : MxStore) (rd acb : Nat) : MxEnd :=
  let bits := dfmtBits e.dfmt
  let u := x.done % tileUnits bits
  let r0 := t.ring rd
  let pending := match x.tile with | some k => decide (u = 0) && r0.resv.any (fun v => decide (v.tile = k) && !v.written) | none => false
  if pending then
    (if t.outlWaits e.outl then .held else .ok (t.setRing rd (r0.wrote (x.tile.getD 0))) m x 0)
  else if decide (u = 0) && r0.full then .held
  else
    let tile := if u = 0 then r0.nextTile else x.tile.getD 0
    match m.ringReach t rd tile with
    | some (some v) => .cause 0x03 0 v
    | some none => .held
    | none =>
      let t1 := if u = 0 then t.setRing rd r0.reserve else t
      let c := acb + x.done / tileUnits bits * (if e.ak = 2 then 2 else 1)
      let (els, st, o) := e.elements c (unitElems bits u) ⟨t1, m, x.outl⟩
      let o := if u + 1 = tileUnits bits then o.finish else o
      let touched := match e.outl with | some n => decide (o.t.ring n ≠ t1.ring n) || decide (o.fill ≠ x.outl) || x.outl.isSome | none => false
      match (if touched then m.ringReach t (e.outl.getD 0) ((x.outl.map (·.tile)).getD (t.ring (e.outl.getD 0)).nextTile) else none) with
      | some (some v) => .cause 0x03 0 v
      | some none => .held
      | none =>
        let m := o.m.ringWrite o.t (o.t.ring rd) ((o.t.ring rd).tileOff tile + 128 * u) (packPB bits els)
        let t := o.t
        let t := if u + 1 = tileUnits bits ∧ t.outlWaits e.outl = false then t.modRing rd (fun r => r.wrote tile) else t
        .ok t m { x with done := x.done + 1, status := stOr x.status st, tile := some tile, outl := o.fill } st

/-- Zero one tile (R248). -/
def Mx.zeroTile (x : Mx) (c : Nat) : Mx := { x with acc := tblClear x.acc (256 * c) (256 * c + 256) }

/-- Copy or transpose a tile: the whole source is read first (R248). The status is ACC_PARITY alone. -/
def Mx.movTile (x : Mx) (src dst : Nat) (tr : Bool) : Mx × Nat :=
  (gridOf 16 16).foldl (fun (a : Mx × Nat) ij =>
    let (v, p, bad) := (if tr then x.el src ij.2 ij.1 else x.el src ij.1 ij.2).read
    (a.1.putEl dst ij.1 ij.2 ⟨BitVec.ofNat 32 v, p, false⟩, stOr a.2 (stIf bad stPARITY))) (x, 0)

/-- One unit of the head entry (R250), its ring checks made again first (R251, R252). -/
def Strand.mxUnit (t : Strand) (m : Mem) (x : MxEnt) : MxEnd :=
  match t.mxRing x.cmd with
  | some (d, v) => .cause 0x09 d v
  | none =>
    match x.cmd with
    | .step fmt rna rnb acb acn shape pa pb blk sfmt fresh rep isat =>
      t.unitStep m x (MxStep.of fmt rna rnb acb acn shape pa pb blk sfmt fresh rep isat)
    | .zero acb _ => .ok { t with mx := t.mx.zeroTile (acb + x.done) } m { x with done := x.done + 1 } 0
    | .ld rs acb _ lf => t.unitLd m x rs acb lf
    | .st rd acb _ ak dfmt ts ore tsa tsb tsp rm ftz daz =>
      t.unitSt m x ⟨ak, dfmt, ts, tsa, tsb, tsp, rm, ftz, daz, t.storeOutl rd dfmt ore⟩ rd acb
    | .mov src dst tr =>
      let (mx, st) := t.mx.movTile src dst tr
      .ok { t with mx := mx } m { x with done := x.done + 1, status := stOr x.status st } st

/-- Units of a command (R250). -/
def MxCmd.units : MxCmd → Nat
  | .step _ _ _ _ _ _ _ _ _ _ _ rep _ => rep
  | .zero _ n => n
  | .ld _ _ n lf => n * tileUnits (lfBits lf)
  | .st _ _ n _ dfmt _ _ _ _ _ _ _ _ => n * tileUnits (dfmtBits dfmt)
  | .mov _ _ _ => 1

/-- Replace the head entry. -/
def Strand.mxHead (t : Strand) (x : MxEnt) : Strand :=
  { t with mx := { t.mx with queue := match t.mx.queue with | _ :: q => x :: q | [] => [] } }
/-- Set HELD of MXSTAT. -/
def Strand.mxHeld (t : Strand) (h : Bool) : Strand := { t with mx := { t.mx with held := h } }
/-- The head entry has completed. -/
def Strand.mxPop (t : Strand) : Strand := ({ t with mx := { t.mx with queue := t.mx.queue.drop 1, held := false } }).progress

/-- Whether the tiles of a store have all been pushed (R245). -/
def Strand.mxPushed (t : Strand) (x : MxEnt) : Bool :=
  match x.cmd, x.tile with
  | .st rd _ _ _ _ _ _ _ _ _ _ _ _, some k => !(t.ring rd).reserved k
  | _, _ => true

/-- Complete the head entry (R243): status first, then the arrival, which may trap and be made again after `rett`. -/
def State.mxComplete (s : State) (sn : Nat) (t : Strand) (x : MxEnt) : State :=
  let t := if x.last then t else ((t.addFl (flOfStatus x.status)).addMx (x.status % 2 ^ 15)).mxHead { x with last := true }
  if x.arr = 0 then s.setStrand sn t.mxPop
  else match s.mem.slotAnsDrain t (winSlot x.arr) with
    | .detached => (s.setStrand sn t).engineTrap sn 0x03 2 0 x.arr
    | .wait => s.setStrand sn t
    | .bank b => (s.modMem (fun m => m.arrive b (winOff x.arr) 1 (x.status % 2 ^ 15))).setStrand sn t.mxPop

/-- Whether the outlier tiles of a store's last tile keep it from being pushed. -/
def Strand.mxLastWaits (t : Strand) (x : MxEnt) : Bool :=
  match x.cmd, x.tile with
  | .st rd _ _ _ _ _ _ _ _ _ _ _ _, some k => (t.ring rd).resv.any (fun v => decide (v.tile = k) && !v.written)
  | _, _ => false

/-- One interval slot of a strand (R28, R250). -/
def State.mxSlot (s : State) (sn : Nat) (t : Strand) (kind : MxCmd → Bool) : State :=
  match t.mx.queue with
  | [] => s
  | x :: _ =>
    if !kind x.cmd || !t.engineOn 2 || t.barred (dieOfSn sn) x.seq 2 then s
    else if x.cmd.units ≤ x.done ∧ t.mxLastWaits x = false then (if t.mxPushed x then s.mxComplete sn t x else s.setStrand sn (t.mxHeld false))
    else match t.mxUnit s.mem x with
      | .held => s.setStrand sn (t.mxHeld true)
      | .cause c d v => s.engineTrap sn c 2 d v
      | .ok t m x st =>
        let t := (((t.mxHead x).mxHeld false).addMx (st % 2 ^ 15)).progress
        let s := (s.setMem m).setStrand sn t
        if x.cmd.units ≤ x.done && !t.mxLastWaits x && t.mxPushed x then s.mxComplete sn t x else s

/-- MX_INTERVAL (R242): one interval of the head tile step. -/
def execMxInterval (s : State) : Host.Outcome State Fault Refusal :=
  s.forStrand fun sn t => s.mxSlot sn t (fun c => match c with | .step _ _ _ _ _ _ _ _ _ _ _ _ _ => true | _ => false)
/-- MX_TRANSFER_UNIT (R250): 128 bytes of the tile that the head `mxld` or `mxst` moves. -/
def execMxTransferUnit (s : State) : Host.Outcome State Fault Refusal :=
  s.forStrand fun sn t => s.mxSlot sn t (fun c => match c with | .ld _ _ _ _ => true | .st _ _ _ _ _ _ _ _ _ _ _ _ _ => true | _ => false)
/-- MX_TILE_UNIT (R248): one tile of the head `mxzero` or `mxmov`. -/
def execMxTileUnit (s : State) : Host.Outcome State Fault Refusal :=
  s.forStrand fun sn t => s.mxSlot sn t (fun c => match c with | .zero _ _ => true | .mov _ _ _ => true | _ => false)

end Sys2Proof.Machine
end

