-- ==== Sys2Proof/Machine/Tok.lean ====
section
/-! DEFINITION. Tokens (R23, R30, R206, R207). -/
namespace Sys2Proof.Machine

/-- An aligned subgroup of log2 width, log2 height and index (R23): its members' linear positions, or none. -/
def Inst.subgroup (i : Inst) (lw lh j : Nat) : Option (List Nat) :=
  if i.logw < lw ∨ i.logh < lh ∨ 2 ^ (i.logw - lw) * 2 ^ (i.logh - lh) ≤ j then none
  else
    let nx := 2 ^ (i.logw - lw)
    let ox := 2 ^ lw * (j % nx)
    let oy := 2 ^ lh * (j / nx)
    some ((span 0 (2 ^ lh)).flatMap (fun dy => (span 0 (2 ^ lw)).map (fun dx => i.lin (ox + dx) (oy + dy))))

/-- Send a token to each of a list of positions (R207). -/
def State.sendTokens (s : State) (t : Strand) (ch : Nat) (ls : List Nat) : State :=
  { s with toks := s.toks ++ ls.map (fun l => ⟨t.kinst, t.lin, l, ch⟩) }

/-- `toksend` (R207). -/
def execToksend (ga : Reg) (ch : BitVec 4) (s : State) : Host.Outcome State Fault Refusal :=
  s.onStrand fun sn t =>
    if t.allot.tkn ≤ ch.toNat then s.illegal sn (Instr.toksend ga ch).tval
    else if t.busy [ga] then s
    else if t.gp ga then s.poisonTrap sn ga
    else
      let v := (t.g ga).toNat
      let i := s.instOf t.kinst
      if i.w ≤ bitsOf v 0 8 ∨ i.h ≤ bitsOf v 8 8 ∨ 2 ^ 16 ≤ v then s.illegal sn (Instr.toksend ga ch).tval
      else (s.setStrand sn (t.retire 4)).sendTokens t ch.toNat [i.lin (bitsOf v 0 8) (bitsOf v 8 8)]

/-- `tokbc` (R207). -/
def execTokbc (ga : Reg) (ch : BitVec 4) (s : State) : Host.Outcome State Fault Refusal :=
  s.onStrand fun sn t =>
    if t.allot.tkn ≤ ch.toNat then s.illegal sn (Instr.tokbc ga ch).tval
    else if t.busy [ga] then s
    else if t.gp ga then s.poisonTrap sn ga
    else
      let v := (t.g ga).toNat
      if Nat.land v (2 ^ 64 - 1 - 0x7F37) ≠ 0 then s.illegal sn (Instr.tokbc ga ch).tval
      else match (s.instOf t.kinst).subgroup (bitsOf v 0 3) (bitsOf v 4 2) (bitsOf v 8 7) with
        | none => s.illegal sn (Instr.tokbc ga ch).tval
        | some ls => (s.setStrand sn (t.retire 4)).sendTokens t ch.toNat ls

/-- `tokwait` (R207). -/
def execTokwait (ch : BitVec 4) (s : State) : Host.Outcome State Fault Refusal :=
  s.onStrand fun sn t =>
    if t.allot.tkn ≤ ch.toNat then s.illegal sn (Instr.tokwait ch).tval
    else if t.token ch.toNat then s.setStrand sn ((t.takeToken ch.toNat).retire 4)
    else s

/-- `tokpoll` (R207): never waits; the result is never poisoned. -/
def execTokpoll (gd : Reg) (ch : BitVec 4) (s : State) : Host.Outcome State Fault Refusal :=
  s.onStrand fun sn t =>
    if t.allot.tkn ≤ ch.toNat then s.illegal sn (Instr.tokpoll gd ch).tval
    else if t.busy [gd] then s
    else s.setStrand sn ((t.takeToken ch.toNat).done 4 gd (BitVec.ofNat 64 (b2n (t.token ch.toNat))) false)

/-- A token lands on a strand, on a channel it has. -/
def Strand.landToken (t : Strand) (ch : Nat) : Strand := if ch < t.allot.tkn then (t.setToken ch).progress else t

end Sys2Proof.Machine
end

