-- ==== Sys2Proof/Machine/Stream.lean ====
section
/-! DEFINITION. The stream engine's commands at issue (R279-R288) and address-generator tiles (R279-R283). -/
namespace Sys2Proof.Machine

/-! ### Address-generator tiles -/

def Strand.ag (t : Strand) (a : Nat) : Ag := tblGet .off t.str.ags a
def Strand.setAg (t : Strand) (a : Nat) (g : Ag) : Strand := { t with str := { t.str with ags := tblPut .off t.str.ags a g } }

/-- E, the elements of a tile's stream (R279). -/
def Ag.total (g : Ag) : Nat := g.n.foldl (· * ·) 1

/-- Counter i at element n (R279). -/
def Ag.counter (g : Ag) (n i : Nat) : Nat := n / (g.n.take i).foldl (· * ·) 1 % g.n.getD i 1

/-- The address of element n of an address stream (R279). -/
def Ag.address (g : Ag) (n : Nat) : Nat :=
  wrapTo 64 ((g.base : Int) + ((span 0 4).map (fun i => (g.counter n i : Int) * sgn 64 (g.s.getD i 0))).sum)

/-- Coordinate d of element n of a tensor stream (R279). -/
def Ag.coord (g : Ag) (n d : Nat) : Int :=
  (bitsOf g.base (16 * d) 16 : Nat) +
    ((span 0 4).map (fun i => if g.s.getD i 0 % 4 = d then (g.counter n i : Int) * sgn 16 (g.s.getD i 0 / 4) else 0)).sum

/-- Whether the command that the engine executes runs tile `a` (R282, R292). DESIGN CHOICE (log entry 46): a tile that only a command further back in
the queue names is not running for `ringld` and `ringst`, while it holds `agcfg` and takes the mark of `agstop` (`Strand.agUsed`). -/
def Strand.agRunning (t : Strand) (a : Nat) : Bool :=
  match t.str.queue with
  | e :: _ => (match e.cmd with | .ringld _ _ _ g => decide (g = some a) | .ringst _ _ _ g => decide (g = some a) | _ => false)
  | [] => false

/-- Whether a command of the queue, executing or not, names tile `a` (R292; log entry 46). -/
def Strand.agUsed (t : Strand) (a : Nat) : Bool :=
  t.str.queue.any (fun e => match e.cmd with | .ringld _ _ _ g => decide (g = some a) | .ringst _ _ _ g => decide (g = some a) | _ => false)

/-- The mode word of `agcfg` (R280), or none for values it refuses. -/
def agMode (ga gb : Nat) : Option Ag :=
  let les := bitsOf gb 1 3
  let ten := bitOf gb 0
  let bind := bitOf gb 10
  if bitsOf gb 16 48 ≠ 0 ∨ les = 7 ∨ (bind = true ∧ 2 < les) ∨ (bind = true ∧ ten = true ∧ bitOf gb 15 = true ∧ les ≠ 2) then none
  else some ⟨true, ten, les, bitsOf gb 4 6, bind, bitsOf gb 11 4, bitOf gb 15, ga, [1, 1, 1, 1], [0, 0, 0, 0], 0, .stopped, 0, false, 0, false, 0, none⟩

/-- A counter of `agcfg` (R280), or none for values it refuses. -/
def Ag.counterSet (g : Ag) (i ga gb : Nat) : Option Ag :=
  if ga = 0 ∨ 2 ^ 32 ≤ ga then none
  else if g.ten then
    if bitsOf gb 2 14 ≠ 0 ∨ bitsOf gb 32 32 ≠ 0 then none
    else some { g with n := modAt (fun _ => ga) g.n i, s := modAt (fun _ => bitsOf gb 0 2 + 4 * bitsOf gb 16 16) g.s i }
  else some { g with n := modAt (fun _ => ga) g.n i, s := modAt (fun _ => gb) g.s i }

/-- `agcfg` (R280): a running tile holds it unretired. -/
def execAgcfg (ga gb : Reg) (ctr : BitVec 3) (ag : BitVec 2) (s : State) : Host.Outcome State Fault Refusal :=
  s.onStrand fun sn t =>
    let a := ag.toNat
    let i := Instr.agcfg ga gb ctr ag
    if t.allot.nag ≤ a || !agcfgLegal ctr then s.illegal sn i.tval
    else if t.busy [ga, gb] then s
    else match t.firstPois [ga, gb] with
      | some r => s.poisonTrap sn r
      | none =>
        let x := (t.g ga).toNat
        let y := (t.g gb).toNat
        match (if ctr = 4 then agMode x y else (t.ag a).counterSet ctr.toNat x y) with
        | none => s.illegal sn i.tval
        | some g => if decide ((t.ag a).run ≠ .stopped) || t.agUsed a then s else s.setStrand sn ((t.setAg a g).retire 8)

/-- `agrun` (R281): an unbound or unconfigured tile is ILLEGAL; a running one holds it unretired. -/
def execAgrun (fch : BitVec 4) (fen : BitVec 1) (sch : BitVec 4) (sen : BitVec 1) (ag : BitVec 2) (s : State) : Host.Outcome State Fault Refusal :=
  s.onStrand fun sn t =>
    let g := t.ag ag.toNat
    if t.allot.nag ≤ ag.toNat || (decide (sen = 1) && decide (t.allot.tkn ≤ sch.toNat)) || (decide (fen = 1) && decide (t.allot.tkn ≤ fch.toNat)) ||
        !g.conf || !g.bind then
      s.illegal sn (Instr.agrun fch fen sch sen ag).tval
    else if g.run ≠ .stopped then s
    else
      let g := { g with run := if sen = 1 then AgRun.token else .running, pos := 0, sch := sch.toNat, fen := decide (fen = 1), fch := fch.toNat,
                        seq := t.seq.seq, parked := none }
      s.setStrand sn ((t.nextSeq.setAg ag.toNat g).retire 8)

/-- A tile stops, setting its finish channel (R281, R282). -/
def Strand.agEnd (t : Strand) (a : Nat) : Strand :=
  let g := t.ag a
  let t := (t.setAg a { g with run := .stopped, parked := none }).progress
  if g.fen then t.setToken g.fch else t

/-- `agstop` (R282): a bound tile stops between its elements; an unbound one that a command uses ends it at its next tile boundary. -/
def execAgstop (ag : BitVec 2) (s : State) : Host.Outcome State Fault Refusal :=
  s.onStrand fun sn t =>
    let a := ag.toNat
    let g := t.ag a
    if t.allot.nag ≤ a then s.illegal sn (Instr.agstop ag).tval
    else if g.run ≠ .stopped then s.setStrand sn ((t.agEnd a).retire 8)
    else if t.agUsed a then s.setStrand sn ((t.setAg a { g with stop := true }).retire 8)
    else s.setStrand sn (t.retire 8)

/-! ### Commands at issue (R287, R288) -/

/-- A command enters the stream queue and its instruction, of `n` bytes, retires; a full queue holds it (R288). -/
def State.strEnter (s : State) (sn : Nat) (t : Strand) (cmd : SCmd) (arr n : Nat) : State :=
  if 16 ≤ t.str.queue.length then s
  else
    let c := t.seq.ctl
    let e : SEnt := ⟨t.seq.seq, cmd, arr, 0, 0, c.rm, c.ftz, c.daz, none, 0, none, 0, none⟩
    let t := t.nextSeq
    s.setStrand sn ({ t with str := { t.str with queue := t.str.queue ++ [e] } }.retire n)

/-- Checks 3 and 4 of R288, then the queue; `rings` are the rings that must hold one. -/
def State.strIssue (s : State) (sn : Nat) (t : Strand) (cmd : SCmd) (gc : Reg) (rings : List Nat) : State :=
  match s.mem.arrCheck t (t.g gc).toNat with
  | .trap c d v => s.trap sn c 0 d v
  | .wait => s
  | .ok a =>
    match rings.find? (fun n => !(t.ring n).live) with
    | some n => s.trap sn 0x09 0 0x02 n
    | none => s.strEnter sn t cmd a 8

/-- `copy` (R290). -/
def execCopy (ga gb gc gd : Reg) (s : State) : Host.Outcome State Fault Refusal :=
  s.onStrand fun sn t =>
    if t.busy [ga, gb, gc, gd] then s
    else if t.gp gd then s.poisonTrap sn gd
    else if 2 ^ 32 ≤ (t.g gd).toNat then s.illegal sn (Instr.copy ga gb gc gd).tval
    else match t.firstPois [ga, gb, gc] with
      | some r => s.poisonTrap sn r
      | none => s.strIssue sn t (.copy (t.g ga).toNat (t.g gb).toNat (t.g gd).toNat) gc []

/-- Whether `n` bytes at an address lie wholly in the window. -/
def windowRange (va n : Nat) : Bool := inWindow va && decide (va + n ≤ 2 ^ 64)

/-- `gath` and `scat` (R291). -/
def indexOp (i : Instr) (mk : Nat → Nat → Nat → SCmd) (ga gb gc gd : Reg) (les : BitVec 3) (cnt : BitVec 16) (s : State) :
    Host.Outcome State Fault Refusal :=
  s.onStrand fun sn t =>
    if !gathLegal les cnt then s.illegal sn i.tval
    else if t.busy [ga, gb, gc, gd] then s
    else match t.firstPois [ga, gb, gc, gd] with
      | some r => s.poisonTrap sn r
      | none =>
        match s.mem.arrCheck t (t.g gc).toNat with
        | .trap c d v => s.trap sn c 0 d v
        | .wait => s
        | .ok a =>
          if !windowRange (t.g gd).toNat (4 * cnt.toNat) then s.trap sn 0x04 0 2 (t.g gd).toNat
          else s.strEnter sn t (mk (t.g ga).toNat (t.g gb).toNat (t.g gd).toNat) a 8

/-- `gath` (R291). -/
def execGath (ga gb gc gd : Reg) (les : BitVec 3) (cnt : BitVec 16) : State → Host.Outcome State Fault Refusal :=
  indexOp (.gath ga gb gc gd les cnt) (fun d b x => .gath d b x cnt.toNat les.toNat) ga gb gc gd les cnt
/-- `scat` (R291). -/
def execScat (ga gb gc gd : Reg) (les : BitVec 3) (cnt : BitVec 16) : State → Host.Outcome State Fault Refusal :=
  indexOp (.scat ga gb gc gd les cnt) (fun d b x => .scat d b x cnt.toNat les.toNat) ga gb gc gd les cnt

/-- `ringld` and `ringst` (R292): a tile named by AGE is configured, unbound and stopped (R288; log entry 22). -/
def ringOp (i : Instr) (mk : Nat → Option Nat → SCmd) (ga : Reg) (ag : BitVec 2) (age : BitVec 1) (n : BitVec 9) (rg : BitVec 4) (s : State) :
    Host.Outcome State Fault Refusal :=
  s.onStrand fun sn t =>
    let g := t.ag ag.toNat
    if t.allot.nrg ≤ rg.toNat || !ringldLegal ga age n ||
        (decide (age = 1) && (decide (t.allot.nag ≤ ag.toNat) || !g.conf || g.bind || decide (g.run ≠ .stopped) || t.agRunning ag.toNat)) then s.illegal sn i.tval
    else if t.busy [ga] then s
    else if t.gp ga then s.poisonTrap sn ga
    else s.strIssue sn t (mk (t.g ga).toNat (if age = 1 then some ag.toNat else none)) 0 [rg.toNat]

/-- `ringld` (R292). -/
def execRingld (ga : Reg) (ag : BitVec 2) (age : BitVec 1) (n : BitVec 9) (rg : BitVec 4) : State → Host.Outcome State Fault Refusal :=
  ringOp (.ringld ga ag age n rg) (fun a g => .ringld a rg.toNat n.toNat g) ga ag age n rg
/-- `ringst` (R292). -/
def execRingst (ga : Reg) (ag : BitVec 2) (age : BitVec 1) (n : BitVec 9) (rg : BitVec 4) : State → Host.Outcome State Fault Refusal :=
  ringOp (.ringst ga ag age n rg) (fun a g => .ringst a rg.toNat n.toNat g) ga ag age n rg

/-- `tsload` (R285): the descriptor is checked when it has been read. -/
def execTsload (ga : Reg) (slot : BitVec 6) (s : State) : Host.Outcome State Fault Refusal :=
  s.onStrand fun sn t =>
    if t.busy [ga] then s
    else if t.gp ga then s.poisonTrap sn ga
    else s.strIssue sn t (.tsload (t.g ga).toNat slot.toNat) 0 []

/-- `deliv` (R294): its object is resolved in the target's map; a source range that leaves the window is ALIGN with DETAIL 2 (log entry 22). -/
def execDeliv (ga gb gc gd : Reg) (dst : BitVec 20) (s : State) : Host.Outcome State Fault Refusal :=
  s.onStrand fun sn t =>
    if t.busy [ga, gb, gc, gd] then s
    else match t.firstPois [ga, gd] with
      | some r => s.poisonTrap sn r
      | none =>
        let a := (t.g ga).toNat
        let n := (t.g gd).toNat
        let i := s.instOf t.kinst
        if 65536 < n ∨ 2 ^ 16 ≤ a ∨ i.w ≤ bitsOf a 0 8 ∨ i.h ≤ bitsOf a 8 8 ∨ 65536 < dst.toNat % 65536 + n then
          s.illegal sn (Instr.deliv ga gb gc gd dst).tval
        else match t.firstPois [gb, gc] with
          | some r => s.poisonTrap sn r
          | none =>
            if t.g gc ≠ 0 ∧ arrAligned (t.g gc).toNat = false then s.trap sn 0x0A 0 0x20 (t.g gc).toNat
            else if n ≠ 0 ∧ windowRange (t.g gb).toNat n = false then s.trap sn 0x04 0 2 (t.g gb).toNat
            else s.strEnter sn t (.deliv (i.lin (bitsOf a 0 8) (bitsOf a 8 8)) (t.g gb).toNat n dst.toNat) (t.g gc).toNat 8

/-- `cvcopy` (R293). -/
def execCvcopy (ga gb gc gd : Reg) (ore : BitVec 1) (orn df sf : BitVec 4) (s : State) : Host.Outcome State Fault Refusal :=
  s.onStrand fun sn t =>
    if (decide (ore = 1) && decide (t.allot.nrg ≤ orn.toNat)) || !cvcopyLegal ore df sf then s.illegal sn (Instr.cvcopy ga gb gc gd ore orn df sf).tval
    else if t.busy [ga, gb, gc, gd] then s
    else match t.firstPois [ga, gb, gc, gd] with
      | some r => s.poisonTrap sn r
      | none =>
        let o := if ore = 1 then some orn.toNat else none
        s.strIssue sn t (.cvcopy (t.g ga).toNat (t.g gb).toNat (t.g gd).toNat sf.toNat df.toNat o) gc o.toList

/-! ### Messages at issue (R295-R297) -/

/-- The targets of a `send`: a position, or an aligned subgroup (R296). -/
def Inst.sendTargets (i : Inst) (x : Nat) : Option (List Nat) :=
  if bitsOf x 43 21 ≠ 0 ∨ 512 < bitsOf x 32 10 then none
  else if bitOf x 42 then
    (if Nat.land (bitsOf x 0 16) (2 ^ 16 - 1 - 0x7F37) ≠ 0 then none else i.subgroup (bitsOf x 0 3) (bitsOf x 4 2) (bitsOf x 8 7))
  else if i.w ≤ bitsOf x 0 8 ∨ i.h ≤ bitsOf x 8 8 then none
  else some [i.lin (bitsOf x 0 8) (bitsOf x 8 8)]

/-- `send` (R296): gd is pending until every target has answered. -/
def execSend (gd ga gb : Reg) (s : State) : Host.Outcome State Fault Refusal :=
  s.onStrand fun sn t =>
    if t.busy [gd, ga, gb] then s
    else match t.firstPois [ga, gb] with
      | some r => s.poisonTrap sn r
      | none =>
        let x := (t.g gb).toNat
        match (s.instOf t.kinst).sendTargets x with
        | none => s.illegal sn (Instr.send gd ga gb).tval
        | some ls =>
          if bitsOf x 32 10 ≠ 0 ∧ windowRange (t.g ga).toNat (bitsOf x 32 10) = false then s.trap sn 0x04 0 2 (t.g ga).toNat
          else if 16 ≤ t.str.queue.length then s
          else
            let a : Acc := ⟨t.seq.nextId, t.seq.seq, gd.toNat, (t.g ga).toNat, .send ls.length 0, [], false, false⟩
            let cmd := SCmd.send a.id (t.g ga).toNat (bitsOf x 32 10) (bitsOf x 16 16) ls
            let t := (t.nextAcc.mapSeq (fun q => { q with loads := q.loads ++ [a] })).setPend gd
            s.strEnter sn t cmd 0 4

end Sys2Proof.Machine
end

