-- ==== Sys2Proof/Machine/StreamStep.lean ====
section
/-! DEFINITION. The steps of the stream engine (R283-R294): elements of commands and of address-generator tiles, on the CP path. -/
namespace Sys2Proof.Machine

/-! ### Accesses on the CP path (R169, R289) -/

/-- Bytes left in the bank row, or in the line, of an address. -/
def cpRow (va : Nat) : Nat := if inWindow va then 64 - va % 64 else 128 - va % 128

/-- Pieces of `n` bytes at `va`: no piece crosses a bank row, a line or a page (R169). -/
def cpPieces : Nat → Nat → Nat → List (Nat × Nat)
  | 0, _, _ => []
  | k + 1, va, n => if n = 0 then [] else if n ≤ cpRow va then [(va, n)] else (va, cpRow va) :: cpPieces k ((va + cpRow va) % 2 ^ 64) (n - cpRow va)

/-- Check the pieces of an access in order (R289): its parts, or how the first that fails ends. -/
def Mem.cpCheck (core : Nat) (t : Strand) (perm : Perm) : Mem → List (Nat × Nat) → List Part → Except Chk (List Part) × Mem
  | m, [], ps => (.ok ps, m)
  | m, (va, n) :: rest, ps =>
    match m.element core t va n perm [] with
    | (.ok qs, m) => Mem.cpCheck core t perm m rest (ps ++ qs)
    | (c, m) => (.error c, m)

/-- Parts of an access to a physical address: plain (R284). -/
def physParts (pa n : Nat) : List Part := (cpPieces n pa n).map (fun x => ⟨0, x.2, .frame x.1, false, false, false, false, false, []⟩)

/-- Give the parts of a write their bytes. -/
def fillParts : List Part → List PB → List Part
  | [], _ => []
  | p :: ps, l => { p with data := l.take p.n } :: fillParts ps (l.drop p.n)

/-- On whose behalf the engine makes an access: what a park and a corrected table entry do (R171, R271), and whether it is the current
command: `who` 0, or a tile, 1 + its number. -/
structure Actor where
  onPark : Bool × Nat → Strand → Strand
  onCorr : Strand → Strand
  cmd : Bool
  who : Nat

/-- How accesses of an element end: with bytes and whether a chunk was corrected, or with the state they leave. -/
inductive El where
  | ok (data : List PB) (corr : Bool) (s : State)
  | stop (s : State)

/-- An access that fails its checks (R289): a cause, a park, or a wait. -/
def State.cpFail (s : State) (sn : Nat) (a : Actor) (wr : Bool) (c : Chk) : State :=
  match c with
  | .trap c d v => s.engineTrap sn c 3 d v
  | .park va k e l =>
    let (w, s) := s.parkRecord sn 1 va k e l wr false
    s.modStrand sn (a.onPark w)
  | _ => s

/-- Read the parts of an element (R108, R110, R131); an access to an SCO page waits for the acknowledgement of the path's previous one (R127). -/
def State.cpRead (sn : Nat) (t : Strand) (a : Actor) : State → List Part → List PB → Bool → El
  | s, [], acc, corr => .ok acc corr s
  | s, p :: ps, acc, corr =>
    if p.sco && t.scoUnackedCp then .stop s
    else match s.readPart sn t 1 (cpAcc a.who p.va) p with
    | .ok d c s => State.cpRead sn t a s ps (acc ++ d) (corr || c)
    | .hold s => .stop s
    | .race c s => .stop (s.engineRace sn 3 1 p.va c)

/-- How the writes of an element end: with the state, or at a part that is held or conflicts. -/
inductive Wr where
  | ok (s : State)
  | hold (s : State)
  | race (p : Part) (c : Conflict)

/-- The writes of the parts of an element, in order; `arr` is the object of its arrivals. -/
def State.cpWrites (sn : Nat) (t : Strand) (a : Actor) (arr : Nat) : State → List Part → Wr
  | s, [] => .ok s
  | s, p :: ps =>
    if p.sco && ((s.strand? sn).any Strand.scoUnackedCp) then .hold s
    else match s.writePart sn t 1 (cpAcc a.who p.va) (.cp p.sco a.cmd arr p.n) p with
    | .ok _ _ s => State.cpWrites sn t a arr s ps
    | .hold s => .hold s
    | .race c _ => .race p c

/-- Write the parts of an element, all or none (R289, R303): an element that stops leaves only what it waits for. -/
def State.cpWrite (sn : Nat) (t : Strand) (a : Actor) (arr : Nat) (s : State) (ps : List Part) : El :=
  match State.cpWrites sn t a arr s ps with
  | .ok s => .ok [] false s
  | .hold s2 => .stop (s.modMem (fun m => { m with spills := s2.mem.spills }))
  | .race p c => .stop (s.engineRace sn 3 1 p.va c)

/-! ### The layout unit (R284, R286) -/

/-- How the layout unit answers: an address, OUTSIDE, a TENSOR cause, a failed or unfinished read of the tile table. -/
inductive Lay where
  | addr (pa : Nat) (pois : Bool) (s : State)
  | outside
  | cause (detail : Nat)
  | stop (s : State)

/-- Grid extent in dimension d. -/
def Tensor.grid (x : Tensor) (d : Nat) : Nat := (x.e.getD d 1 + x.t.getD d 1 - 1) / x.t.getD d 1

/-- The number whose bit n * b + d is bit b of the d-th of n numbers (R284). -/
def interleave (n : Nat) (ts : List Nat) : Nat :=
  ((span 0 16).map (fun b => ((span 0 n).map (fun d => b2n (bitOf (ts.getD d 0) b) * 2 ^ (n * b + d))).sum)).sum

/-- The tile of coordinates, and the offset in it (R284). -/
def Tensor.locate (x : Tensor) (c : List Nat) : Nat × Nat :=
  let tc := (span 0 4).map (fun d => c.getD d 0 / x.t.getD d 1)
  let mc := (span 0 4).map (fun d => c.getD d 0 % x.t.getD d 1)
  let t := fun d => tc.getD d 0
  let m := fun d => mc.getD d 0
  let tile := match x.layout with
    | 0 => t 0 + x.grid 0 * (t 1 + x.grid 1 * (t 2 + x.grid 2 * t 3))
    | 1 => t 3 + x.grid 3 * (t 2 + x.grid 2 * (t 1 + x.grid 1 * t 0))
    | _ => interleave x.ndim tc
  (tile, (m 0 + x.t.getD 0 1 * (m 1 + x.t.getD 1 1 * (m 2 + x.t.getD 2 1 * m 3))) * 2 ^ x.les)

/-- TVAL of a TENSOR cause (R286). -/
def tensorVal (c : List Int) : Nat := ((span 0 4).map (fun d => wrapTo 16 (c.getD d 0) * 2 ^ (16 * d))).sum

/-- Read a tile-table entry: from the slot's cache, or by a plain CP read, which the cache may hold (R284, R285). -/
def State.tileEntry (s : State) (sn : Nat) (t : Strand) (a : Actor) (slot : Nat) (x : Tensor) (tile : Nat) : El :=
  let (i, m) := if (tblFind x.cache tile).isSome then s.mem.pick 2 else (0, s.mem)
  match (if i = 0 then tblFind x.cache tile else none) with
  | some e => .ok (pbOf 8 e false) false (s.setMem m)
  | none =>
    let va := (x.tbl + 8 * tile) % 2 ^ 64
    match m.cpCheck (coreOfSn sn) t .r (cpPieces 8 va 8) [] with
    | (.error c, m) => .stop ((s.setMem m).cpFail sn a false c)
    | (.ok ps, m) =>
      match State.cpRead sn t a (s.setMem m) ps [] false with
      | .ok l corr s =>
        let s := if corr then s.modStrand sn a.onCorr else s
        if pbPois l then .ok l corr s
        else
          let y : Tensor := { x with cache := tblInsert x.cache tile (pbNat l) }
          .ok l corr (s.modStrand sn (fun t => { t with str := { t.str with tensors := tblPut none t.str.tensors slot (some y) } }))
      | r => r

/-- Translate (R284). -/
def State.layout (s : State) (sn : Nat) (t : Strand) (a : Actor) (slot : Nat) (c : List Int) (wr : Bool) : Lay :=
  match tblGet none t.str.tensors slot with
  | none => .cause 0x04
  | some x =>
    if (span 0 4).any (fun d => decide (c.getD d 0 < 0) || decide ((x.e.getD d 1 : Int) ≤ c.getD d 0)) then .outside
    else
      let (tile, off) := x.locate (c.map Int.toNat)
      match s.tileEntry sn t a slot x tile with
      | .stop s => .stop s
      | .ok l _ s =>
        let e := pbNat l
        if !bitOf e 0 then .cause 0x02
        else if (if wr then !bitOf e 1 else !bitOf e 2) then .cause 0x03
        else .addr (bitsOf e 16 23 * 65536 + off) (pbPois l) s

/-! ### Elements of a tile's stream (R279, R281) -/

/-- Where the next element of a tile lies: parts, OUTSIDE, or the state a failure leaves. -/
inductive AgEl where
  | parts (ps : List Part) (pois : Bool) (s : State)
  | outside
  | stop (s : State)

/-- Locate and check the element at a tile's position. -/
def State.agLocate (s : State) (sn : Nat) (t : Strand) (a : Actor) (g : Ag) (perm : Perm) : AgEl :=
  let n := 2 ^ g.les
  if g.ten then
    let c := (span 0 4).map (g.coord g.pos)
    match s.layout sn t a g.tslot c (decide (perm = .w)) with
    | .addr pa pois s => .parts (physParts pa n) pois s
    | .outside => .outside
    | .cause d => .stop (s.engineTrap sn 0x13 3 d (tensorVal c))
    | .stop s => .stop s
  else
    match s.mem.cpCheck (coreOfSn sn) t perm (cpPieces n (g.address g.pos) n) [] with
    | (.ok ps, m) => .parts ps false (s.setMem m)
    | (.error c, m) => .stop ((s.setMem m).cpFail sn a (decide (perm = .w)) c)

/-! ### The current command -/

/-- Change the current command. -/
def Strand.strHead (t : Strand) (f : SEnt → SEnt) : Strand :=
  { t with str := { t.str with queue := match t.str.queue with | e :: q => f e :: q | [] => [] } }
/-- The current command has completed. -/
def Strand.strPop (t : Strand) : Strand := ({ t with str := { t.str with queue := t.str.queue.drop 1 } }).progress

/-- The actor of a command: a park adds XLATE, a corrected error ECC (R271). -/
def cmdActor : Actor :=
  ⟨fun w t => t.strHead (fun e => { e with parked := some w, status := stOr e.status stXLATE }),
   fun t => t.strHead (fun e => { e with status := stOr e.status stECC }), true, 0⟩

/-- Status bits of bytes read. -/
def readStatus (l : List PB) (corr : Bool) : Nat := stOr (stIf (pbPois l) stPOISON) (stIf corr stECC)

/-- The object of an arrival by the strand's own engine (R271): its bank, or the state a failure leaves. -/
def State.arrOwn (s : State) (sn : Nat) (t : Strand) (arr : Nat) : Except State (Option Nat) :=
  if arr = 0 then .ok none
  else match s.mem.slotAnsDrain t (winSlot arr) with
    | .detached => .error (s.engineTrap sn 0x03 3 0 arr)
    | .wait => .error s
    | .bank b => .ok (some b)

/-- Bytes of a write whose homes acknowledge it, and the number of its parts (R125). -/
def ackedBytes (die : Nat) (ws : List Part) : Nat := ((ws.filter (fun p => p.place.remote die)).map (·.n)).sum
def ackedParts (die : Nat) (ws : List Part) : Nat := ws.countP (fun p => p.place.remote die)

/-- The arrival of an element of the current command where an object is named (R271): of the bytes that have landed or been accepted on the own
die; the others arrive with their acknowledgements, for which the command waits. -/
def State.arriveAt (s : State) (sn : Nat) (b : Option Nat) (arr : Nat) (ws : List Part) (amount status : Nat) : State :=
  let s := s.modStrand sn (fun t => t.strHead (fun e => { e with flying := e.flying + ackedParts (dieOfSn sn) ws }))
  let now := amount - ackedBytes (dieOfSn sn) ws
  match b with
  | some b => if now = 0 ∧ amount ≠ 0 then s else s.modMem (fun m => m.arrive b (winOff arr) now (status % 2 ^ 32))
  | none => s

/-- Where an element's bytes come from: checked parts, or zeros. -/
inductive SrcEl where
  | parts (ps : List Part)
  | zeros (n : Nat)

/-- Where they go: checked parts, or nowhere (OUTSIDE). -/
inductive DstEl where
  | parts (ps : List Part)
  | nowhere

/-- Move one element: read, convert, write, arrive (R289). `f` gives the bytes to write from those read. -/
def State.cpMove (s : State) (sn : Nat) (t : Strand) (a : Actor) (src : SrcEl) (dst : DstEl) (arr : Nat) (f : List PB → List PB) : El :=
  match s.arrOwn sn t arr with
  | .error s => .stop s
  | .ok b =>
    let ws := match dst with | .parts ps => ps | .nowhere => []
    if decide (0 < ws.countP (fun p => p.place.remote (dieOfSn sn))) && t.ackFull sn ws then .stop s
    else
      match (match src with | .parts ps => State.cpRead sn t a s ps [] false | .zeros n => .ok (pbOf n 0 false) false s) with
      | .stop s => .stop s
      | .ok l corr s =>
        let out := f l
        match State.cpWrite sn t a arr s (fillParts ws out) with
        | .stop s => .stop s
        | .ok _ _ s =>
          let st := match (s.strand? sn).map (·.str.queue) with | some (e :: _) => e.status | _ => 0
          let st := stOr st (readStatus (l ++ out) corr)
          .ok out corr ((s.modStrand sn (fun t => (t.strHead (fun e => { e with status := st })).progress)).arriveAt sn b arr ws out.length st)

/-- Check a range of virtual addresses on the CP path for a command. -/
def State.cpRange (s : State) (sn : Nat) (t : Strand) (perm : Perm) (va n : Nat) : Except State (List Part × State) :=
  match s.mem.cpCheck (coreOfSn sn) t perm (cpPieces n va n) [] with
  | (.ok ps, m) => .ok (ps, s.setMem m)
  | (.error c, m) => .error ((s.setMem m).cpFail sn cmdActor (decide (perm = .w)) c)

/-- Move `n` bytes between virtual addresses, then go on with `k`. -/
def State.cpCopy (s : State) (sn : Nat) (t : Strand) (src dst n arr : Nat) (f : List PB → List PB) (k : Strand → Strand) : State :=
  match s.cpRange sn t .r src n with
  | .error s => s
  | .ok (rs, s) =>
    match s.cpRange sn t .w dst (f (pbOf n 0 false)).length with
    | .error s => s
    | .ok (ws, s) =>
      match s.cpMove sn t cmdActor (.parts rs) (.parts ws) arr f with
      | .stop s => s
      | .ok _ _ s => s.modStrand sn k

/-- A command whose work is done completes. -/
def Strand.strFinish (t : Strand) (total : Nat) : Strand :=
  match t.str.queue with
  | e :: _ => if total ≤ e.done && decide (e.flying = 0) then t.strPop else t
  | [] => t

/-- Advance the current command and complete it if it is done. -/
def Strand.strAdvance (n total : Nat) (t : Strand) : Strand := (t.strHead (fun e => { e with done := e.done + n })).strFinish total

/-- An element of `copy` (R290). DESIGN CHOICE (log entry 46): where the ranges overlap, a destination byte receives what this copy wrote to its
source byte, if it has. -/
def State.stepCopy (s : State) (sn : Nat) (t : Strand) (e : SEnt) (dst src len : Nat) : State :=
  if len ≤ e.done then s.setStrand sn (t.strFinish len)
  else
    let ra := (src + e.done) % 2 ^ 64
    let wa := (dst + e.done) % 2 ^ 64
    let n := min (min (len - e.done) 64) (min (cpRow ra) (cpRow wa))
    s.cpCopy sn t ra wa n e.arr id (Strand.strAdvance n len)

/-- An element of `gath` or `scat` (R291): the index is read first; poison of an index passes to its element (R73). -/
def State.stepIndex (s : State) (sn : Nat) (t : Strand) (e : SEnt) (scat : Bool) (dst src ix cnt les : Nat) : State :=
  if cnt ≤ e.done then s.setStrand sn (t.strFinish cnt)
  else match s.cpRange sn t .r (ix + 4 * e.done) 4 with
  | .error s => s
  | .ok (ps, s) =>
    match State.cpRead sn t cmdActor s ps [] false with
    | .stop s => s
    | .ok l corr s =>
      let s := if corr then s.modStrand sn cmdActor.onCorr else s
      let k := pbNat l
      let n := 2 ^ les
      let ra := (src + (if scat then e.done else k) * n) % 2 ^ 64
      let wa := (dst + (if scat then k else e.done) * n) % 2 ^ 64
      s.cpCopy sn t ra wa n e.arr (fun d => if pbPois l then d.map (fun b => (b.1, true)) else d) (Strand.strAdvance 1 cnt)

/-- Whether the slot of a ring that a command reaches answers (R275): `none` goes on. -/
def State.ringGate (s : State) (sn : Nat) (t : Strand) (rg tile : Nat) : Option State :=
  if !(t.ring rg).live then some (s.engineTrap sn 0x09 3 0x02 rg)
  else match s.mem.ringReach t rg tile with
    | some (some v) => some (s.engineTrap sn 0x03 3 0 v)
    | some none => some s
    | none => none

/-- Move a tile's position on; the stream starts again after its last element (R292). -/
def Ag.wrapNext (g : Ag) : Ag := { g with pos := (g.pos + 1) % g.total }

/-- A tile boundary of `ringld` or `ringst`: the command ends when its tiles are done, or when `agstop` asked for it (R282). -/
def Strand.ringBoundary (t : Strand) (ag : Option Nat) (total : Nat) : Strand :=
  match ag with
  | some a =>
    if (t.ag a).stop then ((t.setAg a { t.ag a with stop := false }).strHead (fun e => { e with done := max e.done total })).strFinish total
    else t.strFinish total
  | none => t.strFinish total

/-- Clear the mark of `agstop` when the command has left the queue. -/
def Strand.agSettle (t : Strand) (ag : Option Nat) : Strand :=
  match ag with
  | some a => if t.agUsed a then t else t.setAg a { t.ag a with stop := false }
  | none => t

/-- After `n` bytes of a tile of `ringld`: a filled tile is written, and lands in its turn (R275, R292). -/
def Strand.ldTile (rg : Nat) (ag : Option Nat) (tile n total : Nat) (t : Strand) : Strand :=
  match t.str.queue with
  | e :: _ =>
    if e.tdone + n = (t.ring rg).bytes then
      (((t.modRing rg (fun r => r.wrote tile)).strHead (fun e => { e with tdone := 0, tile := none, done := e.done + 1 })).ringBoundary ag total).agSettle ag
    else t.strHead (fun e => { e with tdone := e.tdone + n })
  | [] => t

/-- An element of `ringld` (R292). DESIGN CHOICE (log entry 46): a stream goes on from the position that its tile kept from an earlier command. -/
def State.stepRingld (s : State) (sn : Nat) (t : Strand) (e : SEnt) (src rg total : Nat) (ag : Option Nat) : State :=
  let r := t.ring rg
  match e.tile with
  | none =>
    if decide (total ≤ e.done) || ag.any (fun a => (t.ag a).stop) then s.setStrand sn ((t.ringBoundary ag total).agSettle ag)
    else (match s.ringGate sn t rg r.nextTile with
      | some s => s
      | none => if r.full then s else s.setStrand sn ((t.setRing rg r.reserve).strHead (fun e => { e with tile := some r.nextTile, tdone := 0 })))
  | some tile =>
    (match s.ringGate sn t rg tile with
    | some s => s
    | none =>
      let wa := r.tileVa tile + e.tdone
      match ag with
      | none =>
        let ra := (src + e.done * r.bytes + e.tdone) % 2 ^ 64
        let n := min (min (r.bytes - e.tdone) 64) (min (cpRow ra) (cpRow wa))
        s.cpCopy sn t ra wa n 0 id (Strand.ldTile rg ag tile n total)
      | some a =>
        let g := t.ag a
        let n := 2 ^ g.les
        match s.agLocate sn t cmdActor g .r with
        | .stop s => s
        | .outside =>
          (match s.cpRange sn t .w wa n with
           | .error s => s
           | .ok (ws, s) =>
             match s.cpMove sn t cmdActor (.zeros n) (.parts ws) 0 id with
             | .stop s => s
             | .ok _ _ s => s.modStrand sn (fun t => Strand.ldTile rg ag tile n total (t.setAg a g.wrapNext)))
        | .parts ps pois s =>
          match s.cpRange sn t .w wa n with
          | .error s => s
          | .ok (ws, s) =>
            match s.cpMove sn t cmdActor (.parts ps) (.parts ws) 0 (fun d => if pois then d.map (fun b => (b.1, true)) else d) with
            | .stop s => s
            | .ok _ _ s => s.modStrand sn (fun t => Strand.ldTile rg ag tile n total (t.setAg a g.wrapNext)))

/-- After `n` bytes of a tile of `ringst`: the tile is popped once all its bytes have been read (R292). -/
def Strand.stTile (rg : Nat) (ag : Option Nat) (n total : Nat) (t : Strand) : Strand :=
  match t.str.queue with
  | e :: _ =>
    if e.tdone + n = (t.ring rg).bytes then
      (((t.modRing rg Ring.pop).strHead (fun e => { e with tdone := 0, done := e.done + 1 })).ringBoundary ag total).agSettle ag
    else t.strHead (fun e => { e with tdone := e.tdone + n })
  | [] => t

/-- An element of `ringst` (R292), whose stream goes on likewise (log entry 46). -/
def State.stepRingst (s : State) (sn : Nat) (t : Strand) (e : SEnt) (dst rg total : Nat) (ag : Option Nat) : State :=
  let r := t.ring rg
  if total ≤ e.done ∨ (e.tdone = 0 ∧ ag.any (fun a => (t.ag a).stop) = true) then s.setStrand sn ((t.ringBoundary ag total).agSettle ag)
  else match s.ringGate sn t rg r.head with
  | some s => s
  | none =>
    if r.held = 0 then s
    else
      let ra := r.tileVa r.head + e.tdone
      match ag with
      | none =>
        let wa := (dst + e.done * r.bytes + e.tdone) % 2 ^ 64
        let n := min (min (r.bytes - e.tdone) 64) (min (cpRow ra) (cpRow wa))
        s.cpCopy sn t ra wa n 0 id (Strand.stTile rg ag n total)
      | some a =>
        let g := t.ag a
        let n := 2 ^ g.les
        let go := fun (d : DstEl) (pois : Bool) (s : State) =>
          match s.cpRange sn t .r ra n with
          | .error s => s
          | .ok (rs, s) =>
            match s.cpMove sn t cmdActor (.parts rs) d 0 (fun l => if pois then l.map (fun b => (b.1, true)) else l) with
            | .stop s => s
            | .ok _ _ s => s.modStrand sn (fun t => Strand.stTile rg ag n total (t.setAg a g.wrapNext))
        match s.agLocate sn t cmdActor g .w with
        | .stop s => s
        | .outside => go .nowhere false s
        | .parts ps pois s => go (.parts ps) pois s

/-- A tensor descriptor from its address and its 64 bytes (R284), if R285 accepts it. -/
def Tensor.of (addr : Nat) (l : List Byte) : Option Tensor :=
  let w := fun k n => ofBytes (slice l k n)
  let e := (span 0 4).map (fun d => w (8 + 2 * d) 2)
  let t := (span 0 4).map (fun d => w (16 + 2 * d) 2)
  let x : Tensor := ⟨addr, w 0 8, e, t, w 24 1, w 25 1, w 26 1, []⟩
  let pow2 := fun (n : Nat) => decide (n ≠ 0) && decide (2 ^ Nat.log2 n = n)
  let ok := decide (1 ≤ x.ndim) && decide (x.ndim ≤ 4) && decide (x.layout ≤ 2) && decide (x.les ≤ 3) &&
    (span 0 4).all (fun d => if d < x.ndim then decide (1 ≤ e.getD d 0) else decide (e.getD d 0 = 1) && decide (t.getD d 0 = 1)) &&
    t.all pow2 && decide (t.foldl (· * ·) 1 * 2 ^ x.les = 65536) &&
    decide (w 28 4 = x.grid 0 * x.grid 1 * x.grid 2 * x.grid 3) && (decide (x.layout ≠ 2) || (span 0 4).all (fun d => pow2 (x.grid d))) &&
    decide (x.tbl % 8 = 0) && decide (w 27 1 = 0) && decide (w 32 32 = 0)
  if ok then some x else none

/-- The read of `tsload` (R285). -/
def State.stepTsload (s : State) (sn : Nat) (t : Strand) (addr slot : Nat) : State :=
  if addr % 64 ≠ 0 then s.engineTrap sn 0x13 3 0x05 addr
  else match s.cpRange sn t .r addr 64 with
    | .error s => s
    | .ok (ps, s) =>
      match State.cpRead sn t cmdActor s ps [] false with
      | .stop s => s
      | .ok l _ s =>
        match (if pbPois l then none else Tensor.of addr (pbBytes l)) with
        | some x => s.modStrand sn (fun t => { t.strPop with str := { t.strPop.str with tensors := tblPut none t.str.tensors slot (some x) } })
        | none => s.engineTrap sn 0x13 3 0x05 addr

/-- The next chunk of `deliv` is read and sent (R294). -/
def State.stepDeliv (s : State) (sn : Nat) (t : Strand) (e : SEnt) (target src len dst : Nat) : State :=
  if len ≤ e.done then s.setStrand sn (t.strFinish len)
  else
    let off := dst + e.done
    let n := min (len - e.done) (64 - off % 64)
    match s.cpRange sn t .r ((src + e.done) % 2 ^ 64) n with
    | .error s => s
    | .ok (ps, s) =>
      match State.cpRead sn t cmdActor s ps [] false with
      | .stop s => s
      | .ok l corr s =>
        let st := stOr e.status (readStatus l corr)
        let s := s.modStrand sn (fun t => (t.strHead (fun e => { e with done := e.done + n, status := st, flying := e.flying + 1 })).progress)
        { s with chunks := s.chunks ++ [⟨t.kinst, t.lin, e.seq, target, off, l, e.arr, st, none⟩] }

/-! ### `cvcopy` (R293) -/

/-- Kind of a format code: floating, or integer of a width and sign. -/
inductive CvK where
  | fl (f : FFmt)
  | int (w : Nat) (signed : Bool)
  deriving DecidableEq, Repr

def cvKind : Nat → CvK
  | 1 => .int 8 true | 2 => .int 8 false | 3 => .int 16 true | 4 => .int 32 true | 5 => .fl .bf16 | 6 => .fl .f16 | 7 => .fl .f32 | 8 => .fl .f64
  | 9 => .fl .e4m3 | 10 => .fl .e5m2 | _ => .fl .fp4

def CvK.width : CvK → Nat
  | .fl f => f.width
  | .int w _ => w

/-- Convert one element: code, flags, and the state (R58, R59, R67-R70). A widening conversion is exact and flushes nothing. -/
def cvElement (src dst : CvK) (x : Nat) (pois : Bool) (rm : Nat) (ftz daz : Bool) (ring : Option Nat) (index : Nat) (o : OutlSt) : Nat × Fl × OutlSt :=
  let rnd := o.t.rnd 18
  let drawn := fun (r : FRes) => (r.bits, r.fl, { o with t := o.t.draw 18 r.drew })
  let narrow := fun (f : FFmt) (sig : Bool) (v : XRes) =>
    let (r, o) := narrowElem f rm sig v rnd pois ring index o
    (r.code, r.fl, { o with t := o.t.draw 18 r.drew })
  match src, dst with
  | .int w sg, .int v sh =>
    let i : Int := if sg then sgn w x else x
    let lo : Int := if sh then -(2 ^ (v - 1) : Nat) else 0
    let hi : Int := if sh then (2 ^ (v - 1) : Nat) - 1 else (2 ^ v : Nat) - 1
    let (c, cl) := clampI lo hi i
    (wrapTo v c, flIf cl flSAT, o)
  | .int w sg, .fl f =>
    let i : Int := if sg then sgn w x else x
    if f.width ≤ 8 then narrow f false (.ex ⟨decide (i < 0), i.natAbs, 0, false⟩) else drawn (fpOfInt f rm ftz i rnd)
  | .fl f, .int v sh => drawn (fpToInt f daz rm v sh x rnd)
  | .fl f, .fl h =>
    if h.width ≤ 8 then narrow h (f.read daz x).isSig (f.read daz x).toX
    else drawn (fpConvert f h daz rm (ftz && decide (h.width ≤ f.width)) x rnd)

/-- Convert the elements of one step: one, or for FP4 the two of a byte (R47, R293). -/
def cvStep (src dst : CvK) (l : List PB) (first n i0 : Nat) (e : SEnt) (ring : Option Nat) (o : OutlSt) : List PB × Fl × OutlSt :=
  let r := (span 0 n).foldl (fun (a : List (Nat × Bool) × Fl × OutlSt) k =>
    let (x, p) := packedEl src.width l (first + k)
    let (c, fl, o) := cvElement src dst x p e.rm e.ftz e.daz ring (i0 + k) a.2.2
    (a.1 ++ [(c, p)], a.2.1 ||| fl, o)) ([], 0, ⟨o.t, o.m, o.fill⟩)
  (packPB dst.width r.1, r.2.1, r.2.2)

/-- The status bits of flags and of poison, without those that only FPSTAT holds. -/
def flStatus (fl : Fl) (l : List PB) : Nat := stOr (statusOf fl) (stIf (pbPois l) stPOISON)

/-- A step of `cvcopy` (R293). -/
def State.stepCvcopy (s : State) (sn : Nat) (t : Strand) (e : SEnt) (dst src cnt sf df : Nat) (ore : Option Nat) : State :=
  if cnt ≤ e.done then
    -- the last outlier tile is pushed before the command completes
    let o := OutlSt.finish ⟨t, s.mem, e.outl⟩
    let t := o.t.strHead (fun e => { e with outl := none })
    let s := s.setMem o.m
    if t.outlWaits ore then s.setStrand sn t else s.setStrand sn (t.strFinish cnt)
  else
    let sk := cvKind sf
    let dk := cvKind df
    let n := if dk.width = 4 then min 2 (cnt - e.done) else 1
    let ra := (src + e.done * sk.width / 8) % 2 ^ 64
    let first := if sk.width = 4 then e.done % 2 else 0
    let bytes := if sk.width = 4 then (first + n + 1) / 2 else n * (sk.width / 8)
    let wa := (dst + e.done * dk.width / 8) % 2 ^ 64
    match s.arrOwn sn t e.arr with
    | .error s => s
    | .ok b =>
      match s.cpRange sn t .r ra bytes with
      | .error s => s
      | .ok (rs, s) =>
        match s.cpRange sn t .w wa ((n * dk.width + 7) / 8) with
        | .error s => s
        | .ok (ws, s) =>
          if t.ackFull sn ws && decide (0 < ws.countP (fun p => p.place.remote (dieOfSn sn))) then s
          else match State.cpRead sn t cmdActor s rs [] false with
            | .stop s => s
            | .ok l corr s =>
              let (out, fl, o) := cvStep sk dk l first n e.done e ore ⟨t, s.mem, e.outl⟩
              let touched := match ore with | some k => decide (o.t.ring k ≠ t.ring k) || decide (o.fill ≠ e.outl) || e.outl.isSome | none => false
              match (if touched then s.ringGate sn t (ore.getD 0) ((e.outl.map (·.tile)).getD (t.ring (ore.getD 0)).nextTile) else none) with
              | some s => s
              | none =>
                -- the outlier entries, the generator and the flags take effect with the element
                match State.cpWrite sn t cmdActor e.arr (s.setMem o.m) (fillParts ws out) with
                | .stop s2 => s2.modMem (fun m => { m with banks := s.mem.banks, bpois := s.mem.bpois })
                | .ok _ _ s =>
                  let st := stOr (stOr e.status (readStatus l corr)) (flStatus fl out)
                  (s.modStrand sn (fun u =>
                    let u := ({ u with str := { u.str with rings := o.t.str.rings } }).mapSeq (fun q => { q with gens := o.t.seq.gens })
                    ((u.addFl fl).strHead (fun e => { e with done := e.done + n, status := st, outl := o.fill })).progress)).arriveAt sn b e.arr ws out.length st

/-! ### The steps -/

/-- Whether the current command may take a step: the engine runs, no barrier holds it, and it is not parked before a flush. -/
def State.cmdReady (s : State) (sn : Nat) (t : Strand) (e : SEnt) : Bool :=
  t.engineOn 3 && !t.barred (dieOfSn sn) e.seq 1 && (match e.parked with | some (_, g) => s.flushed sn g | none => true)

/-- A delivery of a `send` begins: its payload is read and leaves for the next target, once the target before it has answered (R296, R302). -/
def State.stepSend (s : State) (sn : Nat) (t : Strand) (e : SEnt) (id src len tag : Nat) (targets : List Nat) : State :=
  if e.flying ≠ 0 then s
  else match targets[e.done]? with
  | none => s.setStrand sn t.strPop
  | some target =>
    match s.cpRange sn t .r src len with
    | .error s => s
    | .ok (ps, s) =>
      match State.cpRead sn t cmdActor s ps [] false with
      | .stop s => s
      | .ok l _ s =>
        let s := s.modStrand sn (fun t => (t.strHead (fun e => { e with flying := 1 })).progress)
        { s with msgs := s.msgs ++ [⟨t.kinst, t.lin, id, target, tag, l, none⟩] }

/-- STREAM_ELEMENT_STEP (R289): one element of the strand's current stream command. -/
def execStreamElementStep (s : State) : Host.Outcome State Fault Refusal :=
  s.forStrand fun sn t =>
    match t.str.queue with
    | [] => s
    | e :: _ =>
      if !s.cmdReady sn t e then s
      else
        let t := (t.strHead (fun e => { e with parked := none }))
        let t := { t with str := { t.str with turn := 0 } }
        let s := s.setStrand sn t
        match e.cmd with
        | .copy dst src len => s.stepCopy sn t e dst src len
        | .gath dst src ix cnt les => s.stepIndex sn t e false dst src ix cnt les
        | .scat dst src ix cnt les => s.stepIndex sn t e true dst src ix cnt les
        | .ringld src rg n ag => s.stepRingld sn t e src rg n ag
        | .ringst dst rg n ag => s.stepRingst sn t e dst rg n ag
        | .tsload addr slot => s.stepTsload sn t addr slot
        | .deliv target src len dst => s.stepDeliv sn t e target src len dst
        | .cvcopy dst src n sf df ore => s.stepCvcopy sn t e dst src n sf df ore
        | .send id src len tag targets => s.stepSend sn t e id src len tag targets

/-- The actor of a bound tile. -/
def agActor (a : Nat) : Actor := ⟨fun w t => t.setAg a { t.ag a with parked := some w }, id, false, 1 + a⟩

/-- A tile moves past an element, and stops after its last (R281). -/
def Strand.agNext (t : Strand) (a : Nat) : Strand :=
  let g := { t.ag a with pos := (t.ag a).pos + 1, parked := none }
  let t := ({ t.setAg a g with str := { (t.setAg a g).str with turn := 1 + a } }).progress
  if g.total ≤ g.pos then t.agEnd a else t

/-- A load tile's element enters the PE's load queue (R196, R281). -/
def Strand.feedLq (t : Strand) (a : Nat) (v : AV) : Strand :=
  (t.modPe (t.ag a).pe (fun e => { e with lq := e.lq ++ [⟨0, 0, true, true, v, [], false, 0⟩] })).agNext a

/-- An element of a load tile. -/
def State.agLoad (s : State) (sn : Nat) (t : Strand) (a : Nat) (g : Ag) : State :=
  if 8 ≤ (t.pe g.pe).lq.length then s
  else match s.agLocate sn t (agActor a) g .r with
    | .stop s => s
    | .outside => s.modStrand sn (fun t => t.feedLq a ⟨0, false, false⟩)
    | .parts ps pois s =>
      match State.cpRead sn t (agActor a) s ps [] false with
      | .stop s => s
      | .ok l _ s => s.modStrand sn (fun t => t.feedLq a ⟨BitVec.ofNat 32 (pbNat l), true, pois || pbPois l⟩)

/-- A store tile takes the PE's oldest store-queue entry. -/
def Strand.takeSq (t : Strand) (a : Nat) : Strand := (t.modPe (t.ag a).pe (fun e => { e with sq := e.sq.drop 1 })).agNext a

/-- An element of a store tile. -/
def State.agStore (s : State) (sn : Nat) (t : Strand) (a : Nat) (g : Ag) : State :=
  match (t.pe g.pe).sq with
  | [] => s
  | v :: _ =>
    if !v.valid then s.modStrand sn (fun t => t.takeSq a)
    else match s.agLocate sn t (agActor a) g .w with
      | .stop s => s
      | .outside => s.modStrand sn (fun t => t.takeSq a)
      | .parts ps pois s =>
        if decide (0 < ps.countP (fun p => p.place.remote (dieOfSn sn))) && t.ackFull sn ps then s
        else match State.cpWrite sn t (agActor a) 0 s (fillParts ps (pbOf (2 ^ g.les) v.v.toNat (v.p || pois))) with
          | .stop s => s
          | .ok _ _ s => s.modStrand sn (fun t => t.takeSq a)

/-- AG_ELEMENT (R281, R283): the next element of a bound tile, or the start token it waits for. -/
def execAgElement (s : State) : Host.Outcome State Fault Refusal :=
  s.forStrand fun sn t =>
    let a := s.agent.b
    let g := t.ag a
    if !t.engineOn 3 || t.barred (dieOfSn sn) g.seq 1 || !(match g.parked with | some (_, x) => s.flushed sn x | none => true) then s
    else match g.run with
      | .stopped => s
      | .token =>
        if t.token g.sch then s.setStrand sn (((t.takeToken g.sch).setAg a { g with run := .running }).progress) else s
      | .running =>
        if g.ten && t.str.queue.any (fun e => decide (e.seq < g.seq) && (match e.cmd with | .tsload _ n => decide (n = g.tslot) | _ => false)) then s
        else if g.sq then s.agStore sn t a g else s.agLoad sn t a g

/-- RING_TILE_LANDED (R275): the bytes of the oldest written tile of a ring land, and TAIL passes the tiles that have landed, in order. -/
def execRingTileLanded (s : State) : Host.Outcome State Fault Refusal :=
  s.forStrand fun sn t =>
    let r := t.ring s.agent.b
    match r.resv.find? (fun x => x.written && !x.landed) with
    | some x => s.setStrand sn ((t.setRing s.agent.b (r.land x.tile)).progress)
    | none => s

end Sys2Proof.Machine
end

