-- ==== Sys2Proof/Machine/Deliver.lean ====
section
/-! DEFINITION. Deliveries and messages on their way (R268, R294-R301), `post` and `unpost`. -/
namespace Sys2Proof.Machine

/-- Change a strand of an instance by its position, where it stands or in its image. -/
def State.modLin (s : State) (kinst lin : Nat) (f : Strand → Strand) : State :=
  match s.snOf kinst lin with
  | some sn => s.modStrand sn f
  | none =>
    { s with saved := s.saved.map (fun v => if v.kinst = kinst ∧ v.lin = lin ∧ v.kept = false then { v with strand := f v.strand } else v) }

/-- Whether a strand of an instance is saved. -/
def State.isSaved (s : State) (kinst lin : Nat) : Bool := s.saved.any (fun v => decide (v.kinst = kinst) && decide (v.lin = lin) && !v.kept)

/-- An engine cause of a strand by its position (R268): one that is saved takes it after its restore. -/
def State.causeLin (s : State) (kinst lin cause detail val : Nat) : State :=
  match s.snOf kinst lin with
  | some sn => s.engineTrap sn cause 3 detail val
  | none => s.modLin kinst lin (fun t => t.mapTrap (fun r => { r with raised := r.raised ++ [⟨cause, 3, detail, val⟩] }))

/-! ### Deliveries (R294) -/

/-- Whether an earlier chunk of the sender is on its way to the same target. -/
def chunkFirst (cs : List Chunk) (k : Nat) (c : Chunk) : Bool :=
  !((cs.take k).any (fun x => decide (x.kinst = c.kinst) && decide (x.slin = c.slin) && decide (x.tlin = c.tlin)))

/-- Whether a slot that drains holds what arrives at it (R265, R268): but for the strand's own command, which the drain waits for. -/
def Slot.holdsArrival (x : Slot) (own : Bool) : Bool := x.draining && (!own || x.zero)

/-- Window address of an offset. -/
def winAddr (off : Nat) : Nat := 0xFFFFFFFFFFF00000 + off

/-- A refused chunk (R268): the sender raises DETACHED, and its command ends there. -/
def State.chunkRefused (s : State) (c : Chunk) (val : Nat) : State :=
  let s := { s with chunks := s.chunks.filter (fun x => !(decide (x.kinst = c.kinst) && decide (x.slin = c.slin) && decide (x.cmd = c.cmd))) }
  let s := s.modLin c.kinst c.slin (fun t => { t with str := { t.str with queue := t.str.queue.filter (fun e => decide (e.seq ≠ c.cmd)) } })
  s.causeLin c.kinst c.slin 0x03 0 val

/-- A chunk that has landed is taken off its command, which may now complete. -/
def Strand.chunkLanded (t : Strand) (cmd : Nat) : Strand :=
  match t.str.queue with
  | e :: _ =>
    if e.seq = cmd then
      let t := t.strHead (fun e => { e with flying := e.flying - 1 })
      match e.cmd with
      | .deliv _ _ len _ => (t.strFinish len).progress
      | _ => t
    else t
  | [] => t

/-- DELIVERY_CHUNK (R268, R294): a chunk, named by its place among those on their way, lands, is held while a slot drains, is refused, or is
to be tried again where its target is saved. -/
def execDeliveryChunk (s : State) : Host.Outcome State Fault Refusal :=
  match s.chunks[s.agent.a]? with
  | none => .next s
  | some c =>
    let again : State := { s with chunks := modAt (fun x => { x with retry := some (s.clock + 256) }) s.chunks s.agent.a }
    if c.retry.isSome || !chunkFirst s.chunks s.agent.a c then .next s
    else match s.snOf c.kinst c.tlin with
      | none => .next (if s.isSaved c.kinst c.tlin then again else s.chunkRefused c (winAddr c.off))
      | some tn =>
        match s.strand? tn with
        | none => .next s
        | some u =>
          let i := c.off / 65536
          let j := winSlot c.obj
          let own := decide (c.slin = c.tlin)
          if u.run ≠ .running then .next again
          else if (u.slot i).holdsArrival own || (decide (c.obj ≠ 0) && (u.slot j).holdsArrival own) then .next s
          else match s.mem.openSlot u i with
            | none => .next (s.chunkRefused c (winAddr c.off))
            | some b =>
              match (if c.obj = 0 then some 0 else s.mem.openSlot u j) with
              | none => .next (s.chunkRefused c c.obj)
              | some d =>
                let m := s.mem.bankWrite b (c.off % 65536) c.data
                let m := if c.obj = 0 then m else m.arrive d (winOff c.obj) c.data.length c.status
                let s := ({ s with chunks := dropAt s.chunks s.agent.a }.setMem m).modStrand tn (·.progress)
                .next (s.modLin c.kinst c.slin (·.chunkLanded c.cmd))

/-- A refused chunk whose retry has come due. -/
def Chunk.again (clock : Nat) (c : Chunk) : Chunk :=
  match c.retry with
  | some k => if k ≤ clock then { c with retry := none } else c
  | none => c

/-- DELIVERY_RETRY (R294, R302): a chunk that a saved target's core refused is tried again once 256 ck have passed, while its sender runs. -/
def execDeliveryRetry (s : State) : Host.Outcome State Fault Refusal :=
  match s.chunks[s.agent.a]? with
  | none => .next s
  | some c => .next (if ((s.snOf c.kinst c.slin).bind s.strand?).any (fun t => decide (t.run = .running)) = false then s else { s with chunks := modAt (Chunk.again s.clock) s.chunks s.agent.a })

/-! ### Messages (R295-R301) -/

/-- Whether a message of a source and tag matches a receive (R297). -/
def Recv.matches (r : Recv) (sx sy tag : Nat) : Bool :=
  decide (Nat.land tag r.mask = Nat.land r.tag r.mask) && (match r.src with | none => true | some (x, y) => decide (x = sx) && decide (y = sy))

/-- How a matched message fares at its receive (R299). -/
inductive Landed where
  | held
  | refused (val : Nat)
  | done (m : Mem)

/-- Deliver a matched message, the strand's own or another's: its bytes, then an arrival of 1. -/
def Mem.deliverTo (m : Mem) (u : Strand) (own : Bool) (r : Recv) (data : List PB) : Landed :=
  let n := min data.length r.blen
  let slots := if n = 0 then [] else span (r.buf / 65536) ((r.buf + n - 1) / 65536 + 1 - r.buf / 65536)
  let oslot := r.obj / 65536
  if (oslot :: slots).any (fun i => (u.slot i).holdsArrival own) then .held
  else match slots.find? (fun i => (m.openSlot u i).isNone) with
    | some i => .refused (winAddr (max r.buf (65536 * i)))
    | none =>
      match m.openSlot u oslot with
      | none => .refused (winAddr r.obj)
      | some b =>
        let bytes := data.take n
        let m := (span 0 n).foldl (fun m k =>
          match m.openSlot u ((r.buf + k) / 65536) with
          | some c => m.bankWrite c ((r.buf + k) % 65536) (slice bytes k 1)
          | none => m) m
        .done (m.arrive b (r.obj % 65536) 1 (stOr (stIf (decide (r.blen < data.length)) stLINK) (stIf (pbPois data) stPOISON)))

/-- The command of a `send` goes on with its next target, or ends (R302). -/
def Strand.sendNext (t : Strand) (id : Nat) : Strand :=
  match t.str.queue with
  | e :: _ =>
    (match e.cmd with
     | .send k _ _ _ targets => if k = id then (t.strHead (fun e => { e with done := e.done + 1, flying := 0 })).strFinish targets.length else t
     | _ => t)
  | [] => t

/-- A target of a `send` has answered with status bits (R296). -/
def Strand.sendAnswer (t : Strand) (id st : Nat) : Strand :=
  (t.mapSeq (fun q => { q with loads := q.loads.map (fun a =>
    if a.id = id then (match a.kind with | .send left x => { a with kind := .send (left - 1) (stOr x st) } | _ => a) else a) })).sendNext id

/-- A target of a `send` has refused its message (R268): the command ends there. DESIGN CHOICE (log entry 46): gd takes its completion word, with LINK,
though the targets after it were not sent to. -/
def Strand.sendEnd (t : Strand) (id st : Nat) : Strand :=
  let t := t.mapSeq (fun q => { q with loads := q.loads.map (fun a =>
    if a.id = id then (match a.kind with | .send _ x => { a with kind := .send 0 (stOr x st) } | _ => a) else a) })
  match t.str.queue with
  | e :: _ =>
    (match e.cmd with
     | .send k _ _ _ targets => if k = id then (t.strHead (fun e => { e with done := targets.length, flying := 0 })).strFinish targets.length else t
     | _ => t)
  | [] => t

/-- The answer to a message, which leaves. -/
def State.msgAnswer (s : State) (k : Nat) (x : Msg) (st : Nat) : State :=
  ({ s with msgs := dropAt s.msgs k }).modLin x.kinst x.slin (fun t => (t.sendAnswer x.acc (stOr st (stIf (pbPois x.data) stPOISON))).progress)

/-- The strands of a core. -/
def State.onCore (s : State) (core : Nat) : List Strand := (span (4 * core) 4).filterMap s.strand?

/-- The lowest number not in use. DESIGN CHOICE (log entry 46): a post takes the lowest free handle, and an unmatched message the lowest free overflow
number. -/
def lowestFree (used : List Nat) : Nat := ((span 0 32).find? (fun k => !used.any (fun x => decide (x = k)))).getD 32

/-- Whether an earlier message of the sender is on its way to the same target (R298). -/
def msgFirst (ms : List Msg) (k : Nat) (x : Msg) : Bool :=
  !((ms.take k).any (fun y => decide (y.kinst = x.kinst) && decide (y.slin = x.slin) && decide (y.tlin = x.tlin)))

/-- A dropped message (R298, R301). -/
def Strand.msgDrop (t : Strand) (sx sy tag : Nat) : Strand :=
  t.mapCtl (fun c => { c with ltag := tag, lx := sx, ly := sy, dcnt := min (c.dcnt + 1) 255, drop := true })

/-- MESSAGE_ARRIVE (R298, R299): a message, named by its place among those on their way, is matched to a receive, queued or dropped; a target
that is saved makes it try again. -/
def execMessageArrive (s : State) : Host.Outcome State Fault Refusal :=
  match s.msgs[s.agent.a]? with
  | none => .next s
  | some x =>
    let k := s.agent.a
    let again : State := { s with msgs := modAt (fun y => { y with retry := some (s.clock + 256) }) s.msgs k }
    if (match x.retry with
        | some c => decide (s.clock < c) || !((s.snOf x.kinst x.slin).bind s.strand?).any (fun t => decide (t.run = .running))
        | none => false) || !msgFirst s.msgs k x then .next s
    else
      let i := s.instOf x.kinst
      let sx := x.slin % i.w
      let sy := x.slin / i.w
      match s.snOf x.kinst x.tlin with
      | none => .next (if s.isSaved x.kinst x.tlin then again else s.msgAnswer k x stLINK)
      | some tn =>
        match s.strand? tn with
        | none => .next s
        | some u =>
          if u.run ≠ .running then .next again
          else match findIdx? (fun r => r.matches sx sy x.tag) u.str.posts 0 with
            | some (j, r) =>
              let consume := fun (s : State) => s.modStrand tn (fun u => ({ u with str := { u.str with posts := dropAt u.str.posts j } }).progress)
              (match s.mem.deliverTo u (decide (x.slin = x.tlin)) r x.data with
              | .held => .next s
              | .refused v => .next (((consume ({ s with msgs := dropAt s.msgs k })).modLin x.kinst x.slin
                  (fun t => (t.sendEnd x.acc (stOr stLINK (stIf (pbPois x.data) stPOISON))).progress)).causeLin x.kinst x.slin 0x03 0 v)
              | .done m => .next ((consume (s.setMem m)).msgAnswer k x (stIf (decide (r.blen < x.data.length)) stLINK)))
            | none =>
              let used := (s.onCore (coreOfSn tn)).flatMap (fun v => v.str.ovfs.map (·.num))
              if used.length < 32 then
                let o : Ovf := ⟨lowestFree used, sx, sy, x.tag, x.data⟩
                .next ((s.modStrand tn (fun u => ({ u with str := { u.str with ovfs := u.str.ovfs ++ [o] } }).progress)).msgAnswer k x 0)
              else
                let s := (s.modStrand tn (fun u => u.msgDrop sx sy x.tag)).msgAnswer k x stLINK
                .next (if u.seq.ctl.notrap then s else s.engineTrap tn 0x0B 3 0 (sx + 2 ^ 8 * sy + 2 ^ 16 * x.tag))

/-- SEND_COMPLETION (R296): every target of a `send` has answered: gd takes the completion word. -/
def execSendCompletion (s : State) : Host.Outcome State Fault Refusal :=
  s.forStrand fun sn t =>
    match t.seq.loads.find? (fun a => decide (a.id = s.agent.b)) with
    | none => s
    | some a =>
      match a.kind with
      | .send 0 st => s.setStrand sn (((t.dropAcc a.id).setG (BitVec.ofNat 5 a.dest) (BitVec.ofNat 64 st) false).progress)
      | _ => s

/-- The receive that `post` registers (R297), or none for values it refuses. -/
def recvOf (ga gb : Nat) : Option Recv :=
  if bitsOf ga 40 24 ≠ 0 ∨ bitsOf ga 20 5 ≠ 0 ∨ bitsOf gb 59 5 ≠ 0 ∨ bitsOf gb 49 10 = 0 ∨ 512 < bitsOf gb 49 10 then none
  else some ⟨0, bitsOf ga 0 20, bitsOf ga 20 20, bitsOf gb 0 16, bitsOf gb 16 16, if bitOf gb 48 then none else some (bitsOf gb 32 8, bitsOf gb 40 8),
    bitsOf gb 49 10⟩

/-- `post` (R297): the overflow entries held for the strand are searched first; else it takes a free entry of the core, or waits for one. -/
def execPost (gd ga gb : Reg) (s : State) : Host.Outcome State Fault Refusal :=
  s.onStrand fun sn t =>
    if t.busy [gd, ga, gb] then s
    else match t.firstPois [ga, gb] with
      | some r => s.poisonTrap sn r
      | none =>
        match recvOf (t.g ga).toNat (t.g gb).toNat with
        | none => s.illegal sn (Instr.post gd ga gb).tval
        | some r =>
          match findIdx? (fun o => r.matches o.sx o.sy o.tag) t.str.ovfs 0 with
          | some (j, o) =>
            let t' := ({ t with str := { t.str with ovfs := dropAt t.str.ovfs j } }).done 4 gd (BitVec.ofNat 64 (32 + o.num)) false
            (match s.mem.deliverTo t true r o.data with
            | .held => s
            | .refused v => (s.setStrand sn t').causeLin t.kinst ((s.instOf t.kinst).lin o.sx o.sy) 0x03 0 v
            | .done m => (s.setMem m).setStrand sn t')
          | none =>
            if 32 ≤ ((s.onCore (coreOfSn sn)).map (fun v => v.str.posts.length)).sum then s
            else
              let h := lowestFree (t.str.posts.map (·.handle))
              s.setStrand sn (({ t with str := { t.str with posts := t.str.posts ++ [{ r with handle := h }] } }).done 4 gd (BitVec.ofNat 64 h) false)

/-- `unpost` (R297). -/
def execUnpost (gd ga : Reg) (s : State) : Host.Outcome State Fault Refusal :=
  s.onStrand fun sn t =>
    if t.busy [gd, ga] then s
    else if t.gp ga then s.poisonTrap sn ga
    else if 32 ≤ (t.g ga).toNat then s.illegal sn (Instr.unpost gd ga).tval
    else
      let has := t.str.posts.any (fun r => decide (r.handle = (t.g ga).toNat))
      let t' := { t with str := { t.str with posts := t.str.posts.filter (fun r => decide (r.handle ≠ (t.g ga).toNat)) } }
      s.setStrand sn (t'.done 4 gd (BitVec.ofNat 64 (b2n has)) false)

end Sys2Proof.Machine
end

