-- ==== Sys2Proof/Machine/Upkeep.lean ====
section
/-! DEFINITION. Upkeep of the memory side: released sequences (R129, R130), spills (R315, R317), mask changes (R306-R310), reserve lists
(R316), invalidations and flushes (R346, R348), migrations (R350), peer atomics (R328), forwarded reads (R349), remap tables (R341). -/
namespace Sys2Proof.Machine

/-- Present a move of the outside again: it waits. -/
def State.again (s : State) (i : Instr) : State := { s with inbox := s.inbox ++ [.event i s.agent.a s.agent.b s.agent.c] }

/-- A store of a firmware core to a register of a least mode (R391), of as many bytes as `agent.a` says: of another size than 8, or from a lower mode,
it raises the core's access fault and has no effect; no firmware core runs before the boot checks have passed (R394). -/
def State.fwStore (s : State) (least off : Nat) (f : State → State) : State :=
  if s.boot.st ≠ 1 then s
  else if s.agent.a ≠ 8 ∨ s.agent.c < least then { s with outs := s.outs ++ [.cfgFault true off] }
  else f s

/-! ### Released sequences (R129, R130) -/

/-- A slice enters the sequence of the oldest broadcast of a strand number that has not reached it; the broadcast ends with the last. -/
def enterRel (sn sl : Nat) : List RelBc → List RelBc × Option Nat
  | [] => ([], none)
  | r :: rs =>
    if r.sn = sn ∧ r.left.any (fun x => decide (x = sl)) = true then
      let left := r.left.filter (fun x => decide (x ≠ sl))
      ((if left.isEmpty then rs else { r with left := left } :: rs), some r.seq)
    else ((r :: (enterRel sn sl rs).1), (enterRel sn sl rs).2)

/-- RSEQ_ENTRY (R129): the slice of the agent enters a released sequence of the strand number. -/
def execRseqEntry (s : State) : Host.Outcome State Fault Refusal :=
  let (rel, q) := enterRel s.agent.a s.agent.b s.mem.rel
  .next (match q with
    | none => s
    | some q => s.modMem (fun m => { m with rel := rel, rseqT := tblPut 0 m.rseqT (8192 * s.agent.b + s.agent.a) q }))

/-- A record without its released entries (R130). -/
def Mem.sweepRace (m : Mem) (sl : Nat) (r : Race) : Race :=
  { r with writer := r.writer.filter (fun w => !m.released sl w.sn w.seq), readers := r.readers.filter (fun e => !m.released sl e.1 e.2) }

/-- RACE_SWEEP (R130): the slice of the agent empties the entries of released regions. -/
def execRaceSweep (s : State) : Host.Outcome State Fault Refusal :=
  .next (s.modMem (fun m => { m with lines := m.lines.map (fun l =>
    if l.slice = s.agent.a then { l with races := l.races.map (m.sweepRace l.slice) } else l) }))

/-! ### Spills (R315-R317) -/

/-- The unbacked lines of a part. -/
def Mem.partLines (m : Mem) (p vpart : Nat) : List Line := m.lines.filter (fun l => l.unb && decide (l.part = p) && decide (l.vpart = vpart))

/-- Back a part at a frame (R315): its lines are written there and dropped, the rest of the frame is zeroed, the backing entry is written;
none while a write must wait. -/
def Mem.backAt (m : Mem) (p vpart ent frame : Nat) : Option Mem :=
  let ls := m.partLines p vpart
  let m := { m with lines := m.lines.filter (fun l => !(l.unb && decide (l.part = p) && decide (l.vpart = vpart))) }
  let m := m.addLines p (-(ls.length : Int))
  let written := (span 0 32).foldl (fun (a : Option Mem) k => a.bind (fun m =>
    m.writeAs (spillWho p) (frame + 128 * k) (match ls.find? (fun l => decide (l.name % 32 = k)) with | some l => l.data | none => pbOf 128 0 false))) (some m)
  written.bind (fun m => m.writeAs (spillWho p) ent (pbOf 8 (frame + 1) false))

/-- Whether a reserve list holds no frame (R316). -/
def Mem.listEmpty (m : Mem) (p d : Nat) : Bool :=
  let n := 2 ^ (ringLogn (cfgGet m.cfg (offRsvcfg p d)) + 1)
  let r := cfgGet m.cfg (offRsvptr p d)
  decide (bitsOf r 32 16 % n = bitsOf r 0 16 % n)

/-- Report each access held on a spill whose list is empty, once (R317). -/
def Mem.tellSpill (m : Mem) (k : Nat) : Mem :=
  let news := ((m.spills[k]?).elim [] (·.held)).filter (fun h => !h.reported)
  let told := fun (y : Spill) => { y with held := y.held.map (fun (h : Held) => { h with reported := true }) }
  { m with spills := modAt told m.spills k, reports := m.reports ++ news.map (fun h => Report.unbackedSpill h.sn h.path) }

/-- BACK_PART (R315): the spill of the agent's index takes a frame, after earlier spills on the same list (R317), and backs its part; while
the list is empty, each access held on it is reported once. -/
def execBackPart (s : State) : Host.Outcome State Fault Refusal :=
  let k := s.agent.a
  match s.mem.spills[k]? with
  | none => .next s
  | some x =>
    if (s.mem.spills.take k).any (fun y => decide (y.part = x.part) && decide (y.die = x.die)) then
      .next (if s.mem.listEmpty x.part x.die then s.modMem (·.tellSpill k) else s)
    else match s.mem.takeFrame x.part x.die with
      | none => .next s
      | some (none, m) => .next (s.setMem (m.tellSpill k))
      | some (some f, m) =>
        match m.backAt x.part x.vpart x.entry f with
        | none => .next s
        | some m => .next (s.setMem { m with spills := dropAt m.spills k })

/-- SPILL_TIMEOUT (R317): accesses held for 210,000 ck on the spill of the agent's index, whose list is still empty, end their instances, as
under R156 with cause 0x11; the spec states no TVAL (a free value). -/
def execSpillTimeout (s : State) : Host.Outcome State Fault Refusal :=
  match s.mem.spills[s.agent.a]? with
  | none => .next s
  | some x =>
    if s.mem.listEmpty x.part x.die = false then .next s
    else
      let late := x.held.filter (fun h => decide (h.since + 210000 ≤ s.clock))
      .next (late.foldl (fun s h =>
        match s.strand? h.sn with
        | none => s
        | some t =>
          if t.run = .running ∨ t.run = .halted .save then
            let (v, m) := s.mem.pick (2 ^ 64)
            (s.setMem m).escalate h.sn 0x11 0 0 v t.seq.pc
          else s) s)

/-! ### Mask changes (R306-R310) -/

/-- SLWSTAT at the end of a change (R307). -/
def Mem.slwDone (m : Mem) (sl err : Nat) : Mem :=
  let v := if err = 0 then bitsOf (cfgGet m.cfg offSlwstat) 8 8 * 256 else sl * 256 + err * 2
  { m with mask := none, cfg := cfgPut m.cfg offSlwstat v }

/-- SLWCMD_GO (R307, R309): the checks that precede any slice; then the change begins. -/
def execSlwcmdGo (v : BitVec 64) (s : State) : Host.Outcome State Fault Refusal :=
  .next (s.fwStore 1 offSlwcmd fun s =>
  let x := v.toNat
  let sl := bitsOf x 48 8
  let p := bitsOf x 40 4
  let u := bitsOf x 16 16
  let w := bitsOf x 0 16
  if v.getLsbD 63 = false ∨ bitOf (cfgGet s.mem.cfg offSlwstat) 0 = true then s
  else if 11 < p ∨ (192 ≤ sl ∧ sl < 255) ∨ Nat.land u w ≠ u then s.modMem (fun m => m.slwDone (if sl = 255 then 0 else sl) 1)
  else s.modMem (fun m =>
    { m with mask := some ⟨p, w, u, decide (sl = 255), if sl = 255 then 0 else sl, 0, none⟩,
             cfg := cfgPut m.cfg offSlwstat (bitsOf (cfgGet m.cfg offSlwstat) 8 8 * 256 + 1) }))

/-- Move a line to another way of its set, evicting what stands there (R308): none where no way may take it. -/
def Mem.moveLine (m : Mem) (l : Line) (ways : Nat) : Option Mem :=
  match m.victim l.slice l.set ways with
  | none => none
  | some (way, ev) =>
    let m := match ev with | some v => m.writeBack v | none => m
    some ((m.dropLine l).putLine { l with way := way })

/-- Lines of a partition in a set, by way. -/
def Mem.ownLines (m : Mem) (p sl st : Nat) : List Line := (m.setLines sl st).filter (fun l => decide (l.part = p))

/-- How a set of a mask change ends: done, refused with a code, or a part to back first. -/
inductive SetEnd where
  | done (m : Mem)
  | refuse (code : Nat) (m : Mem)
  | back (l : Line) (m : Mem)

/-- The backed lines of a partition outside its new way mask (R308). -/
def maskBacked (wn ways : Nat) : List Line → Mem → SetEnd
  | [], m => .done m
  | l :: ls, m =>
    if bitOf wn l.way || l.unb then maskBacked wn ways ls m
    else if l.pinned then
      match m.moveLine l ways with
      | some m => maskBacked wn ways ls m
      | none => .refuse 3 m
    else maskBacked wn ways ls ((m.writeBack l).dropLine l)

/-- The unbacked lines of a partition outside its new unbacked-way mask (R308). -/
def maskUnbacked (un ways : Nat) : List Line → Mem → SetEnd
  | [], m => .done m
  | l :: ls, m =>
    if bitOf un l.way || !l.unb then maskUnbacked un ways ls m
    else match m.moveLine l ways with
      | some m => maskUnbacked un ways ls m
      | none => .back l m

/-- Go on to the next set, or the next slice, of a mask change (R307, R308): a slice that is done takes its new masks. -/
def Mem.maskNext (m : Mem) (c : MaskChange) : Mem :=
  if c.set < 1023 then { m with mask := some { c with set := c.set + 1, waitSince := none } }
  else
    let m := { m with cfg := cfgPut m.cfg (offSlway c.part c.slice) (c.umask * 65536 + c.wmask) }
    if c.all ∧ c.slice < 191 then { m with mask := some { c with slice := c.slice + 1, set := 0, waitSince := none } }
    else m.slwDone c.slice 0

/-- MASK_CHANGE_SET (R308, R309): one set of the change; a part that must be backed first, or that is being backed, makes it wait for BACK_PART. -/
def execMaskChangeSet (s : State) : Host.Outcome State Fault Refusal :=
  match s.mem.mask with
  | none => .next s
  | some c =>
    let m := s.mem
    let mine := m.ownLines c.part c.slice c.set
    if c.set = 0 ∧ (c.wmask = 0 ∨ c.umask = 0) ∧ m.lines.any (fun l => l.unb && decide (l.part = c.part) && decide (l.slice = c.slice)) = true ∧
        c.waitSince = none then .next (s.setMem (m.slwDone c.slice 2))
    else if (m.setLines c.slice c.set).any (fun l => l.dirty && !l.unb && !m.devOpen (128 * l.name)) then .next s
    else match maskBacked c.wmask (m.wmask c.part c.slice) mine m with
      | .refuse code m => .next (s.setMem (m.slwDone c.slice code))
      | .back _ m => .next (s.setMem m)
      | .done m =>
        match maskUnbacked c.umask (m.umask c.part c.slice) mine m with
        | .refuse code m => .next (s.setMem (m.slwDone c.slice code))
        | .done m => .next (s.setMem (m.maskNext c))
        | .back l m =>
          if m.spilling c.part l.vpart then .next (s.setMem { m with mask := some { c with waitSince := some (c.waitSince.getD s.clock) } })
          else .next (s.setMem { m with mask := some { c with waitSince := some s.clock },
                                        spills := m.spills ++ [⟨c.part, l.vpart, c.slice / 48, l.ent, []⟩] })

/-- MASK_CHANGE_FRAME_TIMEOUT (R309): a part backing of the change has waited 210,000 ck for a frame. -/
def execMaskChangeFrameTimeout (s : State) : Host.Outcome State Fault Refusal :=
  match s.mem.mask with
  | none => .next s
  | some c =>
    match c.waitSince with
    | none => .next s
    | some k =>
      if k + 210000 ≤ s.clock ∧ s.mem.listEmpty c.part (c.slice / 48) = true then
        .next (s.modMem (fun m => { m with spills := m.spills.filter (fun x => !(decide (x.part = c.part) && x.held.isEmpty)) }.slwDone c.slice 4))
      else .next s

/-! ### Registers with an effect (R316, R330, R346, R348) -/

/-- RSVPTR_TAIL_WRITE (R316): frames are provided; a count above the list's entries has no effect on TAIL. -/
def execRsvptrTailWrite (p d : Nat) (v : BitVec 64) (s : State) : Host.Outcome State Fault Refusal :=
  .next (s.fwStore 1 (offRsvptr p d) fun s => s.modMem (fun m =>
    let cfg := if v.getLsbD 31 then cfgField m.cfg (offRsvptr p d) 31 1 0 else m.cfg
    let n := 2 ^ (ringLogn (cfgGet m.cfg (offRsvcfg p d)) + 1)
    let head := bitsOf (cfgGet m.cfg (offRsvptr p d)) 32 16
    let tail := bitsOf v.toNat 0 16
    { m with cfg := if n / 2 < (tail % n + n - head % n) % n then cfg else cfgField cfg (offRsvptr p d) 0 16 tail }))

/-- The operators that the portal can carry (R329, R330). -/
def portalAops : Nat := 2 ^ 0x00 + 2 ^ 0x01 + 2 ^ 0x13 + 2 ^ 0x14
/-- Whether an AOPSET holds an operator that the portal cannot carry. -/
def aopForeign (set : Nat) : Bool := decide (Nat.land set portalAops ≠ set)

/-- PORTCTL_HOSTEN_WRITE (R330). -/
def execPortctlHostenWrite (p : Nat) (v : BitVec 64) (s : State) : Host.Outcome State Fault Refusal :=
  .next (s.fwStore 1 (offPortctl p) fun s => if v.getLsbD 0 = true ∧ s.insts.any (fun i => decide (i.2.part = p) && aopForeign i.2.aopset) = true then
      s.modMem (fun m => { m with cfg := cfgField m.cfg (offPortctl p) 1 1 1 })
    else s.modMem (fun m => { m with cfg := cfgPut m.cfg (offPortctl p) (b2n (v.getLsbD 0)) }))

/-- XINV_GO (R346): no effect while one runs. -/
def execXinvGo (p : Nat) (v : BitVec 64) (s : State) : Host.Outcome State Fault Refusal :=
  .next (s.fwStore 1 (offXinv p) fun s => if v.getLsbD 63 = true ∧ bitOf (cfgGet s.mem.cfg (offXinv p)) 61 = false then
      s.modMem (fun m => { m with xinv := m.xinv ++ [(p, bitsOf v.toNat 12 36, bitsOf v.toNat 0 2, v.getLsbD 62)],
                                  cfg := cfgPut m.cfg (offXinv p) (2 ^ 61) })
    else s)

/-- 4 KiB pages of an invalidation's size code (R346). -/
def xinvPages (sz : Nat) : Nat := if sz = 0 then 1 else if sz = 1 then 16 else if sz = 2 then 512 else 2 ^ 18
/-- Whether a cached translation, or an entry of the walk caches, covers part of a range. -/
def TlbEnt.covers (e : TlbEnt) (vpn n : Nat) : Bool := decide (e.vpn / max n e.pages = vpn / max n e.pages)

/-- Drop the cached translations of a partition that cover a range (R346). -/
def Mem.dropXl (m : Mem) (p vpn n : Nat) (all : Bool) : Mem :=
  { m with tlb := m.tlb.filter (fun e => !(decide (e.part = p) && (all || e.covers vpn n))) }

/-- Whether an access of a strand that was translated in the pages `used` names is still to be performed at package scope (R118, R346): a write that
awaits its acknowledgement may be one. -/
def Strand.usesPages (t : Strand) (used : Nat → Bool) : Bool :=
  let hit := fun (x : Part) => !x.done && (match x.place with | .bank _ _ => false | _ => used (bitsOf x.va 12 36))
  t.undoneLS.any (fun x => hit x.part) || !t.seq.acks.isEmpty ||
  (t.seq.loads ++ t.seq.reds).any (fun a => match a.kind with | .atom _ false _ _ _ _ => a.parts.any hit | .pin _ _ none => a.parts.any hit | _ => false)

/-- The pages of a partition whose translations an invalidation drops (R346): those of its range, and every page that a dropped entry covers. -/
def Mem.dropsPage (m : Mem) (p vpn n : Nat) (all : Bool) (page : Nat) : Bool :=
  all || decide (page / n = vpn / n) || m.tlb.any (fun e => decide (e.part = p) && e.covers vpn n && decide (page / e.pages = e.vpn / e.pages))

/-- XINV_COMPLETE (R346): the translations are dropped once no access that used one is still to be performed. -/
def execXinvComplete (s : State) : Host.Outcome State Fault Refusal :=
  let p := s.agent.a
  match s.mem.xinv.find? (fun x => decide (x.1 = p)) with
  | none => .next s
  | some (_, vpn, sz, all) =>
    if s.strands.any (fun e => decide (partOfSn e.1 = p) && e.2.usesPages (s.mem.dropsPage p vpn (xinvPages sz) all)) then .next s
    else .next (s.modMem (fun m => { m.dropXl p vpn (xinvPages sz) all with
      xinv := m.xinv.filter (fun x => decide (x.1 ≠ p)), cfg := cfgPut m.cfg (offXinv p) 0 }))

/-- FBCTL_FLUSH (R348): GEN advances, which makes every parked access of the partition retry, and its records that wait to be written are
discarded. -/
def execFbctlFlush (p : Nat) (s : State) : Host.Outcome State Fault Refusal :=
  .next (s.fwStore 1 (offFbctl p) fun s => s.modMem (fun m =>
    { m with cfg := cfgPut m.cfg (offFbctl p) ((m.gen p + 1) % 2 ^ 32), recs := m.recs.filter (fun r => decide (r.1 ≠ p) || r.2.1) }))

/-! ### The migration engine (R350) -/

/-- Bytes of a job's page. -/
def mgBytes (sz : Nat) : Nat := if sz = 0 then 2 ^ 12 else if sz = 1 then 2 ^ 21 else 2 ^ 30

/-- A packet a job, a rewrite or a removal was made for has its effect, with an error code (R369). -/
def State.packetDone (s : State) (q idx err : Nat) : State :=
  { s with queues := tblMod .fresh s.queues q (fun x => { x with pkts := x.pkts.map (fun k => if k.idx = idx then { k with stage := .done err } else k) }) }

/-- A job of a die ends with an outcome; a MIGRATE packet fails with 0x09 (R367). -/
def State.mgEnd (s : State) (d err : Nat) : State :=
  match s.mem.migs.find? (fun j => decide (j.die = d)) with
  | none => s
  | some j =>
    let s := s.modMem (fun m => { m with migs := m.migs.filter (fun k => decide (k.die ≠ d)), cfg := cfgPut m.cfg (offMgctl d) err })
    match j.queue with
    | some (q, idx) => s.packetDone q idx (if err = 0 then 0 else 0x09)
    | none => s

/-- Whether a job is malformed (R350, ERR 4). -/
def MigJob.bad (j : MigJob) : Bool :=
  let off := fun (x : Nat) => decide (x % mgBytes j.size ≠ 0) || decide (2 ^ 48 ≤ x)
  decide (j.mode = 3) || decide (j.size = 3) || decide (11 < j.part) || (if j.mode = 2 then off j.va else off j.src || off j.dst)

/-- A write of MGCTL with GO = 1 starts a job with the fields of the same write (R350). -/
def State.mgStart (s : State) (d : Nat) (j : MigJob) : State :=
  let s := s.modMem (fun m => { m with migs := m.migs ++ [j], cfg := cfgPut m.cfg (offMgctl d) (2 ^ 62) })
  if j.bad then s.mgEnd d 4 else s

/-- The job that a write of MGCTL gives. -/
def Mem.mgJob (m : Mem) (d x : Nat) : MigJob :=
  ⟨d, bitsOf x 56 2, bitsOf x 54 2, bitsOf x 52 2, bitsOf x 48 4, bitsOf x 3 45 * 8, cfgGet m.cfg (offMgsrc d), cfgGet m.cfg (offMgdst d),
    cfgGet m.cfg (offMgva d), 0, none, none⟩

/-- Replace an entry's ADDR field (R344). -/
def entryAddr (e a : Nat) : Nat := e - bitsOf e 12 46 * 4096 + bitsOf a 12 46 * 4096
/-- Replace an entry's HDIE field. -/
def entryHdie (e d : Nat) : Nat := e - bitsOf e 9 2 * 512 + d % 4 * 512

/-- Accesses that a migration held translate again (R350): the undone parts of a partition's accesses that lie in the moved page go where the
rewritten entry has them. -/
def State.rexlate (s : State) (p : Nat) (moved : Place → Place) : State :=
  let f := fun (x : Part) => if x.done then x else { x with place := moved x.place }
  let fa := fun (a : Acc) => { a with parts := a.parts.map f }
  { s with strands := s.strands.map (fun e =>
      if partOfSn e.1 = p then
        (e.1, { e.2 with
          seq := { e.2.seq with loads := e.2.seq.loads.map fa, reds := e.2.seq.reds.map fa,
                                stores := e.2.seq.stores.map (fun x => { x with parts := x.parts.map f }) }
          arrx := { e.2.arrx with pes := e.2.arrx.pes.map (fun pe => { pe with lq := pe.lq.map (fun x => { x with parts := x.parts.map f }) }) } })
      else e) }

/-- Copy one 64-byte chunk for a partition through the home slices (R350): the memory, if none of its accesses waits; or an error code, and the
memory that the failed read leaves (R337). -/
def Mem.mgChunk (m : Mem) (p src dst : Nat) : Except (Nat × Mem) (Option Mem) :=
  if 2 ^ 39 ≤ src ∨ 2 ^ 39 ≤ dst then .error (1, m)
  else if (m.findLine (homeOfPa src) (src / 128)).isNone ∧ m.devOpen src = true ∧ tblGet none (m.clearAhead src).ecc (src / 64) = some .uncorr then .error (2, (m.devRead src 64).2)
  else .ok ((m.ownRead p src 64).bind (fun r => r.2.ownWrite p dst r.1))

/-- Undefined contents of an aborted move's destination (R350). -/
def freeFill : Nat → Mem → Nat → Mem
  | 0, m, _ => m
  | k + 1, m, pa => let (b, m) := m.freeByte; freeFill k (m.pokeByte pa (b, false)) (pa + 1)

/-- A move or checkpoint read goes on by one chunk (R350); when all are copied, a move rewrites the leaf entry and invalidates the page. -/
def State.mgCopy (s : State) (j : MigJob) : State :=
  if j.dst = 2 ^ 48 then
    -- a MIGRATE packet's move that waits for its frame (R367)
    match s.mem.takeFrame j.part j.ndie with
    | none => s
    | some (none, m) => s.setMem m
    | some (some f, m) =>
      let s := s.setMem { m with migs := m.migs.map (fun k => if k.die = j.die then { k with dst := f, waitSince := none } else k) }
      if ({ j with dst := f }).bad then s.mgEnd j.die 4 else s
  else if j.done < mgBytes j.size / 64 then
    let a := j.src + 64 * j.done
    let b := j.dst + 64 * j.done
    match s.mem.mgChunk j.part a b with
      | .ok none => s
      | .ok (some m) => s.setMem { m with migs := m.migs.map (fun k => if k.die = j.die then { k with done := k.done + 1 } else k) }
      | .error (e, m) =>
        let s := s.setMem m
        (if j.dst + mgBytes j.size ≤ 2 ^ 39 then s.modMem (fun m => freeFill (mgBytes j.size) m j.dst) else s).mgEnd j.die e
  else if j.mode = 0 then
    match (s.mem.ownRead j.part j.entry 8).bind (fun r => r.2.ownWrite j.part j.entry (pbOf 8 (entryAddr (pbNat r.1) j.dst) false)) with
    | none => s
    | some m =>
    let s := s.setMem (m.dropXl j.part (bitsOf j.va 12 36) (mgBytes j.size / 4096) false)
    (s.rexlate j.part (fun pl => match pl with | .frame pa => if j.src ≤ pa ∧ pa < j.src + mgBytes j.size then .frame (j.dst + (pa - j.src)) else pl | _ => pl)).mgEnd j.die 0
  else s.mgEnd j.die 0

/-- The job waits for a frame of the new die (R350). -/
def State.mgWait (s : State) (j : MigJob) : State :=
  s.modMem (fun m => { m with migs := m.migs.map (fun k =>
    if k.die = j.die then { k with waitSince := match k.waitSince with | some c => some c | none => some s.clock } else k) })

/-- How the move of a page's lines ends: done, no frame is left, or a write must wait for device memory. -/
inductive Rehome where
  | done (m : Mem)
  | noFrame
  | wait

/-- Move the unbacked lines of a page to their homes on the new die (R319): a line that finds no way there has its part backed at a frame of
that die. -/
def rehomeLines (clock p nd tbl sz : Nat) : List Line → Mem → Rehome
  | [], m => .done m
  | l :: ls, m =>
    if m.lines.any (fun k => decide (k = l)) then
      let sl := homeSlice nd l.name
      let m0 := m.dropLine l
      match m0.victim sl l.set (m0.umask p sl) with
      | some (way, ev) =>
        if ev.any (fun v => v.dirty && !m.devOpen (128 * v.name)) then .wait
        else
          let m1 := match ev with | some v => m0.writeBack v | none => m0
          rehomeLines clock p nd tbl sz ls (m1.putLine { l with slice := sl, way := way })
      | none =>
        match m.takeFrame p nd with
        | none => .wait
        | some (none, _) => .noFrame
        | some (some f, m) =>
          match m.backAt p l.vpart l.ent f with
          | some m => rehomeLines clock p nd tbl sz ls m
          | none => .wait
    else rehomeLines clock p nd tbl sz ls m

/-- An unbacked re-home goes on (R350): one part in a step, a backed one moving to a frame of the new die; then its lines move, and HDIE is
rewritten. -/
def State.mgRehome (s : State) (j : MigJob) : State :=
  match s.mem.ownRead j.part j.entry 8 with
  | none => s
  | some (l, m) =>
  let s := s.setMem m
  let leaf := pbNat l
  let tbl := bitsOf leaf 12 27 * 4096
  let n := mgBytes j.size / 4096
  if j.done < n then
    let ent := tbl + 8 * j.done
    match s.mem.ownRead j.part ent 8 with
    | none => s
    | some (x, m) =>
    let s := s.setMem m
    let e := pbNat x
    let next := fun (m : Mem) => { m with migs := m.migs.map (fun k => if k.die = j.die then { k with done := k.done + 1, waitSince := none } else k) }
    if backingBad e then s.mgEnd j.die 1
    else if !bitOf e 0 then s.setMem (next s.mem)
    else
      let old := bitsOf e 12 27 * 4096
      match s.mem.takeFrame j.part j.ndie with
      | none => s
      | some (none, m) => (s.setMem m).mgWait j
      | some (some f, m) =>
        let copied : Except (Nat × Mem) (Option Mem) := (span 0 64).foldl (fun r k =>
          match r with | .ok (some m) => m.mgChunk j.part (old + 64 * k) (f + 64 * k) | x => x) (.ok (some m))
        match copied with
        | .ok none => s
        | .ok (some m) =>
          match m.ownWrite j.part ent (pbOf 8 (f + 1) false) with
          | none => s
          | some m =>
            s.setMem (next m)
        | .error (e, m) => (s.setMem m).mgEnd j.die e
  else
    let lines := s.mem.lines.filter (fun l => l.unb && decide (l.part = j.part) && decide (tbl ≤ l.ent) && decide (l.ent < tbl + 8 * n))
    match rehomeLines s.clock j.part j.ndie tbl n lines s.mem with
    | .noFrame => s.mgWait j
    | .wait => s
    | .done m =>
      match m.ownWrite j.part j.entry (pbOf 8 (entryHdie leaf j.ndie) false) with
      | none => s
      | some m =>
      ((s.setMem (m.dropXl j.part (bitsOf j.va 12 36) n false)).rexlate j.part (fun pl => match pl with | .unb va _ t sz => if t = tbl then .unb va j.ndie t sz else pl | _ => pl)).mgEnd j.die 0

/-- A write of MGCTL of a die (R350): GO starts a job, with no effect while one runs; a move of the engine itself, which has GO = 0, takes
the running job one step on. -/
def State.mgctl (s : State) (d : Nat) (v : BitVec 64) : State :=
  let job := s.mem.migs.find? (fun j => decide (j.die = d))
  if v.getLsbD 63 then s.fwStore 1 (offMgctl d) fun s => if job.isNone then s.mgStart d (s.mem.mgJob d v.toNat) else s
  else match job with
    | none => s
    | some j => if j.mode = 2 then s.mgRehome j else s.mgCopy j

/-- MGCTL_MOVE (R350). -/
def execMgctlMove (d : Nat) (v : BitVec 64) (s : State) : Host.Outcome State Fault Refusal := .next (s.mgctl d v)
/-- MGCTL_CHECKPOINT_READ (R350). -/
def execMgctlCheckpointRead (d : Nat) (v : BitVec 64) (s : State) : Host.Outcome State Fault Refusal := .next (s.mgctl d v)
/-- MGCTL_REHOME (R350). -/
def execMgctlRehome (d : Nat) (v : BitVec 64) (s : State) : Host.Outcome State Fault Refusal := .next (s.mgctl d v)

/-- MIGRATION_FRAME_TIMEOUT (R350): the re-home of the agent's die has waited 210,000 ck for a frame. -/
def execMigrationFrameTimeout (s : State) : Host.Outcome State Fault Refusal :=
  match s.mem.migs.find? (fun j => decide (j.die = s.agent.a)) with
  | none => .next s
  | some j =>
    match j.waitSince with
    | none => .next s
    | some k => .next (if k + 210000 ≤ s.clock ∧ s.mem.listEmpty j.part j.ndie = true then s.mgEnd j.die 3 else s)

/-! ### Peers and the host (R328, R349) -/

/-- The atomic that a peer's operator code names (R324, R325): COP for a compare-and-swap, else AOP; with its width. -/
def peerAtom (cas : Bool) (op : Nat) : Option (AtomOp × Nat) :=
  if cas then (if op = 0 then some (.cas, 32) else if op = 1 then some (.cas, 64) else none)
  else
    let tbl : List (AtomOp × Nat) := [(.add, 32), (.add, 64), (.minS, 32), (.minU, 32), (.minS, 64), (.minU, 64), (.maxS, 32), (.maxU, 32),
      (.maxS, 64), (.maxU, 64), (.fadd32, 32), (.fadd64, 64), (.faddB2, 32), (.and, 32), (.and, 64), (.or, 32), (.or, 64), (.xor, 32),
      (.xor, 64), (.swap, 32), (.swap, 64), (.inc, 32), (.inc, 64), (.dec, 32), (.dec, 64)]
    tbl[op]?

/-- Write an edge entry back to its home (R328), in memory without its edge entries; none while the home waits. -/
def Mem.edgeBack (m : Mem) (e : EdgeEnt) : Option Mem :=
  if e.dirty then (Mem.ownWrite { m with edge := [] } 12 e.pa e.word).map (fun (x : Mem) => { x with edge := m.edge }) else some m

/-- The edge entry of a word, fetched from its home on a miss; the entry of the die with the oldest use makes room (R328). None while a home
waits. -/
def Mem.edgeFetch (m : Mem) (die pa : Nat) : Option (EdgeEnt × Mem) :=
  if m.uncleared pa && !m.devOpen pa then none
  else
  let m := m.clearAhead pa
  match m.edge.find? (fun e => decide (e.die = die) && decide (e.pa = pa)) with
  | some e => some (e, m)
  | none =>
    let mine := m.edge.filter (fun e => decide (e.die = die))
    let old := mine.foldl (fun k e => min k e.stamp) m.stamp
    let room : Option Mem :=
      if mine.length < 64 then some m
      else match mine.find? (fun e => decide (e.stamp = old)) with
        | some v => (m.edgeBack v).map (fun m => { m with edge := m.edge.filter (fun e => decide (e ≠ v)) })
        | none => some m
    room.bind (fun m => (Mem.ownRead { m with edge := [] } 12 pa 8).map (fun (r : List PB × Mem) =>
      ((⟨die, pa, r.1, false, 0, r.2.stamp⟩ : EdgeEnt), { r.2 with edge := m.edge })))

/-- The group that the edge serves, and the member's entry, whose TICKET or segment holds an address (R412, R413). -/
def State.groupAt (s : State) (pa : Nat) : Option (Nat × Nat) :=
  let rd := fun (a n : Nat) => pbNat (s.mem.peek a n)
  s.groups.findSome? (fun d =>
    ((span 0 64).find? (fun i =>
      let e := d + 64 + 32 * i
      let seg := rd (d + 16) 8 + i * rd (d + 24) 8
      decide (i < rd (d + 4) 1) && ((decide (e + 8 ≤ pa) && decide (pa < e + 16)) || (decide (seg ≤ pa) && decide (pa < seg + rd (d + 24) 8))))).map
      (fun i => (d, d + 64 + 32 * i)))

/-- Whether the edge drops a peer's atomic (R413): one to a TICKET or a segment that does not come from the package of its present member. -/
def State.edgeDrops (s : State) (src pa : Nat) : Option Nat :=
  match s.groupAt pa with
  | some (d, e) => if pbNat (s.mem.peek (e + 2) 1) = 1 ∧ pbNat (s.mem.peek e 2) = src then none else some d
  | none => none

/-- EDGE_ATOMIC (R328): an atomic of a peer package is performed in the edge cache of the die that homes its word. -/
def execEdgeAtomic (src pa : Nat) (cas : Bool) (op : BitVec 5) (b e : BitVec 64 × Bool) (s : State) : Host.Outcome State Fault Refusal :=
  match peerAtom cas op.toNat, s.edgeDrops src pa with
  | none, _ => .next s
  | some _, some d => .next (s.report (.collectiveDrop d src))
  | some (o, w), none =>
    let word := pa / 8 * 8
    let die := dieOfStack (stackOf pa)
    match s.mem.edgeFetch die word with
    | none => .next (s.again (.edgeAtomic src pa cas op b e))
    | some (x, m) =>
      let a : Atom := ⟨o, w, b.1.toNat % 2 ^ w, b.2, e.1.toNat % 2 ^ w, e.2, false, none, false, false⟩
      let old := slice x.word (pa % 8) (w / 8)
      let x' : EdgeEnt := { x with word := splice x.word (pa % 8) (a.apply old), dirty := true, since := s.clock, stamp := m.stamp }
      let m := { m with stamp := m.stamp + 1, edge := x' :: m.edge.filter (fun y => !(decide (y.die = die) && decide (y.pa = word))) }
      .next ({ s with outs := s.outs ++ [Out.reply src (pbNat old) (pbPois old)] }.setMem m)

/-- EDGE_WRITEBACK (R328): the dirty entry of the agent's die and index is written back and stays, clean. -/
def execEdgeWriteback (s : State) : Host.Outcome State Fault Refusal :=
  match (s.mem.edge.filter (fun e => decide (e.die = s.agent.a)))[s.agent.b]? with
  | none => .next s
  | some x =>
    match s.mem.edgeBack x with
    | some m => .next (s.setMem { m with edge := m.edge.map (fun e => if e = x then { e with dirty := false } else e) })
    | none => .next s

/-- The bytes that the outside returned for a part, with their poison (R337): poisoned zeros for a read that failed. -/
def extBytes (n : Nat) (ok : Bool) (data : List PB) : List PB :=
  if ok then (span 0 n).map (fun k => data.getD k (0, false)) else pbOf n 0 true

/-- A forwarded part of an instruction fetch (R168, R349): the word of PC (id 5) or the word after it (id 6). -/
def State.fwdFetch (s : State) (sn : Nat) (t : Strand) (va : Nat) (ok : Bool) (data : List PB) : State :=
  match s.mem.page (coreOfSn sn) (partOfSn sn) va .x with
  | (.ok l, m) =>
    if l.loc = 0 ∨ l.ub = true ∨ t.run ≠ .running ∨ t.seq.wait ≠ .none then s
    else
      let s := s.setMem (m.countLine (partOfSn sn) va false)
      let l := extBytes 4 ok data
      if !pbPois l then s.modCore (coreOfSn sn) (fun c => { c with ic := c.ic.filter (fun x => !(decide (x.part = partOfSn sn) && decide (x.va = va))) ++
        [⟨partOfSn sn, va, BitVec.ofNat 32 (pbNat l)⟩] })
      else s.trap sn 0x0D 0 1 va
  | _ => s

/-- FORWARDED_ACCESS (R349): the answer to a read of host or peer memory: the next part of the strand's load with identity `id`, or a word of
its instruction fetch (5, 6); or the old value of an atomic that the edge switch of a peer performed (R328). One that failed gives poisoned
zeros and is reported. -/
def execForwardedAccess (sn id : Nat) (ok : Bool) (data : List (BitVec 8 × Bool)) (s : State) : Host.Outcome State Fault Refusal :=
  match s.strand? sn with
  | none => .next s
  | some t =>
    let s' := if ok then s else s.report (.linkError sn)
    if id = 5 then .next (s'.fwdFetch sn t t.seq.pc.toNat ok data)
    else if id = 6 then .next (s'.fwdFetch sn t (t.seq.pc + 4#64).toNat ok data)
    else match t.findAny id with
      | none => .next s
      | some a =>
        match nextPart a.parts with
        | none => .next (if a.parts.any (fun p => match p.place with | .fwd l _ _ => decide (l = 2) | _ => false) then s'.outerAtom sn id ok (pbNat data) (pbPois data) else s)
        | some p =>
          match p.place, a.kind.isLoad with
          | .fwd _ _ va, true =>
            if t.blocked a.seq false p then .next s
            else
              let t' := (t.modAcc a.id (fun a => { a with parts := setPart (fun p => { p with done := true, data := extBytes p.n ok data }) a.parts })).progress
              .next ((s'.setStrand sn t').modMem (fun m => m.countLine (partOfSn sn) va false))
          | _, _ => .next s

/-- REMAP_TABLE_ERROR (R341): an uncorrectable error in one copy of a stack's remap table; with both copies failed, the pseudo-channel it
concerns goes offline, until package reset. -/
def execRemapTableError (stack cp pc : Nat) (s : State) : Host.Outcome State Fault Refusal :=
  let bad := s.mem.remapBad
  let mine := 2 * stack + cp % 2
  let other := 2 * stack + (cp + 1) % 2
  .next (s.modMem (fun m =>
    let m := if bad.any (fun k => decide (k = mine)) then m else { m with remapBad := mine :: bad }
    if bad.any (fun k => decide (k = other)) then
      { m with cfg := cfgField m.cfg (offPcoff stack (pc / 64)) (pc % 64) 1 1, reports := m.reports ++ [.remapCopies stack pc] }
    else m))

end Sys2Proof.Machine
end

