-- ==== Sys2Proof/Machine/Front.lean ====
section
/-! DEFINITION. The front end's queues and packets (R362-R369, R376, R377, R388): completion signals, FENCE, WAIT, SIGNAL, MIGRATE, HASHSET
and MEMBER packets. LAUNCH packets are in Place.lean. -/
namespace Sys2Proof.Machine

/-! ### Queues (R362-R365) -/

def State.queue (s : State) (q : Nat) : Queue := tblGet .fresh s.queues q
def State.setQueue (s : State) (q : Nat) (x : Queue) : State := { s with queues := tblPut .fresh s.queues q x }
def State.modQueue (s : State) (q : Nat) (f : Queue → Queue) : State := s.setQueue q (f (s.queue q))

/-- Partition of a queue (R363); the privileged launches of partition p form queue 4,096 + p (R405). -/
def State.qPart (s : State) (q : Nat) : Nat := if 4096 ≤ q then q - 4096 else bitsOf (cfgGet s.mem.cfg (offQpart q)) 0 4
/-- Whether the front end reads a queue (R363). -/
def State.qOn (s : State) (q : Nat) : Bool := decide (q < 4096) && bitOf (cfgGet s.mem.cfg (offQcfg q)) 4 && decide (s.qPart q < 12)
/-- Whether a queue has configuration authority (R363). -/
def State.qAuth (s : State) (q : Nat) : Bool := bitOf (cfgGet s.mem.cfg (offQcfg q)) 5
def State.qLogn (s : State) (q : Nat) : Nat := bitsOf (cfgGet s.mem.cfg (offQcfg q)) 0 4
def State.qBase (s : State) (q : Nat) : Nat := bitsOf (cfgGet s.mem.cfg (offQcfg q)) 6 52 * 64
def State.qHost (s : State) (q : Nat) : Bool := bitOf (cfgGet s.mem.cfg (offQcfg q)) 63

/-- `n` bytes of a queue's header or ring as they stand at package or `sys` scope (R362, R365). -/
def State.qRead (s : State) (q off n : Nat) : List Byte :=
  if s.qHost q then pbBytes (s.extRead 1 (s.qBase q + off) n) else pbBytes (s.mem.peek (s.qBase q + off) n)
/-- Read them (R365); none while the read waits for device memory. -/
def State.qGet (s : State) (q off n : Nat) : Option (List Byte × State) :=
  if s.qHost q then some (s.qRead q off n, s)
  else (s.mem.ownRead (s.qPart q) (s.qBase q + off) n).map (fun r => (pbBytes r.1, s.setMem r.2))
/-- Whether the queue's header can be written now. -/
def State.qOpen (s : State) (q : Nat) : Bool := s.qHost q || s.mem.ownOpen (s.qPart q) (s.qBase q) 64
/-- Write `n` bytes of an open header. -/
def State.qWrite (s : State) (q off n x : Nat) : State :=
  if s.qHost q then s.sendWrite (s.qPart q) 1 (s.qBase q + off) (pbOf n x false)
  else match s.mem.ownWrite (s.qPart q) (s.qBase q + off) (pbOf n x false) with
    | some m => s.setMem m
    | none => s

/-- Offset of the packet with an index from the header, and the packet (R362). -/
def State.qOff (s : State) (q idx : Nat) : Nat := 64 + 64 * (idx % 2 ^ s.qLogn q)
def State.qPacket (s : State) (q idx : Nat) : List Byte := s.qRead q (s.qOff q idx) 64
/-- Field of a packet: bytes `k` to `k + n - 1`. -/
def fld (b : List Byte) (k n : Nat) : Nat := ofBytes (slice b k n)

/-- A queue stops with an error (R364, R372). -/
def State.qStop (s : State) (q err : Nat) : State := s.modQueue q (fun x => { x with st := .stopped, err := err })

/-- HEAD moves past a packet, and is written to the header (R362); a replay ends where the queue had read to (R388). -/
def State.qAdvance (s : State) (q : Nat) : State :=
  let x := s.queue q
  let head := (x.head + 1) % 2 ^ 64
  (s.setQueue q { x with head := head, st := if x.st = .replay ∧ head = x.upTo then .active else x.st }).qWrite q 8 8 head

/-! ### Completion signals (R368) -/

/-- How a use of a signal ends: with the word it read, held, refused, or parked under a generation. -/
inductive SigUse where
  | ok (v : Nat) (s : State)
  | hold (s : State)
  | refused (s : State)
  | parked (gen : Nat) (s : State)

/-- The unit of the translation caches that the front end of a partition's die uses. -/
def feUnit (p : Nat) : Nat := 1664 + dieOfPart p

/-- Use the signal at a virtual address of a partition (R368): one indivisible update at its home, or a read; the strand number of its
record is 0, and no strand is held with it. On a page of the host or of a peer its line is counted, and the update goes out as a CAS of the word
(R329, R349; DESIGN CHOICE, log entry 12: it succeeds). -/
def State.sigUse (s : State) (p va : Nat) (wr : Bool) (f : Nat → Nat) : SigUse :=
  match s.mem.page (feUnit p) p va (if wr then .w else .r) with
  | (.error (.park va k e lvl), m) =>
    let g := m.gen p
    .parked g (s.setMem (m.postRecord p (xlRecord va 0 6 k wr false g e lvl)).2)
  | (.error .wait, m) => .hold (s.setMem m)
  | (.error _, m) => .refused (s.setMem m)
  | (.ok l, m) =>
    let s := s.setMem m
    if !s.admits p then .hold s
    else match l.place va with
    | .fwd loc addr _ =>
      let l := s.extRead loc addr 8
      let v := pbNat l
      let s := s.modMem (fun m => m.countLine p va wr)
      .ok v (if wr then { s.extPut loc addr (pbOf 8 (f v) (pbPois l)) with
        outs := s.outs ++ [.atomic (s.portFn loc p) loc addr .cas 64 (f v, pbPois l) (v, pbPois l)] } else s)
    | pl =>
      match s.mem.at s.clock ⟨p, 8191, 6, 0, false, false, 0⟩ (if wr then .atomic else .read) pl 8 (fun o => pbOf 8 (f (pbNat o)) (pbPois o)) with
      | .ok r m => .ok (pbNat r.old) (s.setMem m)
      | .hold m => .hold (s.setMem m)
      | .badBacking _ m => .hold (s.setMem m)
      | .race _ m => .hold (s.setMem m)

/-- The word after a completion (R368): CNT counts down; the first error is kept. -/
def sigDone (err v : Nat) : Nat :=
  v - bitsOf v 0 48 + (bitsOf v 0 48 + 2 ^ 48 - 1) % 2 ^ 48 + (if bitsOf v 48 8 = 0 then err * 2 ^ 48 else 0)

/-- The word after a SIGNAL packet (R367). -/
def sigOp (op x v : Nat) : Nat :=
  let c := bitsOf v 0 48
  v - c + (if op = 0 then (c + 2 ^ 48 - x) % 2 ^ 48 else if op = 1 then x else (c + x) % 2 ^ 48)

/-- A packet leaves the queue's packets in progress and enters the completion record (R377). -/
def State.pktGone (s : State) (q idx : Nat) : State :=
  s.modQueue q (fun x => { x with pkts := x.pkts.filter (fun k => decide (k.idx ≠ idx)), done := if x.done.any (fun i => decide (i = idx)) then x.done else x.done ++ [idx] })
/-- Change a packet in progress. -/
def State.modPkt (s : State) (q idx : Nat) (f : Pkt → Pkt) : State :=
  s.modQueue q (fun x => { x with pkts := x.pkts.map (fun k => if k.idx = idx then f k else k) })

/-- The next step of a packet in progress (R367, R368): the update of a SIGNAL, or the completion update; a parked one waits for the flush of
its partition. -/
def State.pktStep (s : State) (q : Nat) (k : Pkt) : State :=
  let p := s.qPart q
  let waits := match k.parked with | some g => decide (s.mem.gen p = g) | none => false
  if waits then s
  else
    let use := fun (s : State) (va : Nat) (f : Nat → Nat) (fin : State → State) =>
      match s.sigUse p va true f with
      | .ok _ s => fin s
      | .hold s => s
      | .refused s => (s.pktGone q k.idx).qStop q 0x0D
      | .parked g s => s.modPkt q k.idx (fun k => { k with parked := some g })
    let complete := fun (s : State) (err : Nat) =>
      if k.sig = 0 then s.pktGone q k.idx else use s k.sig (sigDone err) (fun s => s.pktGone q k.idx)
    match k.stage with
    | .done err => complete s err
    | .started =>
      if k.typ = 4 then
        match s.qGet q (s.qOff q k.idx) 64 with
        | none => s
        | some (b, s) =>
          use s (fld b 8 8) (sigOp (fld b 24 1) (fld b 16 6)) (fun s =>
            (s.modPkt q k.idx (fun k => { k with stage := .done 0, parked := none })))
      else s

/-- Serve every packet in progress of a queue, in order. -/
def State.qService (s : State) (q : Nat) : State :=
  (s.queue q).pkts.foldl (fun s k => match (s.queue q).pkts.find? (fun y => decide (y.idx = k.idx)) with | some y => s.pktStep q y | none => s) s

/-- A packet has its effect, and its completion is made (R368, R369). -/
def State.qFinish (s : State) (q idx err : Nat) : State := (s.packetDone q idx err).qService q

/-- A packet starts (R369): HEAD passes it; a replayed launch that had completed signals nothing (R388). -/
def State.qStart (s : State) (q idx typ sig : Nat) (stage : PkStage) : State :=
  (s.modQueue q (fun x => { x with pkts := x.pkts ++ [⟨idx, typ, sig, stage, none⟩] })).qAdvance q

/-! ### Reading packets (R365-R367) -/

/-- Whether a signal address is one that R368 takes. -/
def sigOk (va : Nat) : Bool := canonical va && decide (va % 8 = 0)

/-- The field checks of a packet by type (R366-R368): a malformed one fails. Reserved bytes are ignored (R4, R366). -/
def pktOk (b : List Byte) : Bool :=
  decide (fld b 1 1 ≤ 1) && (decide (fld b 56 8 = 0) || sigOk (fld b 56 8)) &&
  match fld b 0 1 with
  | 1 => decide (fld b 8 8 % 256 = 0) && decide (fld b 24 1 ≤ 4) && decide (fld b 25 1 ≤ 3) && decide (fld b 26 1 < 8) && decide (fld b 27 1 ≤ 3) &&
    decide (1 ≤ fld b 28 1) && decide (fld b 28 1 ≤ 16) && decide (fld b 29 1 ≤ 1)
  | 2 => true
  | 3 => sigOk (fld b 8 8) && decide (fld b 16 8 < 2 ^ 48) && decide (fld b 24 1 ≤ 4)
  | 4 => sigOk (fld b 8 8) && decide (fld b 24 1 ≤ 2)
  | 5 => decide (fld b 16 1 ≤ 2) && decide (fld b 8 8 % mgBytes (fld b 16 1) = 0) && canonical (fld b 8 8) && (decide (fld b 17 1 = 0) || decide (fld b 17 1 = 2)) &&
    decide (fld b 18 1 ≤ 3)
  | 6 => decide (fld b 8 1 ≤ 7) && (span 0 7).all (fun i => decide (fld b (16 + 4 * i) 4 < 2 ^ 19))
  | 7 => decide (fld b 8 8 % 4096 = 0) && decide (fld b 8 8 < 2 ^ 39) && decide (fld b 16 2 < 64) && decide (fld b 18 1 ≤ 1)
  | _ => false

/-- Whether a queue may read its packet at HEAD: it is enabled and not stopped, a packet is there, and the launch before it has started. -/
def State.qReads (s : State) (q : Nat) : Bool :=
  let x := s.queue q
  s.qOn q && (decide (x.st = .active) || decide (x.st = .replay)) && decide (x.head ≠ x.tail) &&
  !(s.waiting.any (fun w => decide (w.queue = q) && w.kinst.isNone))

/-- Read the packet at HEAD of a queue whose header can be written; none while either waits. -/
def State.qTake (s : State) (q : Nat) : Option (List Byte × State) := if s.qOpen q then s.qGet q (s.qOff q (s.queue q).head) 64 else none

/-- Whether the packet at HEAD had completed before a reset and is passed over (R388): any but a LAUNCH, which runs again. -/
def State.qSkips (s : State) (q : Nat) (b : List Byte) : Bool :=
  (s.queue q).done.any (fun i => decide (i = (s.queue q).head)) && (decide (fld b 0 1 ≠ 1) || !pktOk b)

/-- The front end reads the packet at HEAD of the agent's queue: one that had completed is passed over (R388), a malformed one stops the queue; one
of type `typ` whose conditions hold (R369) has its effect `f`, on the state after its read. -/
def State.onPacket (s : State) (typ : Nat) (f : Nat → Nat → List Byte → State → State) : Host.Outcome State Fault Refusal :=
  let q := s.agent.a
  let x := s.queue q
  if !s.qReads q then .next s
  else match s.qTake q with
    | none => .next s
    | some (b, r) =>
      if s.qSkips q b then .next (r.qAdvance q)
      else if !pktOk b then .next (r.qStop q 0x01)
      else if fld b 0 1 ≠ typ then .next s
      else if (bitOf (fld b 1 1) 0 || decide (typ = 2) || decide (typ = 6)) && !x.pkts.isEmpty then .next s
      else .next (f q x.head b r)

/-- QUEUE_TAIL_NOTICE (R365): the front end reads TAIL and serves the queue; a queue whose producer has overrun it, or whose next packet is
malformed, stops (R372). -/
def execQueueTailNotice (q : Nat) (s : State) : Host.Outcome State Fault Refusal :=
  if !s.qOn q then .next ((s.modQueue q (fun x => if x.st = .active then { x with st := .idle } else x)).qService q)
  else
    let s := s.qService q
    match s.qGet q 0 8 with
    | none => .next s
    | some (l, s) =>
      let x := s.queue q
      let tail := ofBytes l
      let s := s.setQueue q { x with tail := tail, st := if x.st = .idle then .active else x.st }
      if x.st = .stopped then .next s
      else if 2 ^ s.qLogn q < (tail + 2 ^ 64 - x.ridx % 2 ^ 64) % 2 ^ 64 then .next (s.qStop q 0x0C)
      else if !s.qReads q then .next s
      else match s.qTake q with
        | none => .next s
        | some (b, r) => .next (if s.qSkips q b then r.qAdvance q else if pktOk b then s else r.qStop q 0x01)

/-- A write of QCTL of a queue (R364, R398): by a firmware core, or through BAR0 of a function that is bound to the queue's partition. -/
def State.qctl (s : State) (q : Nat) (f : State → State) : State :=
  if s.agent.b = 0 then s.fwStore 1 (offQctl q) f
  else
    let c := cfgGet s.mem.cfg (offVfcfg s.agent.b)
    if s.boot.st = 1 ∧ s.agent.b ≤ 192 ∧ q < 4096 ∧ bitOf c 4 = true ∧ bitsOf c 0 4 < 12 ∧ bitsOf c 0 4 = s.qPart q then f s else s

/-- STOPPED becomes ACTIVE (R364); what is left of a replay is in the queue's `done` (R388). -/
def Queue.run (x : Queue) : Queue := if x.st = .stopped then { x with st := .active, parked := none } else x

/-- QCTL_RUN (R364): no effect in other states. -/
def execQctlRun (q : Nat) (s : State) : Host.Outcome State Fault Refusal := .next (s.qctl q fun s => s.modQueue q Queue.run)

/-- QCTL_SKIP (R364): with RUN, the packet at HEAD of a stopped queue is completed with error 0x01 and passed over. -/
def execQctlSkip (q : Nat) (s : State) : Host.Outcome State Fault Refusal :=
  .next (s.qctl q fun s =>
  let x := s.queue q
  if x.st ≠ .stopped then s
  else match s.qTake q with
    | none => s.again (.qctlSkip q)
    | some (b, r) =>
      let sig := if sigOk (fld b 56 8) then fld b 56 8 else 0
      if x.head = x.tail then s.modQueue q Queue.run else ((r.modQueue q Queue.run).qStart q x.head 0 sig (.done 0x01)).qService q)

/-! ### FENCE, WAIT, SIGNAL (R367, R368, R376) -/

/-- FENCE_PACKET (R376): every earlier packet has completed: the record, then RIDX, are written, and the fence completes. -/
def execFencePacket (s : State) : Host.Outcome State Fault Refusal :=
  s.onPacket 2 fun q idx b s =>
    let seq := ((s.qGet q 24 4).map (fun r => ofBytes r.1)).getD 0
    let s := s.qWrite q 32 8 s.clock
    let s := s.qWrite q 24 4 ((seq + 1) % 2 ^ 32)
    let s := s.qWrite q 16 8 ((idx + 1) % 2 ^ 64)
    let s := s.modQueue q (fun x => { x with ridx := (idx + 1) % 2 ^ 64, done := [] })
    (s.qStart q idx 2 (fld b 56 8) (.done 0)).qService q

/-- Whether a WAIT's condition holds of its signal (R367). -/
def waitHolds (cond x v : Nat) : Bool :=
  let c := bitsOf v 0 48
  if cond = 0 then decide (c = x) else if cond = 1 then decide (c ≠ x) else if cond = 2 then decide (c < x) else if cond = 3 then decide (x ≤ c)
  else decide (bitsOf v 48 8 ≠ 0)

/-- The test of a WAIT (R368): it starts and completes when its condition holds. -/
def State.waitTry (s : State) (q idx : Nat) (b : List Byte) : State :=
  let p := s.qPart q
  let waits := match (s.queue q).parked with | some g => decide (s.mem.gen p = g) | none => false
  if waits then s
  else match s.sigUse p (fld b 8 8) false id with
    | .ok v s =>
      let s := s.modQueue q (fun x => { x with parked := none })
      if waitHolds (fld b 24 1) (fld b 16 8) v then (s.qStart q idx 3 (fld b 56 8) (.done 0)).qService q else s
    | .hold s => s
    | .refused s => s.qStop q 0x0D
    | .parked g s => s.modQueue q (fun x => { x with parked := some g })

/-- WAIT (R367): the packet is read and tested for the first time. -/
def execWait (s : State) : Host.Outcome State Fault Refusal := s.onPacket 3 fun q idx b s => s.waitTry q idx b
/-- WAIT_TEST (R368): the WAIT that holds the queue is tested again. -/
def execWaitTest (s : State) : Host.Outcome State Fault Refusal := s.onPacket 3 fun q idx b s => s.waitTry q idx b

/-- SIGNAL (R367): it starts when read, and completes when its update is performed. -/
def execSignal (s : State) : Host.Outcome State Fault Refusal :=
  s.onPacket 4 fun q idx b s => ((s.qStart q idx 4 (fld b 56 8) .started).qService q).qService q

/-! ### MIGRATE and HASHSET (R340, R367) -/

/-- The entry that a walk ends at with a leaf: its address, its value, its level (R343). -/
def leafEntry (m : Mem) (hosten : Bool) (va : Nat) : Nat → Nat → Option (Nat × Nat × Nat)
  | lvl, tbl =>
    let pa := tbl + 8 * bitsOf va (lvlBits lvl) 9
    let e := m.peek64 pa
    if !bitOf e 0 || pteBad hosten e lvl then none
    else if bitOf e 1 then some (pa, e, lvl)
    else match lvl with
      | 0 => none
      | k + 1 => leafEntry m hosten va k (bitsOf e 12 27 * 4096)
termination_by structural lvl => lvl

/-- The leaf of a partition's page. -/
def Mem.leafAt (m : Mem) (p va : Nat) : Option (Nat × Nat × Nat) :=
  let r := cfgGet m.cfg (offPtbase p)
  if bitOf r 0 then leafEntry m (m.hosten p) va 3 (bitsOf r 12 27 * 4096) else none

/-- MIGRATE (R367): the migration engine of the page's home die takes the job when it is free; a page without a leaf that fits fails. A move's
frame comes from the reserve list of the destination die. -/
def execMigrate (s : State) : Host.Outcome State Fault Refusal :=
  s.onPacket 5 fun q idx b s0 =>
    let p := s0.qPart q
    let va := fld b 8 8
    let sz := fld b 16 1
    let mode := fld b 17 1
    let die := fld b 18 1
    match s0.mem.doWalk p va with
    | ((.wait, _), _) => s0
    | (_, m) =>
    let s := s0.setMem m
    let fail := (s.qStart q idx 5 (fld b 56 8) (.done 0x09)).qService q
    match s.mem.leafAt p va with
    | none => fail
    | some (ent, e, lvl) =>
      let l : Leaf := ⟨e, lvl⟩
      if lvl ≠ sz ∨ l.loc ≠ 0 ∨ decide (mode = 2) ≠ l.ub then fail
      else if s.mem.migs.any (fun j => decide (j.die = l.home)) then s
      else
        let job : MigJob := ⟨l.home, mode, sz, die, p, ent, bitsOf e 12 27 * 4096, 0, va, 0, none, some (q, idx)⟩
        let s := s.qStart q idx 5 (fld b 56 8) .started
        if mode = 2 then s.mgStart l.home job
        else match s.mem.takeFrame p die with
          | none => s0
          | some (some f, m) => ((s.setMem m).mgStart l.home { job with dst := f }).qService q
          | some (none, m) => (s.setMem m).modMem (fun m => { m with migs := m.migs ++ [{ job with dst := 2 ^ 48, waitSince := some s.clock }], cfg := cfgPut m.cfg (offMgctl l.home) (2 ^ 62) })

/-- HASHSET (R340, R372): from a queue with authority, after every earlier packet of the queue; the rewrites of a stack run in their order. -/
def execHashset (s : State) : Host.Outcome State Fault Refusal :=
  s.onPacket 6 fun q idx b s =>
    if s.qAuth q then
      (s.qStart q idx 6 (fld b 56 8) .started).modMem (fun m => { m with
        rewrites := m.rewrites ++ [⟨fld b 8 1, (span 0 7).map (fun i => fld b (16 + 4 * i) 4), q, idx⟩] })
    else (s.qStart q idx 6 (fld b 56 8) (.done 0x06)).qService q

/-- What a rewrite reads of a stack under the old rows (R337, R340): every chunk in error is read, as far as its pseudo-channel serves. -/
def Mem.rewriteReads (m : Mem) (stack : Nat) : Mem :=
  (m.ecc.filter (fun e => decide (stackOf (64 * e.1) = stack))).foldl (fun m e => (m.devRead (64 * e.1) 64).2) m

/-- The chunks of a stack that a rewrite reads as poisoned zeros because their pseudo-channel is offline (R340, R342). -/
def Mem.lostChunks (m : Mem) (stack : Nat) : List Nat :=
  if (span 0 2).all (fun h => decide (cfgGet m.cfg (offPcoff stack h) = 0)) then []
  else (span (stack * 2 ^ 30) (2 ^ 30)).filter (fun c => m.offline (64 * c))

/-- HASHSET_DONE (R340): the rewrite of the agent's stack ends: every chunk stands under the new rows as it was read under the old, the rows take effect,
and held requests proceed. -/
def execHashsetDone (s : State) : Host.Outcome State Fault Refusal :=
  match s.mem.rewrites.find? (fun r => decide (r.stack = s.agent.a)) with
  | none => .next s
  | some r =>
    let m := s.mem.rewriteReads r.stack
    let cfg := (span 0 7).foldl (fun c i => cfgPut c (offHmrow r.stack i) (r.rows.getD i 0)) m.cfg
    let m' := (m.lostChunks r.stack).foldl (fun m c => m.devWrite (64 * c) (pbOf 64 0 true)) { m with cfg := cfg, rewrites := m.rewrites.erase r }
    .next ((s.setMem m').qFinish r.queue r.idx 0)

/-! ### MEMBER (R415) -/

/-- A field of a descriptor or record in device memory, and a write of one whose home takes writes (12: for no partition). -/
def Mem.rd (m : Mem) (pa n : Nat) : Nat := pbNat (m.peek pa n)
def Mem.wr (m : Mem) (pa n x : Nat) : Mem := (m.ownWrite 12 pa (pbOf n x false)).getD m

/-- Reads by the device for a partition (12: for none), in order: their bytes; none while one waits. -/
def Mem.ownReads (m : Mem) (p : Nat) (l : List (Nat × Nat)) : Option (List (List PB) × Mem) :=
  l.foldlM (fun (acc : List (List PB) × Mem) x => (acc.2.ownRead p x.1 x.2).map (fun r => (acc.1 ++ [r.1], r.2))) ([], m)

/-- The collective engine serves a group from the first write or packet that names its descriptor (R412). -/
def State.serves (s : State) (d : Nat) : State := { s with groups := if s.groups.any (fun x => decide (x = d)) then s.groups else s.groups ++ [d] }

/-- A MEMBER packet from a queue with authority whose requirement holds has its effect; else it fails (R372, R415). -/
def State.member (s : State) (op : Nat) (ok : Mem → Nat → Nat → Bool) (f : Mem → Nat → Nat → Mem) : Host.Outcome State Fault Refusal :=
  s.onPacket 7 fun q idx b s =>
    if fld b 18 1 ≠ op then s
    else if !s.mem.ownOpen 12 (fld b 8 8) 64 || !s.mem.ownOpen 12 (fld b 8 8 + 64 + 32 * fld b 16 2) 32 then s
    else match s.mem.ownReads 12 [(fld b 8 8, 64), (fld b 8 8 + 64 + 32 * fld b 16 2, 32)] with
    | none => s
    | some (_, m) =>
      let s := s.setMem m
      let d := fld b 8 8
      let e := d + 64 + 32 * fld b 16 2
      let fin := fun (s : State) (err : Nat) => (s.qStart q idx 7 (fld b 56 8) (.done err)).qService q
      if !s.qAuth q then fin s 0x06
      else if !ok s.mem d e then fin s 0x0A
      else fin ((s.serves d).modMem (fun m => f m d e)) 0

/-- MEMBER_REMOVE (R415). -/
def execMemberRemove (s : State) : Host.Outcome State Fault Refusal :=
  s.member 0 (fun m _ e => decide (m.rd (e + 2) 1 = 1)) (fun m d e => (m.wr (e + 2) 1 2).wr d 4 ((m.rd d 4 + 1) % 2 ^ 32))

/-- MEMBER_ADMIT (R415). -/
def execMemberAdmit (s : State) : Host.Outcome State Fault Refusal :=
  s.member 1 (fun m d e => decide (m.rd (e + 2) 1 = 2) && decide ((m.rd (d + 56) 8 + 2 ^ 64 - m.rd (e + 24) 8) % 2 ^ 64 ≤ 4096)) (fun m d e =>
    let gen := (m.rd d 4 + 1) % 2 ^ 32
    let ticket := gen * 2 ^ 32 + (m.rd (d + 56) 8 + 2 ^ 64 - 1) % 2 ^ 32
    ((((m.wr e 2 (m.rd (e + 16) 2)).wr (e + 2) 1 1).wr d 4 gen).wr (e + 4) 4 gen).wr (e + 8) 8 ticket)

end Sys2Proof.Machine
end

