-- ==== Sys2Proof/Machine/Loop.lean ====
section
/-! DEFINITION. LOOP (R189, R190, R200, R205): loading context blocks, starting, stopping and reading loops. -/
namespace Sys2Proof.Machine

/-- The fields of a loop header (R189). -/
def hdrIi (h : Nat) : Nat := bitsOf h 0 6 + 1
def hdrNstg (h : Nat) : Nat := bitsOf h 8 3 + 1
def hdrSlot (h : Nat) : Nat := bitsOf h 12 3
def hdrEnt (h : Nat) : Nat := bitsOf h 16 6
def hdrKld (h : Nat) : Bool := bitOf h 11
/-- A reserved bit of a header that is not zero. -/
def hdrReserved (h : Nat) : Bool := decide (bitsOf h 22 42 ≠ 0) || bitOf h 15 || decide (bitsOf h 6 2 ≠ 0)

/-- A context block from its bytes (R189). -/
def CtxBlock.of (l : List Byte) : CtxBlock :=
  let h := ofBytes (l.take 8)
  let base := if hdrKld h then 520 else 8
  let word := fun k n => ofBytes (slice l k n)
  { hdr := h, consts := if hdrKld h then some ((span 0 128).map (fun k => BitVec.ofNat 32 (word (8 + 4 * k) 4))) else none,
    words := (span 0 (16 * hdrIi h)).map (fun k => word (base + 8 * k) 8) }

/-- Whether a header fails (R190). -/
def Strand.hdrBad (t : Strand) (h : Nat) : Bool :=
  hdrReserved h || decide (t.allot.cwn < hdrEnt h + hdrIi h) ||
  (decide (t.arr.st ≠ .idle) && decide (hdrSlot h = t.arr.lslot) &&
    (decide (hdrIi h ≠ t.arr.ii) || decide (hdrNstg h ≠ t.arr.nstg) || decide (hdrEnt h ≠ t.arr.ent)))

/-- The most results in flight at the end of a steady-state step of a column of words (R200): a result of latency L stays in flight over
L - 1 steps. -/
def inFlight (ws : List Cw) : Nat :=
  let ii := ws.length
  ((span 0 ii).map (fun r =>
    ((span 0 ii).map (fun k =>
      let w := ws.getD k (Cw.of 0)
      (span 0 (w.row.lat - 1)).countP (fun j => decide ((k + j) % ii = r)))).sum)).foldl max 0

/-- The column of PE `p` of a loop's words. -/
def Strand.column (t : Strand) (p ent ii : Nat) : List Cw := (span ent ii).map (t.cwAt p)

/-- The first PE on which the results in flight of the running words and of the words after a block exceed 8 (R190). DESIGN CHOICE (log
entry 46): the two sets' maxima over all rows are added, not their counts row by row. -/
def Strand.shadowPeak (t : Strand) (b : CtxBlock) : Option Nat :=
  let u := t.applyBlock b
  let ent := t.arr.ent
  let ii := t.arr.ii
  let e := hdrEnt b.hdr
  if e < ent + ii ∧ ent < e + hdrIi b.hdr then
    peIds.find? (fun p => decide (8 < inFlight (t.column p ent ii) + inFlight (u.column p ent ii)))
  else none

/-- The checks and the effect of a block that has been read (R190, R91). -/
def State.loadBlock (s : State) (sn : Nat) (t : Strand) (va : Nat) (data : List PB) : State :=
  match firstBadByte va data with
  | some a => s.trap sn 0x0D 0 2 a
  | none =>
    let b := CtxBlock.of (pbBytes data)
    if t.hdrBad b.hdr then s.trap sn 0x01 0 2 (2 ^ 64 - 1)
    else match firstBad t.allot.nrg t.allot.tkn (hdrIi b.hdr) b.words with
      | some k => s.trap sn 0x01 0 2 k
      | none =>
        if t.arr.st = .idle then s.modStrand sn (fun t => (t.applyBlock b).retire 4)
        else match t.shadowPeak b with
          | some p => s.trap sn 0x0C 0 4 p
          | none => s.modStrand sn (fun t => (t.mapArr (fun a => { a with shadow := some b })).retire 4)

/-- `ctxld` (R190). -/
def execCtxld (ga : Reg) (s : State) : Host.Outcome State Fault Refusal :=
  s.onStrand fun sn t =>
    if t.busy [ga] then s
    else if t.gp ga then s.poisonTrap sn ga
    else if decide (t.arr.st ≠ .idle) && t.arr.shadow.isSome then s
    else
      let va := (t.g ga).toNat
      match State.readRun sn t 1 s va [] with
      | .stop s => s
      | .ok h s' =>
        let hd := pbNat h
        match State.readRun sn t ((if hdrKld hd then 64 else 0) + 16 * hdrIi hd) s' (va + 8) h with
        | .stop s => s
        | .ok data s' => s'.loadBlock sn t va data

/-- The first start check that fails (R200): DETAIL and TVAL. DESIGN CHOICE (log entry 46): of several words or PEs that fail, TVAL names the
first in PE-major order. -/
def Strand.startBad (t : Strand) (trip ctl : Nat) : Option (Nat × Nat) :=
  if t.arr.st ≠ .idle then some (1, 0)
  else match tblGet none t.arrx.hdrs (bitsOf ctl 0 3) with
    | none => some (2, bitsOf ctl 0 3)
    | some h =>
      if bitsOf trip 32 32 ≠ 0 ∨ bitsOf ctl 12 52 ≠ 0 then some (5, 0)
      else
        let places := peIds.flatMap (fun p => (span (hdrEnt h) (hdrIi h)).map (fun e => (p, e)))
        match places.find? (fun x => decide (hdrNstg h ≤ (t.cwAt x.1 x.2).stg)) with
        | some (p, e) => some (3, 64 * p + e)
        | none => (peIds.find? (fun p => decide (8 < inFlight (t.column p (hdrEnt h) (hdrIi h))))).map (fun p => (4, p))

/-- The start of a loop (R200, R205). -/
def Strand.startLoop (t : Strand) (trip ctl h : Nat) : Strand :=
  let t := t.nextSeq
  let t := t.mapArr (fun a =>
    { a with st := .run, row := 0, svm := 1, iter := 1, p := 0, rb := 0, exit := false, trip := bitsOf trip 0 32, lslot := bitsOf ctl 0 3,
             sen := bitOf ctl 3, sch := bitsOf ctl 4 4, fch := bitsOf ctl 8 4, ii := hdrIi h, nstg := hdrNstg h, ent := hdrEnt h,
             frm := t.seq.ctl.rm, fftz := t.seq.ctl.ftz, fdaz := t.seq.ctl.daz })
  let t := t.mapArrX (fun a => { a with seq := t.seq.seq })
  if bitOf ctl 3 then t.setToken (bitsOf ctl 4 4) else t

/-- `lpgo` (R200, R205): poison, then the channels, then the start checks. -/
def execLpgo (ga gb : Reg) (s : State) : Host.Outcome State Fault Refusal :=
  s.onStrand fun sn t =>
    if t.busy [ga, gb] then s
    else match t.firstPois [ga, gb] with
      | some r => s.poisonTrap sn r
      | none =>
        let trip := (t.g ga).toNat
        let ctl := (t.g gb).toNat
        if decide (t.allot.tkn ≤ bitsOf ctl 8 4) || (bitOf ctl 3 && decide (t.allot.tkn ≤ bitsOf ctl 4 4)) then s.illegal sn (Instr.lpgo ga gb).tval
        else match t.startBad trip ctl with
          | some (d, v) => s.trap sn 0x0C 0 d v
          | none => s.setStrand sn ((t.startLoop trip ctl ((tblGet none t.arrx.hdrs (bitsOf ctl 0 3)).getD 0)).retire 4)

/-- `lpstop` (R205). -/
def execLpstop (s : State) : Host.Outcome State Fault Refusal :=
  s.onStrand fun sn t =>
    let t := if t.arr.st = .run ∧ t.arr.exit = false then t.mapArr (fun a => { a with exit := true, exitix := 2 ^ 32 - 1 }) else t
    s.setStrand sn (t.retire 4)

/-- The code of ST (R191). -/
def ASt.code : ASt → Nat
  | .idle => 0 | .run => 1 | .drain => 2 | .flush => 3

/-- The value of `lpstat` (R205). -/
def Strand.lpstat (t : Strand) : Nat :=
  let a := t.arr
  a.iter * 2 ^ 32 + a.lslot * 2 ^ 29 + a.rb * 2 ^ 24 + a.row * 2 ^ 16 + a.svm * 2 ^ 8 + b2n a.shadow.isSome * 2 ^ 5 + b2n t.arrx.held * 2 ^ 4 +
  b2n a.exit * 2 ^ 3 + a.st.code

/-- `lpstat` (R205): a snapshot, never poisoned. -/
def execLpstat (gd : Reg) (s : State) : Host.Outcome State Fault Refusal :=
  s.onStrand fun sn t => if t.busy [gd] then s else s.setStrand sn (t.done 4 gd (BitVec.ofNat 64 t.lpstat) false)

/-- `sqw` (R205): at once in IDLE, else with the next wrap. -/
def execSqw (ga : Reg) (s : State) : Host.Outcome State Fault Refusal :=
  s.onStrand fun sn t =>
    if t.busy [ga] then s
    else
      let v : AV := ⟨(t.g ga).setWidth 32, true, t.gp ga⟩
      let t := if t.arr.st = .idle then t.mapArrX (fun a => { a with sq := v }) else t.mapArr (fun a => { a with sqp := some v })
      s.setStrand sn (t.retire 4)

end Sys2Proof.Machine
end

