-- ==== Sys2Proof/Machine/Image.lean ====
section
/-! DEFINITION. The ARRAY, MATRIX and STREAM sections of a context image (R202, R259, R302, R379): a value is 4 bytes and a byte with V in
bit 0 and P in bit 1, a control word 8 bytes (R86), records have the order of the tables, unused entries are zero, each record is padded to a
multiple of 8 bytes. Which values make up a record is log entry 10: what is wider than 32 bits takes two, low part first. -/
namespace Sys2Proof.Machine

/-! ### Values and records (R379) -/

/-- A number, the V bit and the P bit of a value. -/
abbrev ImgVal := Nat × Bool × Bool

def ivNum (n : Nat) : ImgVal := (n, false, false)
def ivBool (b : Bool) : ImgVal := ivNum (b2n b)
/-- A number of up to 64 bits as two values. -/
def iv64 (n : Nat) : List ImgVal := [ivNum (n % 2 ^ 32), ivNum (n / 2 ^ 32 % 2 ^ 32)]
def ivAv (a : AV) : ImgVal := (a.v.toNat, a.valid, a.p)
/-- Something that may be absent: whether it is there, and its value. -/
def ivOpt (o : Option Nat) : List ImgVal := [ivBool o.isSome, ivNum (o.getD 0)]

/-- The values of a list, extended with zeros to `n`. -/
def ivPad (n : Nat) (l : List ImgVal) : List ImgVal := (l ++ List.replicate (n - l.length) (0, false, false)).take n

/-- Form of a record: `n` values, or `n` control words of 8 bytes (R86). -/
inductive RecForm where
  | vals (n : Nat)
  | words (n : Nat)
  deriving DecidableEq, Repr

/-- Bytes of a record of `n` values. -/
def recLen (n : Nat) : Nat := (5 * n + 7) / 8 * 8
/-- A record of `n` values. -/
def recBytes (n : Nat) (l : List ImgVal) : List Byte :=
  (ivPad n l).flatMap (fun v => toBytes 4 v.1 ++ toBytes 1 (b2n v.2.1 + 2 * b2n v.2.2)) ++ toBytes (recLen n - 5 * n) 0
/-- A record of `n` control words (R86). -/
def wordBytes (n : Nat) (l : List ImgVal) : List Byte := (ivPad n l).flatMap (fun v => toBytes 8 v.1)

def RecForm.len : RecForm → Nat
  | .vals n => recLen n
  | .words n => 8 * n
def RecForm.bytes : RecForm → List ImgVal → List Byte
  | .vals n => recBytes n
  | .words n => wordBytes n

/-- The values of a record of `n` values. -/
def readVals : Nat → List Byte → List ImgVal
  | 0, _ => []
  | n + 1, b => (ofBytes (b.take 4), bitOf (ofBytes (slice b 4 1)) 0, bitOf (ofBytes (slice b 4 1)) 1) :: readVals n (b.drop 5)

/-- The control words of a record of `n` of them. -/
def readWords : Nat → List Byte → List ImgVal
  | 0, _ => []
  | n + 1, b => ivNum (ofBytes (b.take 8)) :: readWords n (b.drop 8)
def RecForm.read : RecForm → List Byte → List ImgVal
  | .vals n => readVals n
  | .words n => readWords n

/-- The records of a section, by their forms. -/
def readRecs : List RecForm → List Byte → List (List ImgVal)
  | [], _ => []
  | n :: ns, b => n.read b :: readRecs ns (b.drop n.len)

/-- The bytes of a section. -/
def secBytes : List RecForm → List (List ImgVal) → List Byte
  | [], _ => []
  | n :: ns, [] => n.bytes [] ++ secBytes ns []
  | n :: ns, r :: rs => n.bytes r ++ secBytes ns rs

def secLen (ns : List RecForm) : Nat := (ns.map RecForm.len).sum

def valAt (l : List ImgVal) (k : Nat) : ImgVal := l.getD k (0, false, false)
def numAt (l : List ImgVal) (k : Nat) : Nat := (valAt l k).1
def boolAt (l : List ImgVal) (k : Nat) : Bool := decide (numAt l k ≠ 0)
def num64At (l : List ImgVal) (k : Nat) : Nat := numAt l k + 2 ^ 32 * numAt l (k + 1)
def avAt (l : List ImgVal) (k : Nat) : AV := ⟨BitVec.ofNat 32 (numAt l k), (valAt l k).2.1, (valAt l k).2.2⟩
def optAt (l : List ImgVal) (k : Nat) : Option Nat := if boolAt l k then some (numAt l (k + 1)) else none

/-- An outlier tile being filled, or none: four values. -/
def ivFill (o : Option OutFill) : List ImgVal :=
  match o with
  | some f => [ivBool true, ivNum f.ring, ivNum f.tile, ivNum f.count]
  | none => [ivBool false, ivNum 0, ivNum 0, ivNum 0]
def fillAt (l : List ImgVal) (k : Nat) : Option OutFill :=
  if boolAt l k then some ⟨numAt l (k + 1), numAt l (k + 2), numAt l (k + 3)⟩ else none

/-! ### ARRAY (R202) -/

/-- Forms of a PE's records: a0-a15; rotating entries and RB; k0-k7; the latch; flight registers (present, value, destination,
REM, order); load queue (present, filled, path and sign, value); store queue (present, value); control words. -/
def peLens : List RecForm := [.vals 16, .vals 33, .vals 8, .vals 1, .vals 48, .vals 24, .vals 16, .words 64]
/-- Forms of the records of the region sequencer (with SQP, the shadow's header and constants, the loop headers, HELD and sq), of the shadow's
words, and of the PEs. -/
def arrHead : List RecForm := .vals 177 :: .words 1024 :: (List.replicate 16 peLens).flatten
/-- Forms of the records of the ARRAY section: besides those, generator streams 1 to 16; the token channels; and what the model keeps besides
(strand index, program order, outlier tiles). -/
def arrLens : List RecForm := arrHead ++ [.vals 16, .vals 1, .vals 73]
/-- Offset of the token channels' value. -/
def tokOffset : Nat := secLen (arrHead ++ [.vals 16])

/-- ST as its number (R191). -/
def ASt.num : ASt → Nat
  | .idle => 0 | .run => 1 | .drain => 2 | .flush => 3
def ASt.ofNum : Nat → ASt
  | 0 => .idle | 1 => .run | 2 => .drain | _ => .flush

/-- The region sequencer's record. -/
def Strand.seqVals (t : Strand) : List ImgVal :=
  let a := t.arr
  let n := ivNum
  [n a.st.num, n a.lslot, n a.ii, n a.nstg, n a.ent, n a.row, n a.svm, n a.rb, n a.p, n a.iter, n a.trip, ivBool a.exit, n a.exitix, ivBool a.sen, n a.sch,
   n a.fch, n (a.frm + 8 * b2n a.fftz + 16 * b2n a.fdaz), ivBool a.sqp.isSome, ivAv (a.sqp.getD .zero)] ++
  (match a.shadow with
   | none => ivPad 132 []
   | some b => ivBool true :: iv64 b.hdr ++ ivBool b.consts.isSome :: ivPad 128 ((b.consts.getD []).map (fun x => n x.toNat))) ++
  (span 0 8).flatMap (fun i => let h := tblGet none t.arrx.hdrs i; ivBool h.isSome :: iv64 (h.getD 0)) ++ [ivBool t.arrx.held, ivAv t.arrx.sq]

/-- A PE's records. -/
def Pe.imgRecs (e : Pe) (rb : Nat) : List (List ImgVal) :=
  [(span 0 16).map (fun k => ivAv (tblGet .zero e.regs k)),
   (span 16 32).map (fun k => ivAv (tblGet .zero e.regs k)) ++ [ivNum rb],
   (span 0 8).map (fun k => ivNum (tblGet 0 e.k k).toNat),
   [ivAv e.latch],
   (span 0 8).flatMap (fun r => match e.flight.find? (fun f => decide (f.reg = r)) with
     | some f => [ivBool true, ivAv f.val, ivNum f.dest, ivNum f.rem] ++ iv64 f.ord
     | none => ivPad 6 []),
   e.lq.flatMap (fun x => [ivBool true, ivNum (b2n x.filled + 2 * b2n x.cp + 4 * b2n x.signed), ivAv x.val]),
   e.sq.flatMap (fun v => [ivBool true, ivAv v]),
   (span 0 64).map (fun k => ivNum (tblGet 0 e.cw k))]

/-- The ARRAY section of a strand with strand index `sidx`. -/
def Strand.arraySection (t : Strand) (sidx : Nat) : List Byte :=
  secBytes arrLens (t.seqVals :: (match t.arr.shadow with | some b => b.words.map ivNum | none => []) :: t.arrx.pes.flatMap (fun e => e.imgRecs t.arr.rb) ++
    [(span 1 16).map (fun j => ivNum (t.gen j).toNat), [ivNum t.tok],
     ivNum sidx :: iv64 t.arrx.ord ++ iv64 t.arrx.seq ++ iv64 t.seq.seq ++ iv64 t.seq.nextId ++
       t.arrx.outl.flatMap (fun f => ivFill (some f))])

/-- A PE from its records; a load that was not filled keeps what `e` holds of it. -/
def Pe.ofRecs (e : Pe) (r : List (List ImgVal)) : Pe :=
  let l := fun k => r.getD k []
  { regs := tblPutAll .zero (tblPutAll .zero [] 0 ((span 0 16).map (avAt (l 0)))) 16 ((span 0 32).map (avAt (l 1)))
    k := tblPutAll 0 [] 0 ((span 0 8).map (fun k => BitVec.ofNat 32 (numAt (l 2) k)))
    latch := avAt (l 3) 0
    flight := sortBy (fun f g => decide (f.ord ≤ g.ord)) ((span 0 8).filterMap (fun r =>
      if boolAt (l 4) (6 * r) then some ⟨r, avAt (l 4) (6 * r + 1), numAt (l 4) (6 * r + 2), numAt (l 4) (6 * r + 3), num64At (l 4) (6 * r + 4)⟩ else none))
    lq := (span 0 8).filterMap (fun j =>
      if boolAt (l 5) (3 * j) then
        let f := numAt (l 5) (3 * j + 1)
        let x : LqEnt := ⟨0, 0, bitOf f 1, true, avAt (l 5) (3 * j + 2), [], bitOf f 2, 0⟩
        if bitOf f 0 then some x else some ((e.lq[j]?).getD { x with filled := false })
      else none)
    sq := (span 0 8).filterMap (fun j => if boolAt (l 6) (2 * j) then some (avAt (l 6) (2 * j + 1)) else none)
    cw := tblPutAll 0 [] 0 ((span 0 64).map (numAt (l 7))) }

/-- The shadow of a region sequencer's record and the record of its words (R190). -/
def shadowAt (l ws : List ImgVal) : Option CtxBlock :=
  if boolAt l 19 then
    let h := num64At l 20
    some ⟨h, if boolAt l 22 then some ((span 0 128).map (fun k => BitVec.ofNat 32 (numAt l (23 + k)))) else none,
      (span 0 (16 * (bitsOf h 0 6 + 1))).map (numAt ws)⟩
  else none

/-- A word of an image: `nop` if it fails a check of R91 with the words of its row (log entry 46). -/
def cleanWord (a : Allot) (row : List Nat) (w : Nat) : Nat := if cwBad a.nrg a.tkn w (row.map Cw.of) then 0 else w

/-- The words of an image's window and shadow enter checked: the array executes no word that fails a check (R91). -/
def Strand.cleanWindow (t : Strand) : Strand :=
  let row := fun (e : Nat) => t.arrx.pes.map (fun q => tblGet 0 q.cw e)
  let t := t.mapArrX (fun a => { a with pes := a.pes.map (fun q => { q with cw := q.cw.map (fun e => (e.1, cleanWord t.allot (row e.1) e.2)) }) })
  t.mapArr (fun a => { a with shadow := a.shadow.map (fun b =>
    let ii := hdrIi b.hdr
    { b with words := (span 0 b.words.length).map (fun k =>
        cleanWord t.allot ((span 0 16).map (fun p => b.words.getD (ii * p + k % ii) 0)) (b.words.getD k 0)) }) })

/-- The state of an ARRAY section goes into a strand; words that fail the checks of R91 enter the window and the shadow as `nop`. -/
def Strand.ofArray (t : Strand) (b : List Byte) : Strand :=
  let r := readRecs arrLens b
  let l := r.getD 0 []
  let n := numAt l
  let x := r.getD 132 []
  let pes := (span 0 16).map (fun p => (t.arrx.pes.getD p .fresh).ofRecs (slice r (2 + 8 * p) 8))
  let u := { t with
    tok := numAt (r.getD 131 []) 0
    arr :=
      { st := .ofNum (n 0), lslot := n 1, ii := n 2, nstg := n 3, ent := n 4, row := n 5, svm := n 6, rb := n 7, p := n 8, iter := n 9, trip := n 10,
        exit := boolAt l 11, exitix := n 12, sen := boolAt l 13, sch := n 14, fch := n 15, frm := n 16 % 8, fftz := bitOf (n 16) 3, fdaz := bitOf (n 16) 4,
        sqp := if boolAt l 17 then some (avAt l 18) else none, shadow := shadowAt l (r.getD 1 []) }
    arrx := { t.arrx with
      hdrs := tblPutAll none [] 0 ((span 0 8).map (fun i => if boolAt l (151 + 3 * i) then some (num64At l (152 + 3 * i)) else none))
      held := boolAt l 175
      sq := avAt l 176
      pes := pes
      await := false
      parked := none
      outl := (span 0 16).filterMap (fun i => fillAt x (9 + 4 * i))
      ord := num64At x 1
      seq := num64At x 3 }
    seq := { t.seq with
      seq := num64At x 5
      nextId := num64At x 7
      gens := (span 1 16).foldl (fun g j => tblInsert g j (BitVec.ofNat 32 (numAt (r.getD 130 []) (j - 1)))) t.seq.gens } }
  u.cleanWindow

/-! ### MATRIX (R259) -/

/-- Forms of the records: the accumulators; the sub-queue; the head entry; generator stream 17. -/
def mxLens : List RecForm := [.vals 2048, .vals (16 * 33), .vals 12, .vals 1]

/-- A command as a number and its operands. -/
def MxCmd.args : MxCmd → Nat × List Nat
  | .step fmt rna rnb acb acn shape pa pb blk sfmt fresh rep isat => (1, [fmt, rna, rnb, acb, acn, shape, pa, pb, blk, sfmt, b2n fresh, rep, b2n isat])
  | .zero acb n => (2, [acb, n])
  | .ld rs acb n lf => (3, [rs, acb, n, lf])
  | .st rd acb n ak dfmt ts ore tsa tsb tsp rm ftz daz =>
    (4, [rd, acb, n, ak, dfmt, ts, match ore with | some o => o + 1 | none => 0, tsa, tsb, b2n tsp, rm, b2n ftz, b2n daz])
  | .mov src dst tr => (5, [src, dst, b2n tr])

/-- The command of a number and operands; 0 names none. -/
def MxCmd.ofArgs (c : Nat) (a : Nat → Nat) : Option MxCmd :=
  let b := fun k => decide (a k ≠ 0)
  match c with
  | 1 => some (.step (a 0) (a 1) (a 2) (a 3) (a 4) (a 5) (a 6) (a 7) (a 8) (a 9) (b 10) (a 11) (b 12))
  | 2 => some (.zero (a 0) (a 1))
  | 3 => some (.ld (a 0) (a 1) (a 2) (a 3))
  | 4 => some (.st (a 0) (a 1) (a 2) (a 3) (a 4) (a 5) (if a 6 = 0 then none else some (a 6 - 1)) (a 7) (a 8) (b 9) (a 10) (b 11) (b 12))
  | 5 => some (.mov (a 0) (a 1) (b 2))
  | _ => none

/-- The MATRIX section of a strand. V of an accumulator element says that its parity has failed. -/
def Strand.matrixSection (t : Strand) : List Byte :=
  let q := t.mx.queue
  secBytes mxLens
    [(span 0 2048).map (fun k => let e := tblGet .zero t.mx.acc k; (e.v.toNat, e.bad, e.p)),
     q.flatMap (fun e => ivPad 33 (ivNum e.cmd.args.1 :: ivPad 28 (e.cmd.args.2.flatMap iv64) ++ iv64 e.arr ++ iv64 e.seq)),
     (match q with
      | e :: _ => iv64 e.done ++ [ivNum e.status] ++ ivOpt e.tile ++ ivFill e.outl ++ [ivBool e.last, ivBool t.mx.held]
      | [] => ivPad 10 [] ++ [ivBool t.mx.held]),
     [ivNum (t.gen 17).toNat]]

/-- The state of a MATRIX section goes into a strand. -/
def Strand.ofMatrix (t : Strand) (b : List Byte) : Strand :=
  let r := readRecs mxLens b
  let q := r.getD 1 []
  let h := r.getD 2 []
  let es := (span 0 16).filterMap (fun i =>
    (MxCmd.ofArgs (numAt q (33 * i)) (fun k => num64At q (33 * i + 1 + 2 * k))).map (fun c =>
      (⟨num64At q (33 * i + 31), c, num64At q (33 * i + 29), 0, 0, none, none, false⟩ : MxEnt)))
  let head := fun (e : MxEnt) => { e with done := num64At h 0, status := numAt h 2, tile := optAt h 3, outl := fillAt h 5, last := boolAt h 9 }
  { t with
    mx :=
      { acc := tblPutAll .zero [] 0 ((r.getD 0 []).map (fun v => (⟨BitVec.ofNat 32 v.1, v.2.2, v.2.1⟩ : AccEl)))
        queue := modAt head es 0
        held := boolAt h 10 }
    seq := { t.seq with gens := tblInsert t.seq.gens 17 (BitVec.ofNat 32 (numAt (r.getD 3 []) 0)) } }

/-! ### STREAM (R302) -/

/-- Forms of the records: the command queue, with the current command's progress; the address-generator tiles; the ring descriptors with their
reserved tiles; the tensor slots; posted receives, overflow entries, MSGCTL and MSGOVF; generator stream 18, whose turn it is, and the causes that
engines have raised and the trap hold has not taken (R158). -/
def strLens : List RecForm := [.vals (16 * 152 + 12), .vals (4 * 34), .vals (16 * 261), .vals (64 * 16), .vals (322 + 32 * 517 + 4), .vals (2 + 8 * 5)]

/-- A command as a number and its operands. The targets of a `send` stand apart. -/
def SCmd.args : SCmd → Nat × List Nat
  | .copy dst src len => (1, [dst, src, len])
  | .gath dst src ix cnt les => (2, [dst, src, ix, cnt, les])
  | .scat dst src ix cnt les => (3, [dst, src, ix, cnt, les])
  | .ringld src rg n ag => (4, [src, rg, n, match ag with | some a => a + 1 | none => 0])
  | .ringst dst rg n ag => (5, [dst, rg, n, match ag with | some a => a + 1 | none => 0])
  | .tsload addr slot => (6, [addr, slot])
  | .deliv target src len dst => (7, [target, src, len, dst])
  | .cvcopy dst src n sf df ore => (8, [dst, src, n, sf, df, match ore with | some o => o + 1 | none => 0])
  | .send id src len tag _ => (9, [id, src, len, tag])

/-- The targets of a `send`. -/
def SCmd.goals : SCmd → List Nat
  | .send _ _ _ _ ts => ts
  | _ => []

/-- The command of a number, operands and targets; 0 names none. -/
def SCmd.ofArgs (c : Nat) (a : Nat → Nat) (ts : List Nat) : Option SCmd :=
  let o := fun k => if a k = 0 then none else some (a k - 1)
  match c with
  | 1 => some (.copy (a 0) (a 1) (a 2))
  | 2 => some (.gath (a 0) (a 1) (a 2) (a 3) (a 4))
  | 3 => some (.scat (a 0) (a 1) (a 2) (a 3) (a 4))
  | 4 => some (.ringld (a 0) (a 1) (a 2) (o 3))
  | 5 => some (.ringst (a 0) (a 1) (a 2) (o 3))
  | 6 => some (.tsload (a 0) (a 1))
  | 7 => some (.deliv (a 0) (a 1) (a 2) (a 3))
  | 8 => some (.cvcopy (a 0) (a 1) (a 2) (a 3) (a 4) (o 5))
  | 9 => some (.send (a 0) (a 1) (a 2) (a 3) ts)
  | _ => none

/-- The entry of the load table that a `send` of the queue will answer (R296): destination, address, targets left, status, order. -/
def Strand.sendAcc (t : Strand) (c : SCmd) : List ImgVal :=
  match c with
  | .send id _ _ _ _ =>
    (match t.seq.loads.find? (fun a => decide (a.id = id)) with
     | some a => (match a.kind with
       | .send left st => ivNum a.dest :: iv64 a.va ++ [ivNum left, ivNum st]
       | _ => ivPad 5 [])
     | none => ivPad 5 [])
  | _ => ivPad 5 []

/-- An entry of the command queue: 152 values. -/
def Strand.cmdVals (t : Strand) (e : SEnt) : List ImgVal :=
  ivPad 152 (ivNum e.cmd.args.1 :: ivPad 12 (e.cmd.args.2.flatMap iv64) ++ iv64 e.arr ++ [ivNum (e.rm + 8 * b2n e.ftz + 16 * b2n e.daz)] ++ iv64 e.seq ++
    t.sendAcc e.cmd ++ ivNum e.cmd.goals.length :: e.cmd.goals.map ivNum)

/-- An address-generator tile: 34 values. -/
def Ag.vals (g : Ag) : List ImgVal :=
  let run := match g.run with | .stopped => 0 | .token => 1 | .running => 2
  [ivNum (b2n g.conf + 2 * b2n g.ten + 4 * b2n g.bind + 8 * b2n g.sq + 16 * b2n g.fen + 32 * b2n g.stop), ivNum g.les, ivNum g.tslot, ivNum g.pe] ++
  iv64 g.base ++ (span 0 4).flatMap (fun i => iv64 (g.n.getD i 1)) ++ (span 0 4).flatMap (fun i => iv64 (g.s.getD i 0)) ++ iv64 g.pos ++
  [ivNum run, ivNum g.sch, ivNum g.fch] ++ iv64 g.seq
def agOfVals (l : List ImgVal) (k : Nat) : Ag :=
  let f := numAt l k
  { conf := bitOf f 0, ten := bitOf f 1, bind := bitOf f 2, sq := bitOf f 3, fen := bitOf f 4, stop := bitOf f 5, les := numAt l (k + 1), tslot := numAt l (k + 2),
    pe := numAt l (k + 3), base := num64At l (k + 4), n := (span 0 4).map (fun i => num64At l (k + 6 + 2 * i)),
    s := (span 0 4).map (fun i => num64At l (k + 14 + 2 * i)), pos := num64At l (k + 22),
    run := (match numAt l (k + 24) with | 0 => .stopped | 1 => .token | _ => .running), sch := numAt l (k + 25), fch := numAt l (k + 26),
    seq := num64At l (k + 27), parked := none }

/-- A ring descriptor and its reserved tiles, by number with their marks (written in V, landed in P): 261 values. -/
def Ring.vals (r : Ring) : List ImgVal :=
  iv64 (r.word % 2 ^ 64) ++ iv64 (r.word / 2 ^ 64) ++ ivNum r.resv.length :: ivPad 256 (r.resv.map (fun x => (x.tile, x.written, x.landed)))
def ringOfVals (l : List ImgVal) (k : Nat) : Ring :=
  { Ring.ofWord (num64At l k + 2 ^ 64 * num64At l (k + 2)) with
    resv := (span 0 (min 256 (numAt l (k + 4)))).map (fun i => let v := valAt l (k + 5 + i); (⟨v.1, v.2.1, v.2.2⟩ : Resv)) }

/-- A tensor slot: 16 values. Its tile-table cache is dropped. -/
def tensorVals (x : Option Tensor) : List ImgVal :=
  match x with
  | none => ivPad 16 []
  | some x => ivBool true :: iv64 x.tbl ++ (span 0 4).map (fun d => ivNum (x.e.getD d 1)) ++ (span 0 4).map (fun d => ivNum (x.t.getD d 1)) ++
      [ivNum x.layout, ivNum x.les, ivNum x.ndim] ++ iv64 x.addr
def tensorOfVals (l : List ImgVal) (k : Nat) : Option Tensor :=
  if boolAt l k then
    some ⟨num64At l (k + 14), num64At l (k + 1), (span 0 4).map (fun d => numAt l (k + 3 + d)), (span 0 4).map (fun d => numAt l (k + 7 + d)), numAt l (k + 11), numAt l (k + 12),
      numAt l (k + 13), []⟩
  else none

/-- A posted receive (10 values) and an overflow entry (517 values). -/
def Recv.vals (r : Recv) : List ImgVal :=
  [ivNum r.handle, ivNum r.buf, ivNum r.obj, ivNum r.tag, ivNum r.mask, ivBool r.src.isSome, ivNum (r.src.getD (0, 0)).1, ivNum (r.src.getD (0, 0)).2, ivNum r.blen, ivNum 0]
def recvOfVals (l : List ImgVal) (k : Nat) : Recv :=
  ⟨numAt l k, numAt l (k + 1), numAt l (k + 2), numAt l (k + 3), numAt l (k + 4), if boolAt l (k + 5) then some (numAt l (k + 6), numAt l (k + 7)) else none, numAt l (k + 8)⟩
def Ovf.vals (o : Ovf) : List ImgVal :=
  [ivNum o.num, ivNum o.sx, ivNum o.sy, ivNum o.tag, ivNum o.data.length] ++ ivPad 512 (o.data.map (fun b => (b.1.toNat, false, b.2)))
def ovfOfVals (l : List ImgVal) : Ovf :=
  ⟨numAt l 0, numAt l 1, numAt l 2, numAt l 3, ((l.drop 5).take (numAt l 4)).map (fun v => (BitVec.ofNat 8 v.1, v.2.2))⟩

/-- A cause that an engine has raised: 5 values, SRC 0 where there is none. -/
def ETrap.vals (c : ETrap) : List ImgVal := [ivNum c.src, ivNum c.cause, ivNum c.detail] ++ iv64 c.val
def trapOfVals (l : List ImgVal) : Option ETrap := if numAt l 0 = 0 then none else some ⟨numAt l 1, numAt l 0, numAt l 2, num64At l 3⟩

/-- The STREAM section of a strand. -/
def Strand.streamSection (t : Strand) : List Byte :=
  let q := t.str.queue
  let cur : List ImgVal := match q with
    | e :: _ => iv64 e.done ++ [ivNum e.status] ++ ivOpt e.tile ++ iv64 e.tdone ++ ivFill e.outl ++ [ivNum e.flying]
    | [] => []
  secBytes strLens
    [ivPad (16 * 152) (q.flatMap t.cmdVals) ++ cur,
     (span 0 4).flatMap (fun a => ivPad 34 (tblGet Ag.off t.str.ags a).vals),
     (span 0 16).flatMap (fun n => (tblGet Ring.none t.str.rings n).vals),
     (span 0 64).flatMap (fun n => tensorVals (tblGet none t.str.tensors n)),
     ivNum t.str.posts.length :: ivNum t.str.ovfs.length :: ivPad 320 (t.str.posts.flatMap Recv.vals) ++ ivPad (32 * 517) (t.str.ovfs.flatMap Ovf.vals) ++
       iv64 t.msgctl ++ iv64 t.msgovf,
     ivNum (t.gen 18).toNat :: ivNum t.str.turn :: (t.seq.trap.raised.take 8).flatMap ETrap.vals]

/-- Pieces of `n` values of a list. -/
def piecesOf (n : Nat) : Nat → List ImgVal → List (List ImgVal)
  | 0, _ => []
  | k + 1, l => l.take n :: piecesOf n k (l.drop n)

/-- A queue entry from its 152 values. -/
def cmdOfVals (l : List ImgVal) : Option SEnt :=
  (SCmd.ofArgs (numAt l 0) (fun k => num64At l (1 + 2 * k)) ((span 0 (min 128 (numAt l 23))).map (fun i => numAt l (24 + i)))).map (fun c =>
    ⟨num64At l 16, c, num64At l 13, 0, 0, numAt l 15 % 8, bitOf (numAt l 15) 3, bitOf (numAt l 15) 4, none, 0, none, 0, none⟩)

/-- The load-table entry of a queued `send`, from its 152 values. -/
def sendAccOf (l : List ImgVal) : Option Acc :=
  match cmdOfVals l with
  | some e => (match e.cmd with
    | .send id _ _ _ _ => some ⟨id, e.seq, numAt l 18, num64At l 19, .send (numAt l 21) (numAt l 22), [], false, false⟩
    | _ => none)
  | none => none

/-- The state of a STREAM section goes into a strand; an entry of the load table that a queued `send` needs is made if it is not there. -/
def Strand.ofStream (t : Strand) (b : List Byte) : Strand :=
  let r := readRecs strLens b
  let c := r.getD 0 []
  let qs := piecesOf 152 16 c
  let u := c.drop (16 * 152)
  let head := fun (e : SEnt) => { e with done := num64At u 0, status := numAt u 2, tile := optAt u 3, tdone := num64At u 5, outl := fillAt u 7, flying := numAt u 11 }
  let ms := r.getD 4 []
  let ovf := num64At ms (322 + 32 * 517 + 2)
  let accs := (qs.filterMap sendAccOf).filter (fun a => !t.seq.loads.any (fun x => decide (x.id = a.id)))
  { t with
    str := { t.str with
      queue := modAt head (qs.filterMap cmdOfVals) 0
      ags := tblPutAll Ag.off [] 0 ((span 0 4).map (fun a => agOfVals (r.getD 1 []) (34 * a)))
      rings := tblPutAll Ring.none [] 0 ((piecesOf 261 16 (r.getD 2 [])).map (fun l => ringOfVals l 0))
      tensors := tblPutAll none [] 0 ((piecesOf 16 64 (r.getD 3 [])).map (fun l => tensorOfVals l 0))
      posts := (span 0 (min 32 (numAt ms 0))).map (fun i => recvOfVals ms (2 + 10 * i))
      ovfs := (piecesOf 517 (min 32 (numAt ms 1)) (ms.drop 322)).map ovfOfVals
      turn := numAt (r.getD 5 []) 1 }
    seq := { t.seq with
      loads := t.seq.loads ++ accs
      ctl :=
        { t.seq.ctl with notrap := bitOf (num64At ms (322 + 32 * 517)) 0, ltag := bitsOf ovf 48 16, ly := bitsOf ovf 40 8, lx := bitsOf ovf 32 8,
                         dcnt := bitsOf ovf 8 8, drop := bitOf ovf 0 }
      trap := { t.seq.trap with raised := (piecesOf 5 8 ((r.getD 5 []).drop 2)).filterMap trapOfVals }
      gpend := accs.foldl (fun g a => if a.dest = 0 then g else tblPut false g a.dest true) t.seq.gpend
      gens := tblInsert t.seq.gens 18 (BitVec.ofNat 32 (numAt (r.getD 5 []) 0)) } }

end Sys2Proof.Machine
end

