-- ==== Sys2Proof/Machine/Place.lean ====
section
/-! DEFINITION. Images, placement and the start of instances (R11, R37, R38, R371-R374, R378-R384, R404), LAUNCH and LAUNCH_PLACE; the save
of a strand (R40-R43, R382-R385) and its restore (R203, R303, R384). -/
namespace Sys2Proof.Machine

/-! ### Banks (R11, R384, R404) -/

/-- Whether key slot `k` is reserved or held against a launch or restore in a partition with a footprint (R404): its context's own launch is
let through while the slot is IDLE or LOADED. -/
def Mem.keyAgainst (m : Mem) (p ox oy logw logh k : Nat) : Bool :=
  let c := cfgGet m.cfg (offPctx k)
  let own := decide (bitsOf c 24 4 = p) && decide (bitsOf c 0 8 = ox) && decide (bitsOf c 8 8 = oy) && decide (bitsOf c 16 3 = logw) && decide (bitsOf c 20 2 = logh)
  let st := bitsOf (cfgGet m.cfg (offKstat k)) 0 2
  decide (2 ≤ st) || (bitOf c 63 && !own)

/-- Whether a core lies in the footprint of key slot `k`. -/
def Mem.keyCore (m : Mem) (k core : Nat) : Bool :=
  let c := cfgGet m.cfg (offPctx k)
  bitOf c 63 && decide (bitsOf c 0 8 ≤ coreX core) && decide (coreX core < bitsOf c 0 8 + 2 ^ bitsOf c 16 3) &&
  decide (bitsOf c 8 8 ≤ coreY core) && decide (coreY core < bitsOf c 8 8 + 2 ^ bitsOf c 20 2)

/-- Whether a bank is listed by key slot `k`. -/
def Mem.keyBank (m : Mem) (k b : Nat) : Bool :=
  (span 0 (bitsOf (cfgGet m.cfg (offPctx k)) 32 5)).any (fun j => decide (bitsOf (cfgGet m.cfg (offPcbank k j)) 0 14 = b))

/-- A launch or restore as the placer sees it (R38): partition, size, pattern; the instance whose pages count as free (R39); a fixed origin. -/
structure Spot where
  part : Nat
  logw : Nat
  logh : Nat
  pat : Nat
  own : Option Nat
  fixed : Option (Nat × Nat)
  deriving DecidableEq, Repr

/-- What the launch's strand at a linear position needs (R38): its allotment, its strand index if it must keep one, banks to attach, posted
receives and overflow entries. -/
structure Need where
  lin : Nat
  allot : Allot
  sidx : Option Nat
  banks : Nat
  posts : Nat
  ovfs : Nat
  deriving DecidableEq, Repr

/-- Strands other than those of the instance whose pages count as free. -/
def State.others (s : State) (own : Option Nat) : List (Nat × Strand) := s.strands.filter (fun e => decide (own ≠ some e.2.kinst))

/-- Whether a bank of a hatch group may be taken by a launch (R11): free, or held for a saved image; not withheld. -/
def State.bankOpen (s : State) (x : Spot) (ox oy b : Nat) : Bool :=
  !((s.others x.own).any (fun e => e.2.seq.slots.any (fun sl => decide (sl.bank = some b)))) &&
  !((span 0 32).any (fun k => s.mem.keyAgainst x.part ox oy x.logw x.logh k && s.mem.keyBank k b))

/-- Banks of a hatch group in the order in which a core takes them (R11): first those at home in the core. -/
def bankOrder (core : Nat) : List Nat :=
  let base := 64 * groupOf core
  let c := coreInGroup core
  span (base + 8 * c) 8 ++ (span base 64).filter (fun b => decide (b < base + 8 * c) || decide (base + 8 * c + 8 ≤ b))

/-- Whether a bank is held for a saved image (R384). -/
def State.bankHeld (s : State) (b : Nat) : Bool := s.saved.any (fun v => v.banks.any (fun y => decide (y.2.2 = some b)))

/-! ### Physical slots (R11; log entry 45) -/

/-- The physical slot at which a bank is at home: 16 for each core. -/
def bankHome (b : Nat) : Nat := 16 * groupCore (b / 64) (b % 64 / 8) + b % 8
/-- The physical slots of a hatch group, in order. -/
def groupSlots (h : Nat) : List Nat := (span 0 8).flatMap (fun c => span (16 * groupCore h c) 16)

/-- The physical slot that a bank stands at, and whether it was in use when it last settled. -/
def State.placeOf (s : State) (b : Nat) : Nat × Bool := (tblFind s.places b).getD (bankHome b, false)
def State.putPlace (s : State) (b p : Nat) (used : Bool) : State :=
  { s with places := if p = bankHome b ∧ used = false then tblErase s.places b else tblInsert s.places b (p, used) }

/-- The lowest of a list of physical slots that no bank but `b` stands at. -/
def State.emptySlot (s : State) (b : Nat) (l : List Nat) : Option Nat :=
  l.find? (fun p => !((span (b / 64 * 64) 64).any (fun x => decide (x ≠ b) && decide ((s.placeOf x).1 = p))))

/-- The core of the strand to which a bank is attached. -/
def State.attachedAt (s : State) (b : Nat) : Option Nat :=
  (s.strands.find? (fun e => e.2.seq.slots.any (fun sl => decide (sl.bank = some b)))).map (fun e => coreOfSn e.1)

/-- Whether a detached bank is not free (R11): held for a saved image, or withheld by a key slot. -/
def State.bankKept (s : State) (b : Nat) : Bool :=
  s.bankHeld b || (span 0 32).any (fun k =>
    (decide (2 ≤ bitsOf (cfgGet s.mem.cfg (offKstat k)) 0 2) || bitOf (cfgGet s.mem.cfg (offPctx k)) 63) && s.mem.keyBank k b)

/-- A bank comes to its physical slot (R11). One that is attached stands at a slot of the core; where it stands elsewhere, at the lowest empty one, or it
changes places with a free bank of the core (DESIGN CHOICE, log entry 45). One that is held or withheld stays. One that becomes free rests at its home,
or, where that slot is occupied, at the lowest empty slot of the group. -/
def State.settleBank (s : State) (b : Nat) : State :=
  let h := b / 64
  let (p, used) := s.placeOf b
  match s.attachedAt b with
  | some c =>
    if p / 16 = c then s.putPlace b p true
    else match s.emptySlot b (span (16 * c) 16) with
      | some q => s.putPlace b q true
      | none =>
        match (span (64 * h) 64).find? (fun x => decide ((s.placeOf x).1 / 16 = c) && !(s.placeOf x).2) with
        | some x => (s.putPlace x p false).putPlace b (s.placeOf x).1 true
        | none => s.putPlace b p true
  | none =>
    if s.bankKept b then s.putPlace b p true
    else if used then s.putPlace b ((s.emptySlot b [bankHome b]).getD ((s.emptySlot b (groupSlots h)).getD p)) false
    else s

/-- The banks come to their physical slots after what a ck has changed (R11): those that become free, then those that are attached. -/
def State.settle (s : State) : State :=
  let att := s.strands.flatMap (fun e => e.2.seq.slots.filterMap (·.bank))
  (((s.places.map (·.1)).filter (fun b => !(att.any (fun x => decide (x = b))))) ++ att).foldl State.settleBank s

/-! ### Candidates (R22, R37, R38) -/

/-- The positions of a footprint, with their cores. -/
def spotCores (x : Spot) (ox oy : Nat) : List (Nat × Nat) :=
  (span 0 (2 ^ x.logh)).flatMap (fun dy => (span 0 (2 ^ x.logw)).map (fun dx => (dy * 2 ^ x.logw + dx, coreAt (ox + dx) (oy + dy))))

/-- Whether a pattern holds at an origin (R37). -/
def patternAt (x : Spot) (ox oy : Nat) : Bool :=
  (!bitOf x.pat 0 || (decide (ox % 4 = 0) && decide (oy % 2 = 0))) &&
  (!bitOf x.pat 1 || (spotCores x ox oy).any (fun c =>
    let d := dieOf c.2
    decide (coreX c.2 % 16 = if d % 2 = 0 then 0 else 15) && decide (coreY c.2 % 24 / 12 = b2n (bitOf x.pat 2))))

/-- The origins of a partition for a footprint, in row-major order (R22, R38). -/
def origins (x : Spot) : List (Nat × Nat) :=
  (span 0 (8 / 2 ^ x.logh)).flatMap (fun j => (span 0 (16 / 2 ^ x.logw)).map (fun i => (partX x.part + i * 2 ^ x.logw, partY x.part + j * 2 ^ x.logh)))

/-- Whether a pattern can never hold in the partition (R38). -/
def neverHolds (x : Spot) : Bool := !((origins x).any (fun o => patternAt x o.1 o.2)) || (bitOf x.pat 2 && !bitOf x.pat 1)

/-- Whether a core has room for a strand (R38, R373): an index, and every resource of the occupancy map. -/
def roomFor (ts : List (Nat × Strand)) (n : Need) : Bool :=
  let sum := fun (f : Strand → Nat) => (ts.map (fun e => f e.2)).sum
  (match n.sidx with
   | some i => !(ts.any (fun e => decide (sidxOf e.1 = i)))
   | none => decide (ts.length < 4)) &&
  decide (sum (·.allot.share) + n.allot.share ≤ 16) && decide (sum (·.allot.cwn) + n.allot.cwn ≤ 64) && decide (sum (·.allot.nsl) + n.allot.nsl ≤ 16) &&
  decide (sum (·.allot.nrg) + n.allot.nrg ≤ 16) && decide (sum (·.allot.tkn) + n.allot.tkn ≤ 16) && decide (sum (·.allot.nag) + n.allot.nag ≤ 4) &&
  decide (sum (·.str.posts.length) + n.posts ≤ 32) && decide (sum (·.str.ovfs.length) + n.ovfs ≤ 32)

/-- Whether a launch fits at an origin (R38). -/
def State.fitsAt (s : State) (x : Spot) (needs : List Need) (ox oy : Nat) : Bool :=
  let cores := spotCores x ox oy
  let here := needs.filterMap (fun n => (cores.find? (fun c => decide (c.1 = n.lin))).map (fun c => (c.2, n)))
  let others := s.others x.own
  patternAt x ox oy &&
  cores.all (fun c => !((span 0 32).any (fun k => s.mem.keyAgainst x.part ox oy x.logw x.logh k && s.mem.keyCore k c.2))) &&
  here.all (fun c => roomFor (others.filter (fun e => decide (coreOfSn e.1 = c.1))) c.2) &&
  ((here.map (fun c => groupOf c.1)).eraseDups).all (fun h =>
    decide (((here.filter (fun c => decide (groupOf c.1 = h))).map (fun c => c.2.banks)).sum ≤ (span (64 * h) 64).countP (s.bankOpen x ox oy)))

/-- The first candidate position (R38). -/
def State.candidate (s : State) (x : Spot) (needs : List Need) : Option (Nat × Nat) :=
  match x.fixed with
  | some o => if s.fitsAt x needs o.1 o.2 then some o else none
  | none => (origins x).find? (fun o => s.fitsAt x needs o.1 o.2)

/-! ### Images (R378-R381) -/

/-- Bytes at virtual addresses of a partition with their poison (R337, R378): none where a page has no readable leaf, or a malformed backing entry. -/
def State.readVaGo : Nat → State → Nat → Nat → Nat → Option (List PB)
  | 0, _, _, _, _ => some []
  | k + 1, s, p, va, n =>
    if n = 0 then some []
    else
      let c := min n (4096 - va % 4096)
      match s.mem.leafAt p va with
      | none => none
      | some (_, e, lvl) =>
        let l : Leaf := ⟨e, lvl⟩
        let held := fun (a : Nat) => s.mem.findUnb (homeSlice l.hdie (bitsOf a 7 32)) p a
        if l.r = false || (l.ub && (held va).isNone && backingBad (s.mem.peek64 (backingEntry (bitsOf e 12 27 * 4096) va l.bits))) then none
        else
          let bytes : List PB :=
            if l.loc ≠ 0 then s.extRead l.loc (bitsOf e 12 46 * 4096 + bitsOf va 0 l.bits) c
            else match s.mem.frameOf p l va with
              | some pa => if s.mem.keyBars p pa then pbOf c 0 false else s.mem.peek pa c
              | none => (span va c).map (fun a => (held a).elim (0, false) (fun k => k.data.getD (a % 128) (0, false)))
          (State.readVaGo k s p ((va + c) % 2 ^ 64) (n - c)).map (fun r => bytes ++ r)
def State.readVaPB (s : State) (p va n : Nat) : Option (List PB) := State.readVaGo (n / 4096 + 2) s p va n
/-- The bytes alone. -/
def State.readVa (s : State) (p va n : Nat) : Option (List Byte) := (s.readVaPB p va n).map pbBytes

/-- The device reads a range inside a page, line by line: at the home slices, which fill the lines if `fill` (R370), or as forwarded lines, which are
counted (R349); none while a read waits. -/
def State.touchPage (s : State) (fill : Bool) (p va n : Nat) (l : Leaf) : Option State :=
  (pieces n va n 128).foldlM (fun (s : State) x =>
    match l.place x.1 with
    | .fwd _ _ v => some (s.modMem (fun m => m.countLine p v false))
    | .frame pa =>
      if fill then (match s.mem.physAcc (ownWho p) .read pa x.2 id with | .ok _ m => some (s.setMem m) | _ => none)
      else (s.mem.ownRead p pa x.2).map (fun r => s.setMem r.2)
    | pl =>
      match s.mem.at s.clock (ownWho p) .read pl x.2 id with
      | .ok _ m => some (s.setMem m)
      | .badBacking _ m => some (s.setMem m)
      | _ => none) s

/-- The state after the device has made a read of virtual addresses: its walks and its accesses (R343, R345, R402); none while one waits. -/
def State.touchVaGo (fill : Bool) : Nat → State → Nat → Nat → Nat → Option State
  | 0, s, _, _, _ => some s
  | k + 1, s, p, va, n =>
    if n = 0 then some s
    else
      let c := min n (4096 - va % 4096)
      match s.mem.doWalk p va with
      | ((.wait, _), _) => none
      | ((.leaf e lvl, _), m) =>
        let l : Leaf := ⟨e, lvl⟩
        if l.r then ((s.setMem m).touchPage fill p va c l).bind (fun s => State.touchVaGo fill k s p ((va + c) % 2 ^ 64) (n - c))
        else some (s.setMem m)
      | (_, m) => some (s.setMem m)
def State.touchVa (s : State) (p va n : Nat) : Option State := State.touchVaGo false (n / 4096 + 2) s p va n

/-- An entry of an image's directory (R378). -/
structure Sect where
  kind : Nat
  lin : Nat
  slot : Nat
  len : Nat
  off : Nat
  deriving DecidableEq, Repr

/-- An image's header and directory (R378). -/
structure Image where
  kind : Nat
  logw : Nat
  logh : Nat
  pat : Nat
  wheel : Nat
  flg : Nat
  aopset : Nat
  kinst : Nat
  secs : List Sect
  deriving DecidableEq, Repr

/-- Whether a directory entry is sound (R378, R379). -/
def Sect.ok (kind logw logh : Nat) (x : Sect) : Bool :=
  decide (x.lin < 2 ^ (logw + logh)) && decide (x.off % 64 = 0) &&
  (if x.kind = 2 then decide (x.slot < 16) && decide (x.len ≤ 65536) else if x.kind = 0x14 then decide (x.slot < 16) && decide (x.len = 73728) else decide (x.slot = 0)) &&
  (if kind = 1 then decide (1 ≤ x.kind) && decide (x.kind ≤ 4) else decide (x.kind = 3) || (decide (0x10 ≤ x.kind) && decide (x.kind ≤ 0x14)))

/-- Read the image at IMG (R378): none for a bad header or directory. Reserved bytes are ignored (R4). DESIGN CHOICE (log entry 46): a header whose
FLG[7:2] or PAT[7:3] is not zero is a bad one. -/
def State.image (s : State) (p img : Nat) : Option Image :=
  match s.readVa p img 256 with
  | none => none
  | some h =>
    let n := fld h 12 4
    if 16384 < n then none
    else match s.readVa p ((img + 256) % 2 ^ 64) (16 * n) with
      | none => none
      | some d =>
        let secs := (span 0 n).map (fun i => (⟨fld d (16 * i) 2, fld d (16 * i + 2) 1, fld d (16 * i + 3) 1, fld d (16 * i + 4) 4, fld d (16 * i + 8) 8⟩ : Sect))
        let im : Image := ⟨fld h 0 1, fld h 1 1, fld h 2 1, fld h 3 1, fld h 4 1, fld h 5 1, fld h 8 4, fld h 16 8, secs⟩
        if (decide (im.kind = 1) || decide (im.kind = 2)) && decide (im.logw ≤ 4) && decide (im.logh ≤ 3) && decide (im.pat < 8) && decide (im.wheel ≤ 16) &&
           decide (im.flg < 4) && (decide (im.kind = 2) || decide (im.kinst = 0)) && secs.all (Sect.ok im.kind im.logw im.logh) &&
           (span 0 (2 ^ (im.logw + im.logh))).all (fun l =>
              (if im.kind = 1 then [1, 3] else [3, 0x10, 0x11, 0x12, 0x13]).all (fun k => secs.any (fun x => decide (x.kind = k) && decide (x.lin = l)))) then some im
        else none

/-- The state after the device has read an image's header, directory and ALLOT sections (R380, R381); none while a read waits. -/
def State.touchHead (s : State) (p img : Nat) : Option State :=
  match s.image p img with
  | none => s.touchVa p img 256
  | some im => do
    let s ← s.touchVa p img (256 + 16 * im.secs.length)
    (im.secs.filter (fun x => decide (x.kind = 3))).foldlM (fun s x => s.touchVa p ((img + x.off) % 2 ^ 64) 800) s

/-- The state after the device has read the sections of an image that a start or a restore loads (R379, R380). -/
def State.touchSecs (s : State) (p img : Nat) (im : Image) : Option State :=
  (im.secs.filter (fun x => decide (x.kind ≠ 1))).foldlM (fun s x => s.touchVa p ((img + x.off) % 2 ^ 64) x.len) s

/-- What a strand's ALLOT section gives (R379; log entry 10): its allotment, initial ring descriptors, tensor-slot descriptor addresses. -/
structure AllotSec where
  allot : Allot
  rings : List Nat
  tensors : List Nat
  deriving DecidableEq, Repr

/-- The ALLOT section of a strand. -/
def State.allotSec (s : State) (p img : Nat) (im : Image) (share lin : Nat) : Option AllotSec :=
  match im.secs.find? (fun x => decide (x.kind = 3) && decide (x.lin = lin)) with
  | none => none
  | some x =>
    match s.readVa p ((img + x.off) % 2 ^ 64) 800 with
    | none => none
    | some b =>
      let a : Allot := ⟨fld b 0 4, fld b 4 4, fld b 12 4, fld b 16 4, fld b 20 4, share⟩
      if a.cwn ≤ 64 ∧ a.nsl ≤ 16 ∧ a.nrg ≤ 16 ∧ a.tkn ≤ 16 ∧ a.nag ≤ 4 then
        some ⟨a, (span 0 16).map (fun i => fld b (32 + 16 * i) 16), (span 0 64).map (fun i => fld b (288 + 8 * i) 8)⟩
      else none

/-- The fields of an initial ring descriptor; its reserved bits are ignored (R4, R273). -/
def initialRing (x : Nat) : Nat :=
  [(0, 25), (32, 11), (48, 14), (64, 9), (80, 9), (96, 14)].foldl (fun a k => a + bitsOf x k.1 k.2 * 2 ^ k.1) 0

/-- Slots that a fresh launch attaches (R379): slot 0, those with a DATA section, those that an initial ring names. -/
def freshSlots (im : Image) (x : AllotSec) (lin : Nat) : List Nat :=
  (span 0 x.allot.nsl).filter (fun i => decide (i = 0) || im.secs.any (fun c => decide (c.kind = 2) && decide (c.lin = lin) && decide (c.slot = i)) ||
    x.rings.any (fun r => (Ring.ofWord (initialRing r)).live && decide ((Ring.ofWord (initialRing r)).slot = i)))

/-! ### Reading ahead (R370) -/

/-- The later LAUNCH packets that the front end may read ahead while a WAIT holds a queue (R370): the first eight, by their distance from HEAD. -/
def State.aheadOf (s : State) (q : Nat) : List Nat :=
  let x := s.queue q
  let at' := fun (k : Nat) => s.qPacket q ((x.head + k) % 2 ^ 64)
  if s.qReads q && decide (fld (at' 0) 0 1 = 3) then
    ((span 1 (min (2 ^ s.qLogn q) ((x.tail + 2 ^ 64 - x.head) % 2 ^ 64) - 1)).filter (fun k => decide (fld (at' k) 0 1 = 1) && pktOk (at' k))).take 8
  else []

/-- The lines of a range go into the launch staging buffer of the partition's die, 256 KiB, of which the oldest give way (R370). -/
def State.stageRange (s : State) (p va n : Nat) : State :=
  let d := dieOfPart p
  let new := (span (va / 128) ((va + n + 127) / 128 - va / 128)).filterMap (fun k =>
    (s.readVaPB p (128 * k) 128).map (fun l => (⟨d, p, 128 * k, l⟩ : Staged)))
  let mine := s.staged.filter (fun x => decide (x.die = d) && !(new.any (fun y => decide (y.part = x.part) && decide (y.va = x.va)))) ++ new
  { s with staged := s.staged.filter (fun x => decide (x.die ≠ d)) ++ mine.drop (mine.length - 2048) }

/-- The front end reads ahead the packet at a distance from HEAD (R370): the header of its image, the code sections and the argument line are read
into the slices and staged. Nothing happens while one of the reads waits. -/
def State.prefetch (s : State) (q k : Nat) : State :=
  let p := s.qPart q
  if !(s.aheadOf q).any (fun j => decide (j = k)) then s
  else match s.qGet q (s.qOff q ((s.queue q).head + k)) 64 with
    | none => s
    | some (b, r) =>
      let img := fld b 8 8
      let secs := (r.image p img).elim [] (·.secs)
      let code := (secs.filter (fun x => decide (x.kind = 1))).map (fun x => ((img + x.off) % 2 ^ 64, x.len))
      let ranges := (img, 256 + 16 * secs.length) :: (fld b 16 8 / 128 * 128, 128) :: code
      ((ranges.foldlM (fun (s : State) x => State.touchVaGo true (x.2 / 4096 + 2) s p x.1 x.2) r).map (fun s =>
        ranges.foldl (fun s x => s.stageRange p x.1 x.2) s)).getD s

/-- The instruction and constant caches of a core are filled from the staging buffer at a launch (R370, R380): words of its code section and the
argument line of a read-only page, as far as what was read ahead still stands, so that no value changes. -/
def State.fillStaged (s : State) (p core code len arg : Nat) : State :=
  let good := s.staged.filter (fun x => decide (x.part = p) && decide (s.readVaPB p x.va 128 = some x.data))
  let words := good.flatMap (fun x => (span 0 32).filterMap (fun j =>
    let a := x.va + 4 * j
    let l := slice x.data (4 * j) 4
    if code ≤ a ∧ a + 4 ≤ code + len ∧ pbPois l = false then some (⟨p, a, BitVec.ofNat 32 (pbNat l)⟩ : IcWord) else none))
  let consts := good.filterMap (fun x =>
    if x.va ≠ arg / 128 * 128 then none
    else (s.mem.leafAt p x.va).bind (fun e =>
      let y := (Leaf.mk e.2.1 e.2.2).part x.va 128 []
      match y.place with
      | .frame pa => if y.ro then some (⟨pa / 128, x.data⟩ : CcLine) else none
      | _ => none))
  s.modCore core (fun c => { c with ic := c.ic ++ words, cc := c.cc ++ consts })

/-- The checks of a LAUNCH packet against its image (R372, R381): an error code, or 0. -/
def State.launchError (s : State) (p : Nat) (b : List Byte) : Nat :=
  match s.image p (fld b 8 8) with
  | none => 0x02
  | some im =>
    let pat := fld b 26 1
    let x : Spot := ⟨p, fld b 24 1, fld b 25 1, pat, none, none⟩
    let fresh := decide (im.kind = 1)
    if fld b 29 1 + 1 ≠ im.kind then 0x02
    else if !((span 0 (2 ^ (im.logw + im.logh))).all (fun l => (s.allotSec p (fld b 8 8) im (fld b 28 1) l).isSome)) then 0x02
    else if fld b 24 1 ≠ im.logw ∨ fld b 25 1 ≠ im.logh then 0x03
    else if bitOf im.flg 0 && !bitOf pat 0 then 0x05
    else if fresh && ((bitOf im.pat 0 && !bitOf pat 0) || (bitOf im.pat 1 && decide (bitsOf pat 1 2 ≠ bitsOf im.pat 1 2))) then 0x03
    else if !fresh && (decide (pat ≠ im.pat) || decide (fld b 28 1 ≠ im.wheel)) then 0x03
    else if neverHolds x then 0x03
    else if s.mem.hosten p && aopForeign im.aopset then 0x04
    else if !fresh && ((s.inst? im.kinst).isSome || !bitOf im.flg 1) then 0x07
    else 0

/-- LAUNCH (R380): the packet and its image are checked; the launch waits for a candidate, or is refused and completes at once. One that had
completed before a reset signals nothing (R388). -/
def execLaunch (s : State) : Host.Outcome State Fault Refusal :=
  s.onPacket 1 fun q idx b s0 =>
    let p := s0.qPart q
    match s0.touchHead p (fld b 8 8) with
    | none => s
    | some s =>
      let quiet := (s.queue q).done.any (fun i => decide (i = idx))
      let sig := if quiet then 0 else fld b 56 8
      let e := s.launchError p b
      let s := s.qStart q idx 1 sig .started
      if e ≠ 0 then s.qFinish q idx e
      else { s with waiting := s.waiting ++ [⟨p, q, idx, b, fld b 27 1, s.clock, none, quiet⟩] }

/-! ### Image slots and writing an image out (R382-R384; log entry 10) -/

/-- Address of an image slot, and of the BANK section of a slot of the bank map in it. -/
def Mem.imgAddr (m : Mem) (p n : Nat) : Nat := bitsOf (cfgGet m.cfg (offImgcfg p)) 21 18 * 2 ^ 21 + n * 2 ^ 21
def bankSect (i : Nat) : Nat := 0x10000 + i * 73728
/-- Offsets of the ARRAY, MATRIX and STREAM sections in an image slot (log entry 10). -/
def arraySect : Nat := 0x130000
def matrixSect : Nat := 0x140000
def streamSect : Nat := 0x150000

/-- The image slots in use of a partition: of saved strands, and of strands halted to be saved. -/
def State.slotsUsed (s : State) (p : Nat) : Nat :=
  s.saved.countP (fun v => decide (v.part = p) && v.slot.isSome) + s.strands.countP (fun e => decide (partOfSn e.1 = p) && decide (e.2.run = .halted .save))
/-- The free image slots of a partition. -/
def State.slotsFree (s : State) (p : Nat) : Nat := bitsOf (cfgGet s.mem.cfg (offImgcfg p)) 0 10 - s.slotsUsed p
/-- The lowest free slot number. -/
def State.freeSlot (s : State) (p : Nat) : Option Nat :=
  (span 0 (bitsOf (cfgGet s.mem.cfg (offImgcfg p)) 0 10)).find? (fun n => !(s.saved.any (fun v => decide (v.part = p) && decide (v.slot = some n))))

/-- The 34 control registers of a SEQ section, in order (R383). -/
def seqRegs : List Nat :=
  [0x002, 0x009] ++ span 0x010 16 ++ [0x020, 0x021, 0x022, 0x023, 0x024, 0x025, 0x031, 0x040, 0x041, 0x050, 0x051, 0x070, 0x071, 0x080, 0x081, 0x0A0]

/-- The bytes of a SEQ section (R383). -/
def State.seqSection (s : State) (sn : Nat) (t : Strand) : List Byte :=
  let hold : List Byte := match t.seq.trap.hold with
    | some c => toBytes 1 c.cause ++ toBytes 1 c.src ++ toBytes 1 c.detail ++ toBytes 1 1 ++ toBytes 4 0 ++ toBytes 8 c.val
    | none => toBytes 16 0
  toBytes 8 t.seq.pc.toNat ++ (span 1 31).flatMap (fun r => toBytes 8 (tblGet 0 t.seq.g r).toNat) ++
  toBytes 4 ((span 1 31).map (fun r => if tblGet false t.seq.gp r then 2 ^ r else 0)).sum ++ toBytes 4 0 ++
  seqRegs.flatMap (fun n => toBytes 8 ((s.creg sn t n).getD 0).toNat) ++ toBytes 4 (t.gen 0).toNat ++ toBytes 4 0 ++ hold ++ toBytes 16 0

/-- The writes, by offset, of an image's header and directory: the SEQ, ALLOT, ARRAY, MATRIX and STREAM sections, and a BANK section for each
bank (R378, R384). The reserved bytes 6-7 and 24-255 of the header stay as they are (R4). -/
def imageHead (i : Inst) (kinst share lin : Nat) (done : Bool) (slots : List Nat) : List (Nat × List Byte) :=
  let secs := (0x10, 0, 576, 0x8000) :: (0x03, 0, 800, 0x9000) :: (0x11, 0, secLen arrLens, arraySect) :: (0x12, 0, secLen mxLens, matrixSect) ::
    (0x13, 0, secLen strLens, streamSect) :: slots.map (fun j => (0x14, j, 73728, bankSect j))
  [(0, toBytes 1 2 ++ toBytes 1 i.logw ++ toBytes 1 i.logh ++ toBytes 1 i.pat ++ toBytes 1 share ++ toBytes 1 (b2n i.give + 2 * b2n done)),
   (8, toBytes 4 i.aopset ++ toBytes 4 secs.length ++ toBytes 8 kinst),
   (256, secs.flatMap (fun x => toBytes 2 x.1 ++ toBytes 1 lin ++ toBytes 1 x.2.1 ++ toBytes 4 x.2.2.1 ++ toBytes 8 x.2.2.2))]

/-- The bytes of an ALLOT section (R379; log entry 10). -/
def Strand.allotBytes (t : Strand) : List Byte :=
  toBytes 4 t.allot.cwn ++ toBytes 4 t.allot.nsl ++ toBytes 4 ((span 0 16).map (fun i => if (t.slot i).bank.isSome then 2 ^ i else 0)).sum ++
  toBytes 4 t.allot.nrg ++ toBytes 4 t.allot.tkn ++ toBytes 12 t.allot.nag ++
  (span 0 16).flatMap (fun n => toBytes 16 (if n < t.allot.nrg then (t.ring n).word else 0)) ++
  (span 0 64).flatMap (fun n => toBytes 8 (((tblGet none t.str.tensors n).map (·.addr)).getD 0))

/-- Writes by the device, by address, for a partition; none while one waits. -/
def Mem.ownWrites (m : Mem) (p : Nat) (l : List (Nat × List Byte)) : Option Mem := l.foldlM (fun m x => m.ownWrite p x.1 (clean x.2)) m

/-- Write the non-bank sections of a strand's image, its held banks marked by their numbers (R384, R385); none while a write waits. -/
def State.writeImage (s : State) (i : Inst) (p n sn : Nat) (t : Strand) (banks : List (Nat × Bool × Option Nat)) : Option State :=
  let a := s.mem.imgAddr p n
  let secs := imageHead i t.kinst t.allot.share t.lin banks.isEmpty (banks.map (·.1)) ++
    [(0x8000, s.seqSection sn t), (0x9000, t.allotBytes), (arraySect, t.arraySection (sidxOf sn)), (matrixSect, t.matrixSection), (streamSect, t.streamSection)] ++
    banks.map (fun y => (bankSect y.1, toBytes 8 (y.2.2.getD 0)))
  (s.mem.ownWrites p (secs.map (fun x => (a + x.1, x.2)))).map s.setMem

/-- Set DONE in the header of an image slot (R384). DESIGN CHOICE (log entry 46): bits [7:2] of FLG, which R378 does not list, become 0. -/
def Mem.imageDone (m : Mem) (p n : Nat) : Option Mem := do
  let (b, m) ← m.ownRead p (m.imgAddr p n + 5) 1
  m.ownWrite p (m.imgAddr p n + 5) (clean (toBytes 1 (bitsOf (pbNat b) 0 1 + 2)))

/-- Whether an earlier token of one sender to the same channel of the same core is on its way (R30). -/
def tokFirst (ts : List Tok) (k : Nat) (x : Tok) : Bool := !((ts.take k).any (fun y => decide (y = x)))

/-- A token is merged into the channel bits of an image slot (R203); none while its write waits. -/
def Mem.imageToken (m : Mem) (p n ch : Nat) : Option Mem := do
  let a := m.imgAddr p n + arraySect + tokOffset
  let (b, m) ← m.ownRead p a 4
  m.ownWrite p a (clean (toBytes 4 (Nat.lor (pbNat b) (2 ^ ch))))

/-- TOKEN_ARRIVE (R206): a token, named by its place among those on their way, sets the channel of the target strand, or of its image, the
record and the bytes of its slot, while the strand is saved (R203). -/
def execTokenArrive (s0 : State) : Host.Outcome State Fault Refusal :=
  match s0.toks[s0.agent.a]? with
  | none => .next s0
  | some x =>
    if !tokFirst s0.toks s0.agent.a x then .next s0
    else
      let s := { s0 with toks := dropAt s0.toks s0.agent.a }
      match s.snOf x.kinst x.tlin with
      | some sn => .next (s.modStrand sn (·.landToken x.ch))
      | none =>
        match s.saved.find? (fun (v : Saved) => decide (v.kinst = x.kinst) && decide (v.lin = x.tlin) && !v.kept) with
        | none => .next s
        | some v =>
          let land := fun (w : Saved) => if w = v then { w with strand := w.strand.landToken x.ch } else w
          let s1 : State := { s with saved := s.saved.map land }
          match v.slot with
          | none => .next s1
          | some n =>
            match s.mem.imageToken v.part n x.ch with
            | some m => .next (s1.setMem m)
            | none => .next s0

/-- Write a bank's bytes and poison map to the BANK section of an image slot (R379, R384); none while a write waits. -/
def Mem.bankOut (m : Mem) (p n i b : Nat) : Option Mem :=
  let a := m.imgAddr p n + bankSect i
  let pois := (span 0 8192).map (fun k => BitVec.ofNat 8 ((span 0 8).map (fun j => if tblGet false m.bpois (65536 * b + 8 * k + j) then 2 ^ j else 0)).sum)
  m.ownWrites p [(a, pbBytes (m.bankRead b 0 65536)), (a + 65536, pois)]

/-- The bytes of a bank with its poison map, as a BANK section holds them (R379); a byte is poisoned as well when it, or its byte of the map, was read
poisoned (R73, R337). -/
def bankBytes (data map : List PB) : List PB :=
  (data.zip (span 0 65536)).map (fun x =>
    let q := map.getD (x.2 / 8) (0, false)
    (x.1.1, x.1.2 || q.2 || bitOf q.1.toNat (x.2 % 8)))

/-- Fill a bank from the BANK section of an image slot; none while a read waits. -/
def Mem.bankIn (m : Mem) (p n i b : Nat) : Option Mem := do
  let (d, m) ← m.ownRead p (m.imgAddr p n + bankSect i) 65536
  let (q, m) ← m.ownRead p (m.imgAddr p n + bankSect i + 65536) 8192
  some ((m.bankZero b).bankWrite b 0 (bankBytes d q))

/-- A held bank is written out, and passes to its claimant; when it was the last of its image, DONE := 1 (R384); none while a write waits. -/
def State.claimBank (s : State) (b : Nat) : Option State :=
  match s.saved.find? (fun v => v.banks.any (fun y => decide (y.2.2 = some b))) with
  | none => some s
  | some v =>
    let banks := v.banks.map (fun y => if y.2.2 = some b then (y.1, y.2.1, none) else y)
    let i := ((v.banks.find? (fun y => decide (y.2.2 = some b))).map (·.1)).getD 0
    let s := { s with saved := s.saved.map (fun w => if w = v then { w with banks := banks } else w) }
    match v.slot with
    | none => some s
    | some n => do
      let m ← s.mem.bankOut v.part n i b
      let m ← if banks.all (fun y => y.2.2.isNone) then m.imageDone v.part n else some m
      some (s.setMem m)

/-- A core takes one bank of its group (R11, R384): a free one, else a held one, which is the front end's choice; no bank where there is none, and
none while a held bank's write waits. -/
def State.takeBank (s : State) (x : Spot) (ox oy core : Nat) : Option (Option Nat × State) :=
  let opens := (bankOrder core).filter (s.bankOpen x ox oy)
  match opens.find? (fun b => !s.bankHeld b) with
  | some b => some (some b, s)
  | none =>
    let (i, m) := s.mem.pick opens.length
    match opens[i]? with
    | some b => ((s.setMem m).claimBank b).map (fun s => (some b, s))
    | none => some (none, s)

/-! ### The wheel (R27, R29) -/

/-- Lay out the entries of a list, in the front end's choice of order (log entry 14). -/
def layWheel : Nat → List (Option Nat) → Mem → List (Option Nat) × Mem
  | 0, _, m => ([], m)
  | k + 1, xs, m =>
    let (i, m) := m.pick xs.length
    let (r, m) := layWheel k (dropAt xs i) m
    (xs.getD i none :: r, m)

/-- The front end writes the wheel of a core anew: each of its strands has its share of entries (R29). -/
def State.rewheel (s : State) (core : Nat) : State :=
  let ts := (span (4 * core) 4).filterMap (fun sn => (s.strand? sn).map (fun t => (sidxOf sn, t.allot.share)))
  let xs := ts.flatMap (fun e => List.replicate e.2 (some e.1))
  let (l, m) := layWheel 16 (xs ++ List.replicate (16 - xs.length) none) s.mem
  let alloc := ((span 0 16).map (fun e => match l.getD e none with | some _ => 2 ^ e | none => 0)).sum
  let ent := ((span 0 16).map (fun e => match l.getD e none with | some i => i * 4 ^ e | none => 0)).sum
  (s.setMem m).modCore core (fun c => { c with pend := some (alloc, ent) })

/-- The caches of a core are invalidated at a launch (R380). -/
def Core.flush (c : Core) : Core := { c with ic := [], cc := [], l1 := [] }

/-! ### Starting a fresh instance (R379, R380) -/

/-- A number for a new instance (R18; log entry 14): the front end's choice among those not live. -/
def State.newKinst (s : State) : Nat × State :=
  let (n, m) := s.mem.pick 65536
  let live := fun k => (s.inst? k).isSome || s.saved.any (fun v => decide (v.kinst = k))
  (((span n 65536).map (· % 65536)).find? (fun k => !live k) |>.getD n, { s.setMem m with kcount := s.kcount + 1 })

/-- Attach a bank, zeroed, to each of a list of slots (R379); none while a write waits. -/
def State.attachFresh (x : Spot) (ox oy core : Nat) : State → List Nat → List Slot → Option (List Slot × State)
  | s, [], sl => some (sl, s)
  | s, i :: is, sl =>
    match s.takeBank x ox oy core with
    | none => none
    | some (some b, s) =>
      -- the bank counts as taken from here on
      let sl := modAt (fun _ => (⟨some b, false, false, false, false⟩ : Slot)) sl i
      State.attachFresh x ox oy core ((s.modMem (fun m => m.bankZero b)).modStrand 8191 (fun t => t.mapSeq (fun q => { q with slots := sl }))) is sl
    | some (none, s) => State.attachFresh x ox oy core s is sl

/-- Put a strand's DATA sections into its banks, with the poison they are read with (R73). -/
def State.loadData (s : State) (p img : Nat) (im : Image) (lin : Nat) (slots : List Slot) : State :=
  im.secs.foldl (fun s c =>
    if c.kind = 2 ∧ c.lin = lin then
      match (slots.getD c.slot .empty).bank, s.readVaPB p ((img + c.off) % 2 ^ 64) c.len with
      | some b, some d => s.modMem (fun m => m.bankWrite b 0 d)
      | _, _ => s
    else s) s

/-- The context blocks of a CTXW section, one after the other in the layout of R189 (R379; log entry 10): the words and the headers that the
loop blocks give, and the constants of the first block that carries some (R188). -/
def Strand.loadCtxw : Nat → Strand → Bool → List Byte → Strand
  | 0, t, _, _ => t
  | n + 1, t, kset, b =>
    let c := CtxBlock.of b
    let len := (if hdrKld c.hdr then 520 else 8) + 128 * hdrIi c.hdr
    if b.length < len then t
    else Strand.loadCtxw n (t.applyBlock (if kset then { c with consts := none } else c)) (kset || c.consts.isSome) (b.drop len)

/-- The descriptor of a tensor slot from its bytes in memory; the reserved bytes are ignored (R4, R284). -/
def initialTensor (d : Nat) (b : List Byte) : Option Tensor := Tensor.of d (b.take 27 ++ toBytes 1 0 ++ slice b 28 4 ++ toBytes 32 0)

/-- The tensor slots that the descriptor addresses of an image name (R379), read by the device; none while a read waits. -/
def State.initialTensors (p : Nat) : List (Nat × Nat) → State → Tbl (Option Tensor) → Option (Tbl (Option Tensor) × State)
  | [], s, tb => some (tb, s)
  | (n, d) :: ds, s, tb =>
    if d = 0 then State.initialTensors p ds s tb
    else match s.touchVa p d 64 with
      | none => none
      | some s =>
        State.initialTensors p ds s (match s.readVaPB p d 64 with
          | some b => if pbPois b then tb else tblPut none tb n (initialTensor d (pbBytes b))
          | none => tb)

/-- Start the strand of a fresh launch at a linear position (R380); none while an access waits. DESIGN CHOICE (log entry 46): an initial ring that
R277, or a tensor slot whose descriptor R285, would refuse, or that is read poisoned or not readable, starts empty. -/
def State.startStrand (s : State) (x : Spot) (ox oy kinst img arg share : Nat) (im : Image) (secp : Bool) (lin : Nat) : Option State :=
  match s.allotSec x.part img im share lin, im.secs.find? (fun c => decide (c.kind = 1) && decide (c.lin = lin)) with
  | some a, some code =>
    let core := coreAt (ox + lin % 2 ^ x.logw) (oy + lin / 2 ^ x.logw)
    let free := (span (4 * core) 4).filter (fun sn => (s.strand? sn).isNone)
    let (i, m) := s.mem.pick free.length
    let sn := free.getD i (4 * core)
    let s := s.setMem m
    let fresh := fun (slots : List Slot) =>
      Strand.fresh kinst lin a.allot secp (BitVec.ofNat 64 (img + code.off)) (BitVec.ofNat 64 arg) slots (tblGet 0 s.rseqs sn)
    let none16 := List.replicate 16 Slot.empty
    -- while its banks are being taken, the strand stands under a number of no core
    (State.attachFresh x ox oy core (s.setStrand 8191 (fresh none16)) (freshSlots im a lin) none16).bind fun (slots, s1) =>
    let s1 := { s1 with strands := tblErase s1.strands 8191 }
    let s1 := s1.loadData x.part img im lin slots
    let t := fresh slots
    let t := (span 0 a.allot.nrg).foldl (fun t n =>
      let r := initialRing (a.rings.getD n 0)
      if ringAccepts a.allot.nrg n r then t.setRing n (Ring.ofWord r) else t) t
    (State.initialTensors x.part ((span 0 64).map (fun n => (n, a.tensors.getD n 0))) s1 []).map fun (tens, s1) =>
    let t := { t with str := { t.str with tensors := tens } }
    let t := match im.secs.find? (fun c => decide (c.kind = 4) && decide (c.lin = lin)) with
      | some c => (match s1.readVa x.part ((img + c.off) % 2 ^ 64) c.len with | some b => (Strand.loadCtxw 8 t false b).cleanWindow | none => t)
      | none => t
    (((s1.setStrand sn t).rewheel core).modCore core Core.flush).fillStaged x.part core ((img + code.off) % 2 ^ 64) code.len arg
  | _, _ => some s

/-- Start a fresh instance at an origin (R380): every strand together; none while an access waits. -/
def State.startFresh (s : State) (w : Waiting) (im : Image) (ox oy : Nat) (secp : Bool) : Option State :=
  let b := w.pkt
  let x : Spot := ⟨w.part, im.logw, im.logh, fld b 26 1, none, none⟩
  let (k, s) := s.newKinst
  let sig := if w.quiet then 0 else fld b 56 8
  let i : Inst := ⟨w.part, ox, oy, im.logw, im.logh, fld b 26 1, w.level, fld b 28 1, im.aopset, secp, some (w.queue, w.idx), sig, s.clock, 0, none, false, false, w.quiet, bitOf im.flg 0⟩
  (span 0 (2 ^ (im.logw + im.logh))).foldlM (fun s lin => s.startStrand x ox oy k (fld b 8 8) (fld b 16 8) (fld b 28 1) im secp lin) (s.setInst k i)

/-! ### Restores (R203, R303, R384) -/

/-- The saved strands of an instance that wait to be restored. -/
def State.savedOf (s : State) (k : Nat) : List Saved := s.saved.filter (fun v => decide (v.kinst = k) && !v.kept)

/-- The records of an evicted instance, one for each strand (R387): by linear position. -/
def State.keptOf (s : State) (k : Nat) : List Saved := s.saved.filter (fun v => decide (v.kinst = k) && v.kept)

/-- What a saved strand needs at a restore (R38). -/
def Saved.need (v : Saved) : Need := ⟨v.lin, v.strand.allot, some v.sidx, v.banks.length, v.strand.str.posts.length, v.strand.str.ovfs.length⟩

/-- Whether every strand of an instance that was halted to be saved is saved (R385). -/
def State.allSaved (s : State) (k : Nat) : Bool := !(s.strands.any (fun e => decide (e.2.kinst = k) && decide (e.2.run ≠ .running))) && !(s.savedOf k).isEmpty

/-- How the placer sees a saved instance (R38, R39): with a strand still standing, its place is fixed. -/
def State.spotOf (s : State) (k : Nat) : Spot :=
  let i := s.instOf k
  ⟨i.part, i.logw, i.logh, i.pat, none, if s.strands.any (fun e => decide (e.2.kinst = k)) then some (i.ox, i.oy) else none⟩

/-- The candidate of a saved instance. -/
def State.restoreSpot (s : State) (k : Nat) : Option (Nat × Nat) :=
  if s.allSaved k then s.candidate (s.spotOf k) ((s.savedOf k).map Saved.need) else none

/-- Slots that hold the banks that a saved strand still holds on the hatch. -/
def heldSlots (l : List (Nat × Bool × Option Nat)) : List Slot := l.map (fun y => ⟨y.2.2, false, false, false, false⟩)

/-- Give a saved strand its banks on a core (R384): held banks of the same group without copying, else a bank of the group filled from the
held bank or from the image; none while an access waits. Strand 8191 keeps the banks that are attached and those still held. -/
def State.attachSaved (x : Spot) (ox oy core : Nat) (v : Saved) : State → List (Nat × Bool × Option Nat) → List Slot → Option (List Slot × State)
  | s, [], sl => some (sl, s)
  | s, y :: ys, sl =>
    let put := fun (b : Nat) => modAt (fun _ => (⟨some b, false, false, y.2.1, false⟩ : Slot)) sl y.1
    let keep := fun (s : State) (sl : List Slot) => s.modStrand 8191 (fun t => t.mapSeq (fun q => { q with slots := sl ++ heldSlots ys }))
    match (if groupOf v.core = groupOf core then y.2.2 else none) with
    | some b => State.attachSaved x ox oy core v (keep s (put b)) ys (put b)
    | none =>
      match s.takeBank x ox oy core with
      | none => none
      | some (none, s) => State.attachSaved x ox oy core v s ys sl
      | some (some b, s) =>
        (match y.2.2, v.slot with
         | some old, _ => some ((s.mem.bankZero b).bankWrite b 0 (s.mem.bankRead old 0 65536))
         | none, some n => s.mem.bankIn v.part n y.1 b
         | none, none => some (s.mem.bankZero b)).bind (fun m => State.attachSaved x ox oy core v (keep (s.setMem m) (put b)) ys (put b))

/-- The state of a SEQ section (R383) goes into a strand: PC, g1 to g31 with their poison, the control registers that a program's state holds,
generator stream 0, the trap hold. LPOS, the bank map, the window and the message tables are the record's. -/
def Strand.ofSeq (t : Strand) (b : List Byte) : Strand :=
  let w := fun (k : Nat) => BitVec.ofNat 64 (fld b (264 + 8 * k) 8)
  let st := w 23
  let rc := w 29
  let ovf := w 32
  let trap : Trap := { t.seq.trap with
    tvec := w 18 &&& ~~~2#64, tcause := w 19 &&& 0x7FFFF#64, tpc := w 20 &&& ~~~3#64, tval := w 21, tsave := w 22
    intrap := st.getLsbD 0, eha := st.getLsbD 4, ehm := st.getLsbD 5, ehs := st.getLsbD 6
    hold := if fld b 547 1 = 0 then none else some ⟨fld b 544 1, fld b 545 1, fld b 546 1, fld b 552 8⟩ }
  let ctl : Ctl := { t.seq.ctl with
    retired := w 1, daz := (w 25).getLsbD 4, ftz := (w 25).getLsbD 3, rm := if bitsOf (w 25).toNat 0 3 < 5 then bitsOf (w 25).toNat 0 3 else t.seq.ctl.rm, fpstat := (w 26).setWidth 10
    isat := (w 27).getLsbD 0, mxst := (w 28).setWidth 15, supcnt := bitsOf rc.toNat 24 8, supp := rc.getLsbD 16, raceinfo := w 30 &&& ~~~0x1C00000000#64
    notrap := (w 31).getLsbD 0, ltag := bitsOf ovf.toNat 48 16, ly := bitsOf ovf.toNat 40 8, lx := bitsOf ovf.toNat 32 8
    dcnt := bitsOf ovf.toNat 8 8, drop := ovf.getLsbD 0, ackcnt := bitsOf (w 33).toNat 0 11 }
  t.mapSeq (fun q => { q with
    pc := BitVec.ofNat 64 (fld b 0 8 / 4 * 4)
    g := tblPutAll 0 [] 1 ((span 1 31).map (fun r => BitVec.ofNat 64 (fld b (8 * r) 8)))
    gp := tblPutAll false [] 1 ((span 1 31).map (bitOf (fld b 256 4)))
    trap := trap, ctl := ctl, gens := tblInsert q.gens 0 (BitVec.ofNat 32 (fld b 536 4)) })

/-- The sections of a checkpoint image go into a strand (R202, R259, R302, R383). -/
def Strand.ofSections (t : Strand) (sq ar mx st : List Byte) : Strand := (((t.ofSeq sq).ofArray ar).ofMatrix mx).ofStream st

/-- A saved strand as its image slot gives it (R380, R384), over its record; none while a read waits. -/
def State.loadSaved (s : State) (v : Saved) : Option (Strand × State) :=
  match v.slot with
  | none => some (v.strand, s)
  | some n => do
    let a := s.mem.imgAddr v.part n
    let (sq, m) ← s.mem.ownRead v.part (a + 0x8000) 576
    let (ar, m) ← m.ownRead v.part (a + arraySect) (secLen arrLens)
    let (mx, m) ← m.ownRead v.part (a + matrixSect) (secLen mxLens)
    let (st, m) ← m.ownRead v.part (a + streamSect) (secLen strLens)
    some (v.strand.ofSections (pbBytes sq) (pbBytes ar) (pbBytes mx) (pbBytes st), s.setMem m)

/-- Restore one strand (R203, R303): its state on its new core, a new region under its new number (R43); its tile-table caches are dropped. None
while an access waits. -/
def State.restoreStrand (s : State) (x : Spot) (ox oy : Nat) (v : Saved) : Option State := do
  let core := coreAt (ox + v.lin % 2 ^ x.logw) (oy + v.lin / 2 ^ x.logw)
  let sn := 4 * core + v.sidx
  let s := { s with saved := s.saved.filter (fun w => decide (w ≠ v)) }
  -- banks the image holds stay its own until it has taken them
  let (t, s) ← s.loadSaved v
  let s := s.setStrand 8191 (t.mapSeq (fun q => { q with slots := heldSlots v.banks }))
  let (slots, s) ← State.attachSaved x ox oy core v s v.banks (List.replicate 16 Slot.empty)
  let s := { s with strands := tblErase s.strands 8191 }
  let r := tblGet 0 s.rseqs sn
  let q := { t.seq with slots := slots, ctl := { t.seq.ctl with rseq := r, cseq := (r + 1) % 256 }, wait := .none }
  let t := { t with run := .running, seq := q, str := { t.str with tensors := t.str.tensors.map (fun e => (e.1, e.2.map (fun y => { y with cache := [] }))) } }
  some (((s.setStrand sn t).rewheel core).modCore core Core.flush)

/-- Restore the saved strands of an instance at an origin (R39, R380); none while an access waits. -/
def State.restoreAt (s : State) (k ox oy : Nat) : Option State :=
  let x := s.spotOf k
  -- a strand restored before may have claimed a held bank, which the record then names no longer (R384)
  ((s.savedOf k).foldlM (fun (s : State) (v : Saved) => match (s.savedOf k).find? (fun (w : Saved) => decide (w.lin = v.lin)) with
    | some w => s.restoreStrand x ox oy w
    | none => some s) s).map fun (s1 : State) =>
  let s1 := s1.modInst k (fun i => { i with ox := ox, oy := oy, start := s.clock, count := 0, move := false })
  { s1 with waiting := s1.waiting.filter (fun w => decide (w.kinst ≠ some k)) }

/-- The bytes of a strand's section of a checkpoint image. -/
def State.imageSec (s : State) (p img : Nat) (im : Image) (kind lin : Nat) : List Byte :=
  match im.secs.find? (fun c => decide (c.kind = kind) && decide (c.lin = lin)) with
  | some c => (s.readVa p ((img + c.off) % 2 ^ 64) c.len).getD []
  | none => []

/-- The saved strand that a checkpoint image gives at a linear position (R379-R381): its sections over a fresh strand, whose control registers
have their reset values (R380); its banks are those with a BANK section, in the mode that the SEQ section's BMAP register gives. A launch by the
monitor gives it security privilege (R152). -/
def State.imageSaved (s : State) (p img : Nat) (im : Image) (secp : Bool) (lin : Nat) : Option Saved :=
  (s.allotSec p img im im.wheel lin).map fun x =>
    let sq := s.imageSec p img im 0x10 lin
    let ar := s.imageSec p img im 0x11 lin
    let t := (Strand.fresh im.kinst lin x.allot secp 0 0 (List.replicate 16 Slot.empty) 0).ofSections sq ar (s.imageSec p img im 0x12 lin) (s.imageSec p img im 0x13 lin)
    let banks := (span 0 16).filterMap (fun i =>
      if im.secs.any (fun c => decide (c.kind = 0x14) && decide (c.lin = lin) && decide (c.slot = i)) then
        some (i, bitOf (fld sq (264 + 8 * (2 + i)) 8) 12, none)
      else none)
    ⟨im.kinst, p, lin, numAt ((readRecs arrLens ar).getD 132 []) 0 % 4, 0, t, banks, none, false⟩

/-- The saved strands that a checkpoint image gives. -/
def State.imageStrands (s : State) (p img : Nat) (im : Image) (secp : Bool) : List Saved :=
  (span 0 (2 ^ (im.logw + im.logh))).filterMap (s.imageSaved p img im secp)

/-- The BANK sections of a checkpoint image go into the banks of the strands it restores (R379). -/
def State.loadImage (s : State) (im : Image) (p img : Nat) : State :=
  im.secs.foldl (fun s c =>
    if c.kind = 0x14 then
      match s.snOf im.kinst c.lin, s.readVaPB p ((img + c.off) % 2 ^ 64) c.len with
      | some sn, some d =>
        (match (s.strand? sn).bind (fun t => (t.slot c.slot).bank) with
        | some b => s.modMem (fun m => (m.bankZero b).bankWrite b 0 (bankBytes (d.take 65536) (d.drop 65536)))
        | none => s)
      | _, _ => s
    else s) s

/-! ### Arbitration (R371) -/

/-- Key of the round-robin turn of a level of a partition among the table of turns. -/
def turnKey (p level : Nat) : Nat := 10000 + 4 * p + level

/-- The waiting launches of a partition that compete (R371): the first of each queue, by level, then in round-robin order of queue number from
the turn, privileged launches first. -/
def State.competing (s : State) (p : Nat) : List Waiting :=
  let mine := s.waiting.filter (fun w => decide (w.part = p))
  let firsts := mine.filter (fun w => !(mine.any (fun v => decide (v.queue = w.queue) && decide (v.idx < w.idx))))
  let pos := fun (w : Waiting) => if 4096 ≤ w.queue then 0 else 1 + (w.queue + 8192 - tblGet 0 s.turns (turnKey p w.level) % 4096) % 4096
  (span 0 4).flatMap (fun l => sortBy (fun a b => decide (pos a ≤ pos b)) (firsts.filter (fun w => decide (w.level = l))))

/-- What a waiting launch or restore needs of the placer; none for a restore whose save is not complete. -/
def State.wants (s : State) (w : Waiting) : Option (Spot × List Need) :=
  match w.kinst with
  | some k => if s.allSaved k then some (s.spotOf k, (s.savedOf k).map Saved.need) else none
  | none =>
    match s.image w.part (fld w.pkt 8 8) with
    | none => none
    | some im =>
      let x : Spot := ⟨w.part, im.logw, im.logh, fld w.pkt 26 1, none, none⟩
      some (x, if im.kind = 2 then (s.imageStrands w.part (fld w.pkt 8 8) im false).map Saved.need
        else (span 0 (2 ^ (im.logw + im.logh))).filterMap (fun l =>
          (s.allotSec w.part (fld w.pkt 8 8) im (fld w.pkt 28 1) l).map (fun a => ⟨l, a.allot, none, (freshSlots im a l).length, 0, 0⟩)))

/-- The candidate of a waiting launch or restore. -/
def State.spotFor (s : State) (w : Waiting) : Option (Nat × Nat) := (s.wants w).bind (fun x => s.candidate x.1 x.2)

/-- The launch or restore that is taken next: the first that competes and has a candidate (R371). -/
def State.winner (s : State) (p : Nat) : Option (Waiting × (Nat × Nat)) :=
  (s.competing p).findSome? (fun w => (s.spotFor w).map (fun o => (w, o)))

/-- Place a launch or restore (R38, R380); the turn of its level passes to the next queue, and stays where it is after a privileged launch, which
comes before every queue (R371). A launch with an operator that the portal cannot carry is refused if HOSTEN has become 1 (R330). None while an
access waits. -/
def State.placeAt (s : State) (w : Waiting) (ox oy : Nat) : Option State :=
  let turns := if 4096 ≤ w.queue then s.turns else tblPut 0 s.turns (turnKey w.part w.level) ((w.queue + 1) % 4096)
  let s := { s with waiting := s.waiting.erase w, turns := turns }
  match w.kinst with
  | some k => (s.modInst k (fun i => { i with level := w.level })).restoreAt k ox oy
  | none =>
    let priv := decide (4096 ≤ w.queue)
    match s.image w.part (fld w.pkt 8 8) with
    | none => some (s.qFinish w.queue w.idx 0x02)
    | some im =>
      if s.mem.hosten w.part && aopForeign im.aopset then some (s.qFinish w.queue w.idx 0x04)
      else (s.touchSecs w.part (fld w.pkt 8 8) im).bind fun s =>
      if im.kind = 2 then
        let b := w.pkt
        let i : Inst := ⟨w.part, ox, oy, im.logw, im.logh, im.pat, w.level, im.wheel, im.aopset, priv, some (w.queue, w.idx), if w.quiet then 0 else fld b 56 8,
          s.clock, 0, none, false, false, w.quiet, bitOf im.flg 0⟩
        let s := { s with saved := s.saved ++ s.imageStrands w.part (fld b 8 8) im priv }
        ((s.setInst im.kinst i).restoreAt im.kinst ox oy).map (fun s => s.loadImage im w.part (fld b 8 8))
      else s.startFresh w im ox oy priv

/-- Whether a move is in progress in a partition (R374). -/
def State.moving (s : State) (p : Nat) : Bool := s.insts.any (fun e => decide (e.2.part = p) && e.2.move)

/-- LAUNCH_PLACE (R38, R371): the next launch or restore of the agent's partition that has a candidate is placed, while no move is in progress
there. -/
def execLaunchPlace (s : State) : Host.Outcome State Fault Refusal :=
  .next (match s.winner s.agent.a with
    | some (w, o) => if s.moving s.agent.a then s else (s.placeAt w o.1 o.2).getD s
    | none => s)

/-- RESTORE (R203, R380): the saved instance of the agent is restored when its turn has come (R371), or at once in a move (R39, R385). -/
def execRestore (s : State) : Host.Outcome State Fault Refusal :=
  let k := s.agent.a
  match s.inst? k with
  | none => .next s
  | some i =>
    if i.move then
      .next (match s.restoreSpot k with | some o => (s.restoreAt k o.1 o.2).getD s | none => s)
    else
      .next (match s.winner i.part with
        | some (w, o) => if w.kinst = some k then (s.placeAt w o.1 o.2).getD s else s
        | none => s)

end Sys2Proof.Machine
end

