-- ==== Sys2Proof/Machine/Recover.lean ====
section
/-! DEFINITION. How strands and instances leave their cores: pre-emption and moves (R38-R44, R374, R375, R385), the end of strands and
instances (R156, R175, R369), eviction, the watchdog and partition reset (R31, R386-R389). -/
namespace Sys2Proof.Machine

/-! ### Ends -/

/-- A strand leaves its core: its resources and wheel entries are free (R29), its holds end. -/
def State.removeStrand (s : State) (sn : Nat) : State :=
  let drop := fun (x : Spill) => { x with held := x.held.filter (fun h => decide (h.sn ≠ sn)) }
  (({ s with strands := tblErase s.strands sn, hostOps := s.hostOps.filter (fun h => decide (h.sn ≠ sn)) }.modMem
    (fun m => { m with spills := m.spills.map drop })).rewheel (coreOfSn sn)).modCore (coreOfSn sn) (fun c => { c with l1 := [] })

/-- An instance ends with an error code: its packet completes, and what was on its way within it is gone (R369, R372). -/
def State.endInst (s : State) (k err : Nat) : State :=
  let pkt := (s.instOf k).pkt
  let s := { s with
    insts := tblErase s.insts k, chunks := s.chunks.filter (fun c => decide (c.kinst ≠ k)), msgs := s.msgs.filter (fun c => decide (c.kinst ≠ k))
    toks := s.toks.filter (fun c => decide (c.kinst ≠ k)), redirs := s.redirs.filter (fun c => decide (c.kinst ≠ k))
    waiting := s.waiting.filter (fun w => decide (w.kinst ≠ some k)) }
  match pkt with
  | some (q, idx) => s.qFinish q idx err
  | none => s

/-- The strands of an instance that stand on cores. -/
def State.standing (s : State) (k : Nat) : List (Nat × Strand) := s.strands.filter (fun e => decide (e.2.kinst = k))

/-- STRAND_END (R175, R369): a `halt` whose release is complete ends the strand; with the last one the instance completes. -/
def execStrandEnd (s : State) : Host.Outcome State Fault Refusal :=
  s.forStrand fun sn t =>
    if t.run ≠ .running ∨ t.seq.wait ≠ .halted then s
    else
      let s := s.removeStrand sn
      if (s.standing t.kinst).isEmpty && (s.savedOf t.kinst).isEmpty then s.endInst t.kinst 0 else s

/-! ### Saves (R40-R43, R384, R385) -/

/-- Whether an access of a strand that ends has been held for want of a frame for its 210,000 ck (R317): its instance ends without it. DESIGN CHOICE (log
entry 46): R156 would wait for a reply that does not come. -/
def State.spillHeld (s : State) (sn : Nat) (t : Strand) (id : Nat) : Bool :=
  decide (t.run ≠ .halted .save) && s.mem.spills.any (fun x => s.mem.listEmpty x.part x.die &&
    x.held.any (fun h => decide (h.sn = sn) && decide (h.acc = id) && decide (h.since + 210000 ≤ s.clock)))

/-- Whether what a strand sent is still to land or to be refused: a chunk or message whose turn at its target has come (R294, R298). -/
def State.sending (s : State) (t : Strand) : Bool :=
  (span 0 s.chunks.length).any (fun k => match s.chunks[k]? with
    | some c => decide (c.kinst = t.kinst) && decide (c.slin = t.lin) && c.retry.isNone && chunkFirst s.chunks k c
    | none => false) ||
  (span 0 s.msgs.length).any (fun k => match s.msgs[k]? with
    | some c => decide (c.kinst = t.kinst) && decide (c.slin = t.lin) && c.retry.isNone && msgFirst s.msgs k c
    | none => false)

/-- Whether no reply of a halted strand is outstanding (R41, R181, R202, R259, R302): its load table, store buffer and load queues are answered,
its writes performed and acknowledged, its pushes landed, what it sent landed or refused, a `send` that every target has answered complete; it takes
part in no check (R416). -/
def State.replyFree (s : State) (sn : Nat) (t : Strand) : Bool :=
  t.seq.loads.all (fun a => (match a.kind with | .send left _ => decide (left ≠ 0) | _ => false) || s.spillHeld sn t a.id) &&
  t.seq.stores.all (fun x => s.spillHeld sn t x.id) && t.seq.reds.all (fun a => s.spillHeld sn t a.id) &&
  t.seq.acks.isEmpty && t.arrx.pes.all (fun e => e.lq.all (fun x => x.cp || x.filled || s.spillHeld sn t x.id)) &&
  t.tilesLanded && t.seq.slots.all (fun x => !x.zero) && !s.sending t &&
  !(s.hostOps.any (fun h => decide (h.sn = sn))) &&
  (match t.seq.wait with | .check _ => false | .checked _ => false | _ => true)

/-- What a strand that is saved has sent and seen refused counts as not begun, and is sent after the restore (R302, R303). -/
def State.unsend (s : State) (sn : Nat) (t : Strand) : State :=
  let mine := fun (c : Chunk) => decide (c.kinst = t.kinst) && decide (c.slin = t.lin)
  let left := ((s.chunks.filter mine).map (·.data.length)).sum
  ({ s with
    chunks := s.chunks.filter (fun c => !mine c)
    msgs := s.msgs.filter (fun c => !(decide (c.kinst = t.kinst) && decide (c.slin = t.lin))) }).setStrand sn
    (t.strHead (fun e => { e with done := e.done - left, flying := 0 }))

/-- The banks of a strand by slot. -/
def Strand.bankList (t : Strand) : List (Nat × Bool × Option Nat) :=
  (span 0 16).filterMap (fun i => (t.slot i).bank.map (fun b => (i, (t.slot i).l1, some b)))

/-- The record of a strand that is saved, with its image in slot `n` if it has one. -/
def savedRec (sn : Nat) (t : Strand) (n : Option Nat) (kept : Bool) : Saved :=
  ⟨t.kinst, partOfSn sn, t.lin, sidxOf sn, coreOfSn sn, t, t.bankList, n, kept⟩

/-- The banks that a saved strand holds are written to its image slot, and DONE := 1 (R384); none while a write waits. -/
def Mem.banksOut (m : Mem) (v : Saved) : Option Mem :=
  match v.slot with
  | none => some m
  | some n => do
    let m ← v.banks.foldlM (fun (m : Mem) y => match y.2.2 with | some b => m.bankOut v.part n y.1 b | none => some m) m
    m.imageDone v.part n

/-- An eviction whose saves are complete (R387): every held bank is written, DONE := 1, and the packet completes with 0x0B; the images are
kept. None while a write waits. -/
def State.evictDone (s : State) (k : Nat) : Option State :=
  ((s.savedOf k).foldlM Mem.banksOut s.mem).map fun m =>
  let keep := fun (v : Saved) => if v.kinst = k ∧ v.kept = false then { v with kept := true, banks := v.banks.map (fun y => (y.1, y.2.1, none)) } else v
  ({ s.setMem m with saved := s.saved.map keep }).endInst k 0x0B

/-- The image of a strand whose region has ended is written to slot `n`, and the strand leaves its core, its banks held for the image (R384); the
last of an instance being evicted ends the eviction. None while a write waits. -/
def State.saveTo (s : State) (sn : Nat) (t : Strand) (n : Nat) : Option State := do
  let i := s.instOf t.kinst
  let s := s.unsend sn (t.setWait .none)
  let t := (s.strand? sn).getD t
  let s ← s.writeImage i (partOfSn sn) n sn t t.bankList
  let s := s.removeStrand sn
  let s := { s with saved := s.saved ++ [savedRec sn t (some n) false] }
  if i.evict && (s.standing t.kinst).isEmpty then s.evictDone t.kinst else some s

/-- Whether an engine cause of a halted strand is still to be delivered (R42, R201): one that can go neither to the handler nor into the hold is
kept in the image. -/
def Strand.delivering (t : Strand) : Bool := !t.seq.trap.raised.isEmpty && !(t.seq.trap.intrap && t.seq.trap.hold.isSome)

/-- SAVE_COMPLETE (R41, R42, R43, R385): deliveries under way complete; with no reply outstanding the strand's region ends; when that release is
complete, its image is written in an entry of the schedule that admits its partition. -/
def execSaveComplete (s : State) : Host.Outcome State Fault Refusal :=
  s.forStrand fun sn t0 =>
    if t0.run ≠ .halted .save then s
    else
      let s := s.takeTraps 4 sn
      match s.strand? sn with
      | none => s
      | some t =>
        if t.run ≠ .halted .save ∨ t.delivering = true ∨ s.replyFree sn t = false then s
        else match t.seq.wait with
          | .release q =>
            (match s.freeSlot (partOfSn sn) with
             | none => s
             | some n => if !s.relDone sn q || !s.admits (partOfSn sn) then s else (s.saveTo sn t n).getD s)
          | _ => if s.canRelease sn t then (s.endRegion sn).modStrand sn (·.setWait (.release t.seq.ctl.cseq)) else s

/-- A saved instance waits to be restored, as a launch at the level it held (R371). -/
def State.awaitRestore (s : State) (k : Nat) : State :=
  let i := s.instOf k
  if s.waiting.any (fun w => decide (w.kinst = some k)) then s
  else { s with waiting := s.waiting ++ [⟨i.part, (i.pkt.getD (0, 0)).1, (i.pkt.getD (0, 0)).2, [], i.level, s.clock, some k, i.quiet⟩] }

/-- PREEMPT_REQUEST (R40, R42, R375): a strand's engines halt at their next boundaries, if the partition's image area has a free slot for it;
one that is halted or saved already, or that has security privilege (R405), is not concerned. -/
def execPreemptRequest (sn : Nat) (s : State) : Host.Outcome State Fault Refusal :=
  .next (match s.strand? sn with
    | none => s
    | some t =>
      if t.run ≠ .running ∨ t.secp = true ∨ s.slotsFree (partOfSn sn) = 0 then s
      else ((s.setStrand sn (t.halt .save)).modMem (·.unhold (fun n => decide (n = sn)))).awaitRestore t.kinst)

/-- Whether an instance may be pre-empted (R375, R405): not privileged, every strand running, an image slot free for each. -/
def State.mayPreempt (s : State) (k : Nat) (i : Inst) : Bool :=
  let ts := s.standing k
  !i.priv && !i.move && !i.evict && !ts.isEmpty && ts.all (fun e => decide (e.2.run = .running)) && (s.savedOf k).isEmpty &&
  decide (ts.length ≤ s.slotsFree i.part)

/-- Pre-empt a whole instance (R40): each of its strands is halted to be saved. -/
def State.haltInst (s : State) (k : Nat) : State :=
  let halt := fun (e : Nat × Strand) => if e.2.kinst = k ∧ e.2.run = .running then (e.1, e.2.halt .save) else e
  { s.modMem (·.unhold (fun n => (s.strand? n).any (fun t => decide (t.kinst = k)))) with strands := s.strands.map halt }
def State.preempt (s : State) (k : Nat) : State := (s.haltInst k).awaitRestore k
/-- Begin to move an instance (R39): it is saved, and restored at once at its first candidate. -/
def State.beginMove (s : State) (k : Nat) : State := (s.haltInst k).modInst k (fun i => { i with move := true })

/-- PLACER_MOVE (R39, R374): the placer moves an instance, while no other move is in progress in its partition. -/
def execPlacerMove (k : Nat) (s : State) : Host.Outcome State Fault Refusal :=
  .next (match s.inst? k with
    | none => s
    | some i => if s.mayPreempt k i && !s.moving i.part then s.beginMove k else s)

/-! ### Ageing, compaction, pre-emption for a launch (R371, R374, R375) -/

/-- PRIORITY_PROMOTION (R371): the waiting launch of the agent's index is promoted one level after 2^20 ck at its level. -/
def execPriorityPromotion (s : State) : Host.Outcome State Fault Refusal :=
  .next (match s.waiting[s.agent.b]? with
    | none => s
    | some w =>
      let up := fun (w : Waiting) => { w with level := w.level - 1, since := s.clock }
      if w.part = s.agent.a ∧ 0 < w.level ∧ w.since + 2 ^ 20 ≤ s.clock then { s with waiting := modAt up s.waiting s.agent.b } else s)

/-- The most that any strand of a launch needs of each resource (R374). -/
def maxNeed (ns : List Need) : Need :=
  let mx := fun (f : Need → Nat) => ns.foldl (fun a n => max a (f n)) 0
  ⟨0, ⟨mx (·.allot.cwn), mx (·.allot.nsl), mx (·.allot.nrg), mx (·.allot.tkn), mx (·.allot.nag), mx (·.allot.share)⟩, none, mx (·.banks), mx (·.posts), mx (·.ovfs)⟩

/-- The cores of a partition, row by row. -/
def coresOfPart (p : Nat) : List Nat := (span 0 8).flatMap (fun j => (span 0 16).map (fun i => coreAt (partX p + i) (partY p + j)))

/-- Whether the free resources of the partition's cores would suffice for a launch, wherever they lie (R374). -/
def State.suffices (s : State) (x : Spot) (ns : List Need) : Bool :=
  let need := maxNeed ns
  let free := (coresOfPart x.part).filter (fun c =>
    roomFor (s.strands.filter (fun e => decide (coreOfSn e.1 = c))) need &&
    -- a reserved footprint counts as free for the context's own launch (R404)
    !((span 0 32).any (fun k =>
      let o := cfgGet s.mem.cfg (offPctx k)
      s.mem.keyAgainst x.part (bitsOf o 0 8) (bitsOf o 8 8) x.logw x.logh k && s.mem.keyCore k c)))
  decide (2 ^ (x.logw + x.logh) ≤ free.length)

/-- Place of an origin in row-major order; that of an instance, where several share an origin. -/
def rowMajor (ox oy : Nat) : Nat := 32 * oy + ox
def passPlace (k : Nat) (i : Inst) : Nat := 65536 * rowMajor i.ox i.oy + k

/-- The first waiting launch of a partition at its highest waiting level, if it has no candidate (R374). -/
def State.stuck (s : State) (p : Nat) : Option Waiting :=
  match s.competing p with
  | w :: _ => if (s.spotFor w).isNone then some w else none
  | [] => none

/-- The instance that a compaction pass moves next after a place in row-major order (R374): of a lower or equal level, with an earlier candidate
when its own pages count as free, and image slots for its strands. -/
def State.compactPick (s : State) (p level after : Nat) : Option (Nat × Inst) :=
  let mine := sortBy (fun a b => decide (passPlace a.1 a.2 ≤ passPlace b.1 b.2)) (s.insts.filter (fun e => decide (e.2.part = p) && decide (level ≤ e.2.level)))
  mine.find? (fun e =>
    decide (after ≤ passPlace e.1 e.2) && s.mayPreempt e.1 e.2 &&
    (let x : Spot := { s.spotOf e.1 with own := some e.1, fixed := none }
     let ns := (s.standing e.1).map (fun y => (savedRec y.1 y.2 none false).need)
     match s.candidate x ns with
     | some o => decide (rowMajor o.1 o.2 < rowMajor e.2.ox e.2.oy)
     | none => false))

/-- Key of the place that the compaction pass of a partition has reached. -/
def passKey (p : Nat) : Nat := 20000 + p

/-- COMPACTION_PASS (R374): for the first waiting launch without a candidate, when the partition's free resources suffice, the next instance of
the pass is moved; after the last, a new pass begins. -/
def execCompactionPass (s : State) : Host.Outcome State Fault Refusal :=
  let p := s.agent.a
  .next (if s.moving p then s else match s.stuck p with
    | none => { s with turns := tblErase s.turns (passKey p) }
    | some w =>
      match s.wants w with
      | none => s
      | some (x, ns) =>
        if !s.suffices x ns then s
        else match s.compactPick p w.level (tblGet 0 s.turns (passKey p)) with
          | some (k, i) => ({ s with turns := tblPut 0 s.turns (passKey p) (passPlace k i + 1) }).beginMove k
          | none => { s with turns := tblErase s.turns (passKey p) })

/-- Whether compaction has nothing to do for a launch (R374, R375). -/
def State.compacted (s : State) (p : Nat) (w : Waiting) : Bool :=
  match s.wants w with
  | none => true
  | some (x, ns) => !s.suffices x ns || (s.compactPick p w.level 0).isNone

/-- The state without the strands of some instances, as the placer would find it. -/
def State.without (s : State) (ks : List Nat) : State := { s with strands := s.strands.filter (fun e => !(ks.any (fun k => decide (k = e.2.kinst)))) }

/-- The fewest first instances of a list whose pre-emption gives a launch a candidate. -/
def State.victims (s : State) (w : Waiting) (ks : List Nat) : Option (List Nat) :=
  ((span 1 ks.length).map (fun n => ks.take n)).find? (fun vs => ((s.without vs).spotFor w).isSome)

/-- The first competing launch of a partition without a candidate even after compaction (R375). -/
def State.unplaced (s : State) (p : Nat) : Option Waiting :=
  (s.competing p).find? (fun w => (s.spotFor w).isNone && (s.wants w).isSome && s.compacted p w)

/-- The instances of lower priority than a launch that stand on cores, lowest first and most recently started first (R375). -/
def State.lowerInsts (s : State) (p : Nat) (w : Waiting) : List Nat :=
  (sortBy (fun a b => decide (b.2.level < a.2.level) || (decide (a.2.level = b.2.level) && decide (b.2.start ≤ a.2.start)))
    (s.insts.filter (fun e => decide (e.2.part = p) && decide (w.level < e.2.level) && !e.2.priv && e.2.esc.isNone && !(s.standing e.1).isEmpty))).map (·.1)

/-- PRIORITY_PREEMPT (R375): for a waiting launch without a candidate even after compaction, instances of lower priority are pre-empted, lowest
first and most recently started first, as many as give it one; none if all would not, or while image slots are short. -/
def execPriorityPreempt (s : State) : Host.Outcome State Fault Refusal :=
  let p := s.agent.a
  .next (if s.moving p || s.strands.any (fun e => decide (partOfSn e.1 = p) && decide (e.2.run = .halted .save)) then s
    else match s.unplaced p with
      | none => s
      | some w =>
        match s.victims w (s.lowerInsts p w) with
        | none => s
        | some vs =>
          let n := (vs.map (fun k => (s.standing k).length)).sum
          if n ≤ s.slotsFree p ∧ vs.all (fun k => s.mayPreempt k (s.instOf k)) = true then vs.foldl State.preempt s else s)

/-- QUANTUM_EXPIRY (R375): the agent's instance has run its quantum while a launch of an equal or higher level waits without a candidate. -/
def execQuantumExpiry (s : State) : Host.Outcome State Fault Refusal :=
  let k := s.agent.a
  .next (match s.inst? k with
    | none => s
    | some i =>
      let quant := bitsOf (cfgGet s.mem.cfg (offWdcfg i.part)) 40 16
      if quant ≠ 0 ∧ i.start + quant * 65536 ≤ s.clock ∧ s.mayPreempt k i = true ∧
          (s.competing i.part).any (fun w => decide (w.level ≤ i.level) && (s.spotFor w).isNone) = true then s.preempt k else s)

/-! ### Escalation (R156, R348) -/

/-- The bytes of an escalation record (R348). -/
def escRecord (sn gen : Nat) (t : Strand) : List Byte :=
  let c := t.seq.trap.tcause.toNat
  toBytes 8 t.seq.trap.tpc.toNat ++ toBytes 2 sn ++ toBytes 1 4 ++ toBytes 1 0 ++ toBytes 4 gen ++ toBytes 8 t.seq.trap.tval.toNat ++
  toBytes 1 (bitsOf c 0 8) ++ toBytes 1 (bitsOf c 16 3) ++ toBytes 1 (bitsOf c 8 8) ++ toBytes 1 0 ++ toBytes 2 t.kinst ++ toBytes 2 0

/-- What is kept of an escalating strand (R156): its record, and its image where a slot is free; none while a write of the image waits. -/
def State.keepEsc (s : State) (e : Nat × Strand) : Option State :=
  let (sn, t) := e
  let p := partOfSn sn
  let s := s.modMem (fun m => (m.postRecord p (escRecord sn (m.gen p) t)).2)
  match (if s.slotsFree p = 0 then none else s.freeSlot p) with
  | none => some s
  | some n => do
    let s := s.unsend sn (t.setWait .none)
    let t := (s.strand? sn).getD t
    let s ← s.writeImage (s.instOf t.kinst) p n sn t t.bankList
    some { s with saved := s.saved ++ [savedRec sn t (some n) true] }

/-- The escalating strands whose images are kept: as many as there are free slots (R156, R382). -/
def State.keeps (s : State) (p : Nat) (ts : List (Nat × Strand)) : List (Nat × Strand) :=
  (ts.filter (fun e => decide (e.2.run = .halted .keep))).take (s.slotsFree p)

/-- Whether the region of a strand that is kept has ended, as at a release (R43, R129). -/
def State.keptDone (s : State) (e : Nat × Strand) : Bool := match e.2.seq.wait with | .release q => s.relDone e.1 q | _ => false

/-- The region of a strand that is kept begins to end, when it may (R130). -/
def State.keptRelease (s : State) (e : Nat × Strand) : State :=
  match e.2.seq.wait with
  | .release _ => s
  | _ => if s.canRelease e.1 e.2 then (s.endRegion e.1).modStrand e.1 (·.setWait (.release e.2.seq.ctl.cseq)) else s

/-- ESCALATION (R156, R372): when no reply of any strand of the escalating strand's instance is outstanding, the regions of the strands that are kept
end (R43); when that release is complete, what is kept of the escalating strands is written, the others end without a save, and the packet completes
with 0x80 + the cause. -/
def execEscalation (s : State) : Host.Outcome State Fault Refusal :=
  s.forStrand fun _ t =>
    let ts := s.standing t.kinst
    let i := s.instOf t.kinst
    if t.run ≠ .halted .keep ∨ ts.all (fun e => decide (e.2.run ≠ .running) && s.replyFree e.1 e.2) = false ∨ s.admits i.part = false then s
    else if !(s.keeps i.part ts).all s.keptDone then (s.keeps i.part ts).foldl State.keptRelease s
    else match (ts.filter (fun e => decide (e.2.run = .halted .keep))).foldlM State.keepEsc s with
      | none => s
      | some s =>
        let s := ts.foldl (fun s e => s.removeStrand e.1) s
        let s := { s with saved := s.saved.filter (fun v => !(decide (v.kinst = t.kinst) && !v.kept)) }
        s.endInst t.kinst (0x80 + i.esc.getD 0)

/-! ### Partition reset (R31, R386-R389) -/

/-- A reset of a partition is due: it is merged with one that is due already (R386). -/
def State.dueReset (s : State) (p : Nat) : State :=
  let mv : Move := .event .partitionReset p 0 0
  if s.agenda.any (fun m => decide (m = mv)) then s else { s with agenda := mv :: s.agenda }

/-- A write under way when its partition is reset (R386): each byte is performed or discarded, the choice the device's. -/
def State.scatter (p : Nat) : State → Place → List PB → State
  | s, _, [] => s
  | s, pl, b :: bs =>
    let (i, m) := s.mem.pick 2
    let s := s.setMem m
    let put := fun (pa : Nat) => s.modMem (fun m => (m.ownWrite p pa [b]).getD m)
    let write := decide (i = 1)
    match pl with
    | .bank k off => State.scatter p (if write then s.modMem (fun m => m.bankWrite k off [b]) else s) (.bank k (off + 1)) bs
    | .frame pa => State.scatter p (if write then put pa else s) (.frame (pa + 1)) bs
    | .fwd loc a va => State.scatter p (if write then s.sendWrite p loc a [b] else s) (.fwd loc (a + 1) (va + 1)) bs
    | .unb va hd tbl sz =>
      let e := s.mem.peek64 (backingEntry tbl va sz)
      State.scatter p (if write && bitOf e 0 && !backingBad e then put (bitsOf e 12 27 * 4096 + va % 4096) else s) (.unb (va + 1) hd tbl sz) bs

/-- The bytes that a place holds, for an update under way. -/
def State.oldBytes (s : State) (pl : Place) (n : Nat) : List PB :=
  match pl with
  | .bank b off => s.mem.bankRead b off n
  | .frame pa => s.mem.peek pa n
  | .fwd loc a _ => s.extRead loc a n
  | .unb va _ tbl sz => s.mem.peek (bitsOf (s.mem.peek64 (backingEntry tbl va sz)) 12 27 * 4096 + va % 4096) n

/-- The writes under way of a strand. -/
def State.scatterStrand (s : State) (sn : Nat) (t : Strand) : State :=
  let p := partOfSn sn
  let s := (t.seq.stores.flatMap (·.parts)).foldl (fun s x => if x.done then s else s.scatter p x.place x.data) s
  (t.seq.loads ++ t.seq.reds).foldl (fun s x => match x.kind with
    | .atom a false _ _ _ _ => x.parts.foldl (fun s y => if y.done then s else s.scatter p y.place (a.apply (s.oldBytes y.place y.n))) s
    | _ => s) s

/-- Bytes on their way to the window of a strand of an instance. -/
def State.scatterTo (s : State) (k lin off : Nat) (data : List PB) : State :=
  match (s.snOf k lin).bind s.strand? with
  | some t => (match (t.slot (off / 65536)).bank with
    | some b => s.scatter (s.instOf k).part (.bank b (off % 65536)) data
    | none => s)
  | none => s

/-- A queue at a partition reset (R386, R388): it replays from RIDX to where it had read. -/
def Queue.replay (x : Queue) : Queue :=
  let upTo := if x.st = .replay then x.upTo else x.head
  { x with st := if x.ridx = upTo then .active else .replay, head := x.ridx, pkts := [], upTo := upTo, parked := none }

/-- The memory side after a partition reset (R386, R387). -/
def Mem.partReset (m : Mem) (p clock : Nat) : Mem :=
  let free := fun (l : Line) => { l with
    pinned := if l.part = p then false else l.pinned
    races := l.races.map (fun r => { r with writer := r.writer.filter (fun w => decide (partOfSn w.sn ≠ p)), readers := r.readers.filter (fun e => decide (partOfSn e.1 ≠ p)) }) }
  let mask := m.mask.map (fun (c : MaskChange) => if c.part = p then { c with waitSince := none } else c)
  let scrubbed := match m.scrubs with | k :: _ => decide (bitsOf (cfgGet m.cfg (offPctx k)) 24 4 = p) | [] => false
  { m with
    lines := (m.lines.filter (fun l => !(l.unb && decide (l.part = p)))).map free
    cfg := cfgField m.cfg (offUbctl p) 0 22 0
    rseqT := m.rseqT.filter (fun e => decide (partOfSn (e.1 % 8192) ≠ p))
    rel := m.rel.filter (fun r => decide (partOfSn r.sn ≠ p))
    spills := m.spills.filter (fun x => decide (x.part ≠ p))
    mask := mask
    scrubAt := if scrubbed then clock else m.scrubAt }

/-- A memory node without the requests of a partition. -/
def Node.without (p : Nat) (n : Node) : Node :=
  ⟨n.queue.filter (fun r => decide (r.part ≠ p)), n.prog.filter (fun r => decide (r.req.part ≠ p))⟩

/-- A queue of a reset partition replays, receives PARTITION_RESET, and has its HEAD written where the front end reads it (R386). -/
def State.resetQueue (s : State) (p q : Nat) : State :=
  let x := (s.queue q).replay
  let s := (s.setQueue q x).report (.partitionReset p q)
  if s.qOn q then s.qWrite q 8 8 x.head else s

/-- PARTITION_RESET (R386, R387): the partition's strands stop without a save, what they hold is dropped, and its queues replay. -/
def execPartitionReset (s : State) : Host.Outcome State Fault Refusal :=
  let p := s.agent.a
  let ofP := fun (k : Nat) => decide ((s.instOf k).part = p)
  let mine := s.strands.filter (fun e => decide (partOfSn e.1 = p))
  let s1 := mine.foldl (fun s e => s.scatterStrand e.1 e.2) s
  let s1 := (s.chunks.filter (fun c => ofP c.kinst)).foldl (fun s c => s.scatterTo c.kinst c.tlin c.off c.data) s1
  let s1 := (s.redirs.filter (fun r => ofP r.kinst)).foldl (fun s r => s.scatterTo r.kinst r.tlin r.dst (pbOf (r.w / 8) r.val r.pois)) s1
  let quietCore := fun (e : Nat × Core) => if partOf e.1 = p then (e.1, { e.2 with alloc := 0, ent := 0, pend := none, rr := 3, ic := [], cc := [], l1 := [] }) else e
  let unheld := fun (v : Saved) => if v.part = p then { v with slot := none } else v
  let s2 := { s1 with
    strands := s.strands.filter (fun e => decide (partOfSn e.1 ≠ p))
    insts := s.insts.filter (fun e => decide (e.2.part ≠ p))
    saved := (s.saved.filter (fun (v : Saved) => decide (v.part ≠ p) || (v.kept && v.banks.all (fun y => y.2.2.isNone)))).map unheld
    chunks := s.chunks.filter (fun c => !ofP c.kinst), msgs := s.msgs.filter (fun c => !ofP c.kinst)
    toks := s.toks.filter (fun c => !ofP c.kinst), redirs := s.redirs.filter (fun c => !ofP c.kinst)
    waiting := s.waiting.filter (fun w => decide (w.part ≠ p) || (decide (4096 ≤ w.queue) && w.kinst.isNone))
    hostOps := s.hostOps.filter (fun h => decide (partOfSn h.sn ≠ p))
    rseqs := s.rseqs.filter (fun e => decide (partOfSn e.1 ≠ p))
    sweeps := s.sweeps.filter (fun e => decide (partOfSn e.1 ≠ p))
    places := s.places.filter (fun e => decide (partOf (groupCore (e.1 / 64) 0) ≠ p))
    staged := s.staged.filter (fun x => decide (x.part ≠ p))
    nodes := (s.nodes.map (fun (e : Nat × Node) => (e.1, e.2.without p))).filter (fun (e : Nat × Node) => decide (e.2 ≠ Node.fresh))
    cores := (s.cores.map quietCore).filter (fun (e : Nat × Core) => decide (e.2 ≠ Core.fresh)) }
  let s3 := s2.modMem (fun m => m.partReset p s.clock)
  -- privileged launches belong to no queue: those that wait stay, those that ran are gone (R405)
  let priv := fun (x : Queue) => { x with pkts := x.pkts.filter (fun (k : Pkt) => decide (k.stage ≠ PkStage.started) || s2.waiting.any (fun w => decide (w.queue = 4096 + p) && decide (w.idx = k.idx))) }
  let s4 := s3.modQueue (4096 + p) priv
  .next (((span 0 4096).filter (fun q => decide (s.qPart q = p))).foldl (fun s q => s.resetQueue p q) s4)

/-- HANG (R389): the watchdog's count of the agent's instance has reached LIMIT. -/
def execHang (s : State) : Host.Outcome State Fault Refusal :=
  let k := s.agent.a
  .next (match s.inst? k with
    | none => s
    | some i =>
      let limit := bitsOf (cfgGet s.mem.cfg (offWdcfg i.part)) 0 40
      if limit ≠ 0 ∧ limit ≤ i.count then (s.report (.hang k)).dueReset i.part else s)

/-- Whether a hop list is malformed (R31). -/
def hopsBad : Nat → Nat → Bool → Bool
  | 0, _, _ => false
  | k + 1, h, ended =>
    let hop := h % 256
    if ended then decide (hop ≠ 0) || hopsBad k (h / 256) true
    else if hop % 16 = 0 then decide (bitsOf hop 4 2 = 3) || hopsBad k (h / 256) true
    else decide (bitsOf hop 4 2 = 3) || hopsBad k (h / 256) false

/-- UNCONTAINED_FAULT (R31, R386): a route header that R31 calls a device error resets its partition. -/
def execUncontainedFault (p : Nat) (header : BitVec 64) (s : State) : Host.Outcome State Fault Refusal :=
  .next (if p < 12 ∧ hopsBad 8 header.toNat false = true then (s.report (.uncontained p header.toNat)).dueReset p else s)

/-! ### PRECTL (R387) -/

/-- PRECTL_RST (R386, R387): firmware resets a partition. -/
def execPrectlRst (v : BitVec 64) (s : State) : Host.Outcome State Fault Refusal :=
  .next (s.fwStore 1 offPrectl fun s => if v.getLsbD 63 && v.getLsbD 62 && decide (bitsOf v.toNat 16 4 < 12) then s.dueReset (bitsOf v.toNat 16 4) else s)

/-- PRECTL_EVICT (R387): an instance is saved whole, its banks are written, and its packet completes with 0x0B; while image slots are short the
cause waits (R375). A privileged instance is never evicted (R405). -/
def execPrectlEvict (v : BitVec 64) (s : State) : Host.Outcome State Fault Refusal :=
  let k := bitsOf v.toNat 0 16
  .next (s.fwStore 1 offPrectl fun s => if !(v.getLsbD 63 && v.getLsbD 61) then s
    else match s.inst? k with
      | none => s
      | some i =>
        if i.priv || i.evict || i.esc.isSome then s
        else
          let out := { (s.haltInst k).modInst k (fun i => { i with evict := true, move := false }) with waiting := s.waiting.filter (fun w => decide (w.kinst ≠ some k)) }
          if (s.standing k).isEmpty then
            (out.evictDone k).getD (s.again (.prectlEvict v))
          else if (s.standing k).countP (fun e => decide (e.2.run = .running)) ≤ s.slotsFree i.part then out
          else s.again (.prectlEvict v))

/-- PRECTL_FREE (R382, R387): the image slots kept of an instance are freed, with the banks still held for them. -/
def execPrectlFree (v : BitVec 64) (s : State) : Host.Outcome State Fault Refusal :=
  let k := bitsOf v.toNat 0 16
  let free := fun (x : Saved) => if x.kinst = k ∧ x.kept = true then { x with slot := none, banks := x.banks.map (fun y => (y.1, y.2.1, none)) } else x
  .next (s.fwStore 1 offPrectl fun s => if v.getLsbD 63 && v.getLsbD 60 then { s with saved := s.saved.map free } else s)

end Sys2Proof.Machine
end

