-- ==== Sys2Proof/Machine/Sec.lean ====
section
/-! DEFINITION. Key slots and the scrub engine (R400-R404) and the SEC instructions (R406, R407). -/
namespace Sys2Proof.Machine

/-- ST of a key slot (R400): 0 IDLE, 1 LOADED, 2 ZEROED, 3 SCRUBBING. -/
def Mem.kst (m : Mem) (k : Nat) : Nat := bitsOf (cfgGet m.cfg (offKstat k)) 0 2
/-- Set ST of a key slot. -/
def Mem.setKst (m : Mem) (k st : Nat) : Mem := { m with cfg := cfgField m.cfg (offKstat k) 0 2 st }

/-- The units of a slot's scrub, in order (R403): its banks, then the 64 KiB units of its ranges. -/
inductive ScrubUnit where
  | bank (b : Nat)
  | frame (pa : Nat)
  deriving DecidableEq, Repr

/-- All units of a slot's scrub: NBANK + the sum of N (R403). -/
def Mem.scrubUnits (m : Mem) (k : Nat) : List ScrubUnit :=
  let c := cfgGet m.cfg (offPctx k)
  (span 0 (bitsOf c 32 5)).map (fun j => ScrubUnit.bank (bitsOf (cfgGet m.cfg (offPcbank k j)) 0 14)) ++
  (span 0 (bitsOf c 40 4)).flatMap (fun r =>
    let x := cfgGet m.cfg (offKrange k r)
    (span 0 (bitsOf x 0 16)).map (fun i => ScrubUnit.frame ((bitsOf x 16 23 + i) * 65536)))

/-- SCRPROG (R403): ST of KSTAT in its top bits. -/
def Mem.scrprog (m : Mem) (k : Nat) : Nat := m.kst k * 2 ^ 62 + cfgGet m.cfg (offScrprog k) % 2 ^ 62

/-- The end of a scrub (R403): the slot's registers become zero, and it is IDLE, which releases what R404 withholds. -/
def Mem.scrubEnd (m : Mem) (k : Nat) : Mem :=
  let zero := offPctx k :: ((span 0 16).map (offPcbank k) ++ (span 0 8).map (offKrange k))
  ({ m with cfg := zero.foldl (fun c o => cfgPut c o 0) m.cfg, scrubs := m.scrubs.filter (fun x => decide (x ≠ k)) } : Mem).setKst k 0

/-- A SEC instruction (R406): PRIV without security privilege, then POISON, then ILLEGAL for a ga that names no slot. -/
def secOp (i : Instr) (gd ga : Reg) (others : List Reg) (f : Nat → Strand → Nat → State → State) (s : State) : Host.Outcome State Fault Refusal :=
  s.onStrand fun sn t =>
    if t.secp = false then s.trap sn 0x02 0 0 i.tval.toNat
    else if t.busy (gd :: ga :: others) then s
    else match t.firstPois (ga :: others) with
      | some r => s.poisonTrap sn r
      | none => if (t.g ga).toNat / 32 ≠ 0 then s.illegal sn i.tval else f sn t ((t.g ga).toNat) s

/-- `kset` (R407): the 64 bytes at gb become the slot's keys, and are zeroed. -/
def execKset (gd ga gb : Reg) : State → Host.Outcome State Fault Refusal :=
  secOp (.kset gd ga gb) gd ga [gb] fun sn t k s =>
    let va := (t.g gb).toNat
    if inWindow va = false ∨ va % 64 ≠ 0 then s.trap sn 0x04 0 2 va
    else match s.mem.slotAns t (winSlot va) with
      | .detached => s.trap sn 0x03 0 0 va
      | .wait => s
      | .bank b =>
        if t.blocked t.seq.seq false (winPart t va 64 []) then s
        else
          let bytes := s.mem.bankRead b (winOff va) 64
          let ret := fun (s : State) (code : Nat) => s.modStrand sn (fun t => t.done 4 gd (BitVec.ofNat 64 code) false)
          let st := s.mem.kst k
          if st = 1 then ret s 1
          else if 2 ≤ st then ret s 2
          else if pbPois bytes then ret s 3
          else
            let d := pbBytes bytes
            let m := (s.mem.bankWrite b (winOff va) (pbOf 64 0 false)).setKst k 1
            ret (s.setMem { m with keys := tblPut (0, 0) m.keys k (ofBytes (d.take 32), ofBytes (d.drop 32)) }) 0

/-- `kzero` (R407). -/
def execKzero (gd ga : Reg) : State → Host.Outcome State Fault Refusal :=
  secOp (.kzero gd ga) gd ga [] fun sn _ k s =>
    let ret := fun (s : State) (code : Nat) => s.modStrand sn (fun t => t.done 4 gd (BitVec.ofNat 64 code) false)
    let st := s.mem.kst k
    if st = 1 then ret (s.modMem (fun m => { m.setKst k 2 with keys := tblErase m.keys k })) 0
    else if st = 0 then ret s 2 else ret s 1

/-- `scrgo` (R407): a ZEROED slot whose footprint no live strand stands on begins its scrub. -/
def execScrgo (gd ga : Reg) : State → Host.Outcome State Fault Refusal :=
  secOp (.scrgo gd ga) gd ga [] fun sn _ k s =>
    let ret := fun (s : State) (code : Nat) => s.modStrand sn (fun t => t.done 4 gd (BitVec.ofNat 64 code) false)
    let st := s.mem.kst k
    if st = 3 then ret s 1
    else if st = 1 then ret s 2
    else if st = 0 then ret s 3
    else if s.strands.any (fun e => s.mem.keyCore k (coreOfSn e.1)) then ret s 4
    else
      let total := (s.mem.scrubUnits k).length
      let m := s.mem.setKst k 3
      let m := { m with cfg := cfgPut m.cfg (offScrprog k) (total * 2 ^ 32), scrubAt := if m.scrubs.isEmpty then s.clock else m.scrubAt, scrubs := m.scrubs ++ [k] }
      ret (s.setMem (if total = 0 then m.scrubEnd k else m)) 0

/-- `scrq` (R407): a snapshot of SCRPROG. -/
def execScrq (gd ga : Reg) : State → Host.Outcome State Fault Refusal :=
  secOp (.scrq gd ga) gd ga [] fun sn _ k s =>
    s.modStrand sn (fun t => t.done 4 gd (BitVec.ofNat 64 (s.mem.scrprog k)) false)

/-- SCRUB_UNIT (R403): a unit of the scrub that runs is complete: a bank takes at least 1,024 ck, a unit of a range at least 512 ck, and a range
waits through shutters and for an entry of the schedule that admits PART. -/
def execScrubUnit (s : State) : Host.Outcome State Fault Refusal :=
  .next (match s.mem.scrubs with
    | [] => s
    | k :: _ =>
      let m := s.mem
      let n := bitsOf (cfgGet m.cfg (offScrprog k)) 0 24
      let step := fun (m : Mem) =>
        let m := { m with cfg := cfgField m.cfg (offScrprog k) 0 24 (n + 1), scrubAt := s.clock }
        if bitsOf (cfgGet m.cfg (offScrprog k)) 32 24 ≤ n + 1 then m.scrubEnd k else m
      match (m.scrubUnits k)[n]? with
      | none => s.setMem (m.scrubEnd k)
      | some (.bank b) => if m.scrubAt + 1024 ≤ s.clock then s.setMem (step (m.bankZero b)) else s
      | some (.frame pa) => if m.scrubAt + 512 ≤ s.clock ∧ m.devOpen pa = true ∧ s.admits (bitsOf (cfgGet m.cfg (offPctx k)) 24 4) = true then
          s.setMem (step (m.zeroUnit pa)) else s)

/-- The width of the fields of PCTX, PCBANK and KRANGE, as a mask (R401). -/
def keyRegMask (r : Nat) : Nat :=
  if r = 0x10 then 2 ^ 63 + 15 * 2 ^ 40 + 31 * 2 ^ 32 + 15 * 2 ^ 24 + 3 * 2 ^ 20 + 7 * 2 ^ 16 + 0xFFFF
  else if r < 0xC0 then 2 ^ 14 - 1
  else 2 ^ 39 - 1

/-- Whether an offset in a key slot's block is PCTX, PCBANK or KRANGE (R392). -/
def keyReg (r : Nat) : Bool := decide (r % 8 = 0) && (decide (r = 0x10) || (decide (0x40 ≤ r) && decide (r < 0x100)))

/-- KEY_SLOT_REG_WRITE (R392, R401): a write by M mode, at an offset from CFG; refused, with REF set, unless the slot is IDLE; at an offset that is no
register of a key slot it raises the access fault (R391). -/
def execKeySlotRegWrite (off : Nat) (v : BitVec 64) (s : State) : Host.Outcome State Fault Refusal :=
  let k := (off - 0x80000) / 512
  let r := (off - 0x80000) % 512
  .next (if off < 0x80000 ∨ 32 ≤ k ∨ keyReg r = false then s.fwStore 4 off id
    else s.fwStore 3 off fun s => if s.mem.kst k ≠ 0 then s.modMem (fun m => { m with cfg := cfgField m.cfg (offKstat k) 8 1 1 })
    else s.modMem (fun m => { m with cfg := cfgField (cfgPut m.cfg off (Nat.land v.toNat (keyRegMask r))) (offKstat k) 8 1 0 }))

end Sys2Proof.Machine
end

