-- ==== Sys2Proof/Machine/Firm.lean ====
section
/-! DEFINITION. Firmware and the outside of the package: configuration registers (R391, R392), boot, recovery and attestation (R393-R397),
virtual functions (R398, R399), privileged launches (R405), ownership (R408), power (R409, R410), collective groups (R412-R414), and the
word that is no instruction (R81). -/
namespace Sys2Proof.Machine

/-- UNASSIGNED_OPCODE (R79, R81): a word whose major opcode is reserved raises ILLEGAL. -/
def execUnassignedOpcode (w : BitVec 32) (s : State) : Host.Outcome State Fault Refusal :=
  s.onStrand fun sn _ => s.illegal sn (wordsTval w 0)

/-! ### Configuration registers (R391, R392) -/

/-- Bits of a field, as a mask. -/
def fieldMask (lo n : Nat) : Nat := (2 ^ n - 1) * 2 ^ lo

/-- The mode and the RW bits of a register without behaviour of its own (R392): none for any other offset. Modes: 3 M, 1 S. -/
def plainReg (off : Nat) : Option (Nat × Nat) :=
  let ring := fieldMask 6 33 + fieldMask 0 4
  if off % 8 ≠ 0 then none
  else if off < 0x30 then some (3, fieldMask 0 32)
  else if off = offPwrlim ∨ (offDielim 0 ≤ off ∧ off < offDielim 4) then some (3, fieldMask 0 16)
  else if offPshare 0 ≤ off ∧ off < offPshare 12 then some (1, fieldMask 0 8)
  else if offRsvcfg 0 0 ≤ off ∧ off < offRsvcfg 12 0 ∧ off % 16 = 0 then some (1, ring)
  else if offUbctl 0 ≤ off ∧ off < offUbctl 12 then some (1, fieldMask 32 22)
  else if offPtbase 0 ≤ off ∧ off < offPtbase 12 then
    (if off % 64 = 0 then some (1, fieldMask 12 27 + 1)
     else if off % 64 = 0x10 ∨ off % 64 = 0x28 then some (1, ring)
     else if off % 64 = 0x18 then some (1, fieldMask 0 16)
     else if off % 64 = 0x30 then some (1, fieldMask 32 16)
     else none)
  else if offMgsrc 0 ≤ off ∧ off < offMgsrc 4 ∧ off % 64 < 0x18 then some (1, fieldMask 12 36)
  else if offImgcfg 0 ≤ off ∧ off < offImgcfg 12 ∧ off % 32 = 0 then some (1, fieldMask 21 18 + fieldMask 0 10)
  else if offImgcfg 0 ≤ off ∧ off < offImgcfg 12 ∧ off % 32 = 8 then some (1, fieldMask 0 56)
  else if offVfcfg 1 ≤ off ∧ off < offVfcfg 193 then some (1, fieldMask 0 6)
  else if offVfrange 1 0 ≤ off ∧ off < offVfrange 193 0 then some (1, fieldMask 0 39)
  else if offQcfg 0 ≤ off ∧ off < offQcfg 4096 ∧ off % 32 = 0 then some (1, fieldMask 63 1 + fieldMask 6 52 + fieldMask 5 1 + fieldMask 4 1 + fieldMask 0 4)
  else if offQcfg 0 ≤ off ∧ off < offQcfg 4096 ∧ off % 32 = 8 then some (1, fieldMask 0 4)
  else none

/-- The least mode of the registers of R392 (1 S, 3 M); none for an offset that it does not list. -/
def cfgMode (off : Nat) : Option Nat :=
  let within := fun (lo hi : Nat) => decide (lo ≤ off) && decide (off < hi)
  if off % 8 ≠ 0 then none
  else if within 0 0x38 || within offPwrlim (offDielim 4) || decide (off = offSeclaunch) then some 3
  else if within (offPshare 0) (offPwrstat + 8) || decide (off = offOwner) || within (offSlway 0 0) (offSlway 12 0) || within offSlwcmd (offSlwstat + 8) ||
    within (offRsvcfg 0 0) (offRsvcfg 12 0) || within (offUbctl 0) (offUbctl 12) || within (offPortctl 0) (offPortctl 12) ||
    (within (offHmrow 0 0) (offHmrow 8 0) && decide (off % 64 < 56)) || within (offPcoff 0 0) (offPcoff 8 0) ||
    (within (offPtbase 0) (offPtbase 12) && decide (off % 64 < 56)) || (within (offMgsrc 0) (offMgsrc 4) && decide (off % 64 < 32)) ||
    (within (offImgcfg 0) (offImgcfg 12) && decide (off % 32 < 16)) || decide (off = offPrectl) || within (offVfcfg 1) (offVfcfg 193) ||
    within (offVfrange 1 0) (offVfrange 193 0) || within (offVfclr 1) (offVfclr 193) || within (offQcfg 0) (offQcfg 4096) then some 1
  else if within (offKstat 0) (offKstat 32) then
    (let r := off % 512
     if r = 8 then some 1 else if r = 0 ∨ keyReg r = true then some 3 else none)
  else none

/-- A value with the bits of a mask replaced. -/
def maskIn (old mask v : Nat) : Nat := old - Nat.land old mask + Nat.land v mask

/-- The value that a plain register takes from a write: limits are capped (R409), a locked queue keeps its fields but for EN (R363), PORT of a
second function of a partition stays 0 (R398), and bit 31 of FBPTR and ACCPTR is cleared by writing 1 (R348, R349). -/
def cfgWrites (t : CfgTbl) (off mask v : Nat) : Nat :=
  let old := cfgGet t off
  let x := maskIn old mask v
  if off = offPwrlim then min x 2600
  else if offDielim 0 ≤ off ∧ off < offDielim 4 then min x 850
  else if offPtbase 0 ≤ off ∧ off < offPtbase 12 ∧ (off % 64 = 0x18 ∨ off % 64 = 0x30) then (if bitOf v 31 then x - bitsOf x 31 1 * 2 ^ 31 else x)
  else if offVfcfg 1 ≤ off ∧ off < offVfcfg 193 then
    let other := (span 1 192).any (fun w => decide (offVfcfg w ≠ off) && bitOf (cfgGet t (offVfcfg w)) 5 && decide (bitsOf (cfgGet t (offVfcfg w)) 0 4 = bitsOf v 0 4))
    (if other then x - bitsOf x 5 1 * 32 else x)
  else if offQcfg 0 ≤ off ∧ off % 32 = 0 then (if bitOf old 4 then maskIn old 16 v else x)
  else if offQcfg 0 ≤ off ∧ off % 32 = 8 then (if bitOf (cfgGet t (off - 8)) 4 then old else x)
  else x

/-- CFG_REGISTER_WRITE (R391, R392): a store of a firmware core in a mode (0 U, 1 S, 3 M). One that is not of 8 aligned bytes, from a mode below the
register's, or to an offset that R392 does not list, raises the core's access fault and has no effect. A register with behaviour of its own acts under the
event of its name; one with read-only fields alone keeps them. -/
def execCfgRegisterWrite (mode off : Nat) (v : List (BitVec 8)) (s : State) : Host.Outcome State Fault Refusal :=
  .next (match cfgMode off with
    | none => if s.boot.st = 1 then { s with outs := s.outs ++ [.cfgFault true off] } else s
    | some least => ({ s with agent := ⟨v.length, 0, mode⟩ } : State).fwStore least off fun s =>
      match plainReg off with
      | some (_, mask) => s.modMem (fun m => { m with cfg := cfgPut m.cfg off (cfgWrites m.cfg off mask (ofBytes v)) })
      | none => s)

/-- QSTAT of a queue (R364). -/
def State.qstat (s : State) (q : Nat) : Nat :=
  let x := s.queue q
  (match x.st with | .idle => 0 | .active => 1 | .stopped => 2 | .replay => 3) * 2 ^ 62 + x.err % 256 * 2 ^ 48 + x.head % 2 ^ 48

/-- What a load of the register at an offset gives (R392): fields that are write-only, and offsets that are not listed, read as 0. -/
def State.cfgValue (s : State) (off : Nat) : Nat :=
  if (cfgMode off).isNone then 0
  else if offQcfg 0 ≤ off ∧ off % 32 = 0x10 then s.qstat ((off - offQcfg 0) / 32)
  else if offKstat 0 ≤ off ∧ off < offKstat 32 ∧ off % 512 = 8 then s.mem.scrprog ((off - offKstat 0) / 512)
  else cfgGet s.mem.cfg off

/-- A load of the configuration space by a firmware core in a mode (R391): of another size or alignment than 8, or below the register's mode, it
raises the core's access fault. -/
def State.cfgLoad (s : State) (mode off n : Nat) : State :=
  let bad := decide (n ≠ 8) || decide (off % 8 ≠ 0) || (cfgMode off).any (fun least => decide (mode < least))
  if s.boot.st ≠ 1 then s else { s with outs := s.outs ++ [if bad then .cfgFault false off else .cfgData off (s.cfgValue off)] }

/-! ### Virtual functions (R399) -/

/-- The 64 KiB units of a function's ranges, in clearing order. -/
def Mem.vfUnits (m : Mem) (v : Nat) : List (Nat × Nat) :=
  (span 0 4).flatMap (fun r =>
    let x := cfgGet m.cfg (offVfrange v r)
    (span 0 (bitsOf x 0 16)).map (fun i => (v, (bitsOf x 16 23 + i) * 65536)))

/-- VF_FLR (R399): every unit of the function's ranges is uncleared. -/
def execVfFlr (v : Nat) (s : State) : Host.Outcome State Fault Refusal :=
  .next (if 1 ≤ v ∧ v ≤ 192 then s.modMem (fun m =>
    { m with unclr := m.unclr.filter (fun x => decide (x.1 ≠ v)) ++ m.vfUnits v, cfg := cfgPut m.cfg (offVfclr v) 0 }) else s)

/-- VF_CLEAR_UNIT (R399): the clear engine zeroes the next unit of the agent's function. -/
def execVfClearUnit (s : State) : Host.Outcome State Fault Refusal :=
  .next (match s.mem.unclr.find? (fun x => decide (x.1 = s.agent.a)) with
    | some (v, u) => if s.mem.devOpen u then s.modMem (fun m => m.clearUnit v u) else s
    | none => s)

/-! ### Privileged launches (R405) -/

/-- SECLAUNCH_GO (R405): the LAUNCH packet at ADDR is launched into PART with the privilege mark; it waits as a queue of its own. -/
def execSeclaunchGo (v : BitVec 64) (s : State) : Host.Outcome State Fault Refusal :=
  let p := bitsOf v.toNat 0 4
  .next (s.fwStore 3 offSeclaunch fun s => if v.getLsbD 63 = false ∨ 12 ≤ p then s
    else match (s.mem.ownRead p (bitsOf v.toNat 6 52 * 64) 64).bind (fun r => ((s.setMem r.2).touchHead p (fld (pbBytes r.1) 8 8)).map (fun t => (pbBytes r.1, t))) with
    | none => s.again (.seclaunchGo v)
    | some (b, s) =>
      let q := 4096 + p
      let idx := s.kcount
      let good := pktOk b && decide (fld b 0 1 = 1)
      let sig := if sigOk (fld b 56 8) then fld b 56 8 else 0
      let s := { s with kcount := idx + 1 }
      let s := s.modQueue q (fun x => { x with pkts := x.pkts ++ [⟨idx, 1, sig, .started, none⟩], done := [] })
      let e := if good then s.launchError p b else 0x01
      if e ≠ 0 then s.qFinish q idx e
      else { s with waiting := s.waiting ++ [⟨p, q, idx, b, fld b 27 1, s.clock, none, false⟩] })

/-! ### Ownership (R408) -/

/-- A second, in ck. -/
def oneSecond : Nat := 2100000000
/-- CUR, OFFER and PEND of OWNER. -/
def State.owner (s : State) : Nat := bitsOf (cfgGet s.mem.cfg offOwner) 0 2
def State.offer (s : State) : Nat := bitsOf (cfgGet s.mem.cfg offOwner) 4 2
def State.offerPend (s : State) : Bool := bitOf (cfgGet s.mem.cfg offOwner) 8
/-- Write OWNER. -/
def State.setOwner (s : State) (cur offer : Nat) (pend : Bool) : State :=
  s.modMem (fun m => { m with cfg := cfgPut m.cfg offOwner (cur + 16 * offer + 256 * b2n pend) })

/-- The commands that are refused to a master that does not own the package (R408): those that write a register of R392, update the firmware or
change a binding. -/
def commandOf : Instr → Bool
  | .cfgRegisterWrite _ _ _ | .slwcmdGo _ | .rsvptrTailWrite _ _ _ | .portctlHostenWrite _ _ | .xinvGo _ _ | .fbctlFlush _ | .mgctlMove _ _
  | .mgctlCheckpointRead _ _ | .mgctlRehome _ _ | .prectlRst _ | .prectlEvict _ | .prectlFree _ | .seclaunchGo _ | .pschedldGo
  | .keySlotRegWrite _ _ | .qctlRun _ | .qctlSkip _ | .fuseMinver => true
  | _ => false

/-- CLAIM (R408): a claim while nobody owns the package, or by the master that a handover is offered to, within a second. -/
def execClaim (m : Nat) (s : State) : Host.Outcome State Fault Refusal :=
  .next (if m = 0 ∨ 3 < m ∨ s.boot.st ≠ 1 then s
    else if s.offerPend = true ∧ s.offer = m ∧ s.clock < s.offered + oneSecond then s.setOwner m s.offer false
    else if s.owner = 0 then s.setOwner m s.offer s.offerPend
    else s)

/-- HANDOVER (R408): the owner offers ownership; another master is refused. -/
def execHandover (m t : Nat) (s : State) : Host.Outcome State Fault Refusal :=
  .next (if s.boot.st ≠ 1 then s
    else if m = 0 ∨ s.owner ≠ m then { s with outs := s.outs ++ [Out.notOwner m] }
    else if t = 0 ∨ 3 < t then s
    else { s.setOwner m t true with offered := s.clock })

/-- RELEASE (R408). -/
def execRelease (m : Nat) (s : State) : Host.Outcome State Fault Refusal :=
  .next (if s.boot.st ≠ 1 then s else if m = 0 ∨ s.owner ≠ m then { s with outs := s.outs ++ [Out.notOwner m] } else s.setOwner 0 s.offer s.offerPend)

/-- HANDOVER_TIMEOUT (R408). -/
def execHandoverTimeout (s : State) : Host.Outcome State Fault Refusal :=
  .next (if s.offerPend = true ∧ s.offered + oneSecond ≤ s.clock then s.setOwner s.owner s.offer false else s)

/-! ### Power (R409, R410) -/

/-- CURRENT_GATE (R410): the current of a die exceeds LIMA, and its cores are gated for the next ck. -/
def execCurrentGate (die : Nat) (s : State) : Host.Outcome State Fault Refusal :=
  .next { s with gated := if s.gated.any (fun d => decide (d = die)) then s.gated else s.gated ++ [die] }

/-- The sensor of a die measures its current, in A: above LIMA its cores are gated for the next ck (R410). -/
def State.current (s : State) (die amps : Nat) : State :=
  if cfgGet s.mem.cfg (offDielim die) < amps ∧ s.gated.any (fun d => decide (d = die)) = false then { s with gated := s.gated ++ [die] } else s

/-- The cores of a partition on which a strand stands. -/
def State.livesOf (s : State) (p : Nat) : List Nat := (coresOfPart p).filter (fun core => s.strands.any (fun e => decide (coreOfSn e.1 = core)))

/-- The ck beyond 525 of each core that the arbiter divides (R410): any number whose predicted power and currents stay within LIMW and LIMA. -/
def State.pool (s : State) (cores : Nat) : Nat × Mem :=
  let (x, m) := s.mem.pick (1575 * cores + 1)
  let fits := decide (Config.predictedPower m.draws x ≤ cfgGet m.cfg offPwrlim) &&
    (span 0 4).all (fun d => decide (Config.predictedCurrent m.draws d x ≤ cfgGet m.cfg (offDielim d)))
  (if cores = 0 then 0 else if fits then x else 0, m)

/-- G of a core of a partition (R410): 525, and its part of the pool: by WT among the partitions with live cores, then equally. -/
def State.grantOf (s : State) (pool p : Nat) : Nat :=
  let wt := fun (q : Nat) => if (s.livesOf q).isEmpty then 0 else cfgGet s.mem.cfg (offPshare q)
  min 2100 (525 + pool * wt p / ((span 0 12).map wt).sum / (s.livesOf p).length)

/-- GRANT_PERIOD (R409, R410): the arbiter measures the period that ended, whose average power stayed within the limit in force, and grants the cores
with a live strand their ck of the next (log entry 13). -/
def execGrantPeriod (s : State) : Host.Outcome State Fault Refusal :=
  let gatedCores := (s.cores.filter (fun e => e.2.gate)).length
  let (power, m) := s.mem.pick (s.limw + 1)
  let stat := power * 2 ^ 32 + (bitsOf (cfgGet m.cfg offPwrstat) 0 32 + gatedCores) % 2 ^ 32
  let s := s.setMem { m with cfg := cfgPut m.cfg offPwrstat stat }
  let ungate := fun (e : Nat × Core) => (e.1, { e.2 with gate := false })
  let s := { s with cores := (s.cores.map ungate).filter (fun (e : Nat × Core) => decide (e.2 ≠ Core.fresh)) }
  let (pool, m) := s.pool ((span 0 12).map (fun p => (s.livesOf p).length)).sum
  let s := { s.setMem m with limw := cfgGet m.cfg offPwrlim }
  .next ((span 0 12).foldl (fun s p => (s.livesOf p).foldl (fun s c => s.modCore c (fun x => { x with grant := s.grantOf pool p })) s) s)

/-! ### Collective groups (R412-R414) -/

/-- Member entry `i` of a descriptor. -/
def memberAt (d i : Nat) : Nat := d + 64 + 32 * i

/-- TICKET_WRITE (R413): a write to segment i, or to TICKET i, from package `pkg`: accepted from the present member i, else dropped and
reported. -/
def execTicketWrite (d pkg i : Nat) (ticket : Bool) (off : Nat) (data : List (BitVec 8 × Bool)) (s : State) : Host.Outcome State Fault Refusal :=
  let m := s.mem
  let e := memberAt d i
  let bound := if ticket then 8 else m.rd (d + 24) 8
  if 64 ≤ i ∨ bound < off + data.length then .next s
  else if m.rd (e + 2) 1 ≠ 1 ∨ m.rd e 2 ≠ pkg then .next ((s.serves d).report (.collectiveDrop d pkg))
  else
    let a := if ticket then e + 8 + off else m.rd (d + 16) 8 + i * m.rd (d + 24) 8 + off
    match m.ownWrite 12 a data with
    | some m => .next ((s.serves d).setMem m)
    | none => .next (s.again (.ticketWrite d pkg i ticket off data))

/-- Combine two 4-byte elements (R412, R414): FP32 sum, i32 sum with wrap, FP32 maximum. -/
def combine (op a b : Nat) : Nat × Fl :=
  if op = 1 then ((a + b) % 2 ^ 32, 0)
  else
    let r := if op = 0 then fpArith .add .f32 0 false false a b 0 0 else fpMinMax true .f32 false a b
    (r.bits, r.fl)

/-- Combine the segments of the counted members, element by element, in increasing index (R414). -/
def combineAll (op : Nat) : List (List Nat) → List Nat × Fl
  | [] => ([], 0)
  | s :: ss => ss.foldl (fun acc x =>
      let r := (acc.1.zip x).map (fun y => combine op y.1 y.2)
      (r.map (·.1), r.foldl (fun f y => f ||| y.2) acc.2)) (s, 0)

/-- A mask of member indices. -/
def maskOf (is : List Nat) : Nat := (is.map (2 ^ ·)).sum

/-- A field of a group's descriptor and members, as bytes read. -/
def dsc (b : List PB) (k n : Nat) : Nat := pbNat (slice b k n)
/-- The member indices of a descriptor in a state (R412): 1 present, 2 removed. -/
def membersIn (b : List PB) (st : Nat) : List Nat :=
  (span 0 (min (dsc b 4 1) 64)).filter (fun i => decide (dsc b (memberAt 0 i + 2) 1 = st))
/-- Whether every present member's TICKET names record DSEQ, with a stamp that is at least its JGEN (R414). -/
def recordReady (b : List PB) : Bool :=
  !(membersIn b 1).isEmpty && (membersIn b 1).all (fun i =>
    decide (dsc b (memberAt 0 i + 8) 4 = dsc b 56 8 % 2 ^ 32) && decide (dsc b (memberAt 0 i + 4) 4 ≤ dsc b (memberAt 0 i + 12) 4))
/-- The bytes of a descriptor with its members in use. -/
def Mem.dscLen (m : Mem) (d : Nat) : Nat := 64 + 32 * min (m.rd (d + 4) 1) 64

/-- PERFORM_RECORD (R414): when every present member's TICKET names the record, the engine reads the descriptor and the segments at their home slices,
combines the segments, writes the result and the log record, and advances DSEQ. -/
def execPerformRecord (s : State) : Host.Outcome State Fault Refusal :=
  let d := s.agent.a
  if !recordReady (s.mem.peek d (s.mem.dscLen d)) then .next s
  else match s.mem.ownRead 12 d (s.mem.dscLen d) with
  | none => .next s
  | some (b, m) =>
  if !recordReady b then .next (s.setMem m)
  else
    let q := dsc b 56 8
    let n := dsc b 8 4
    let present := membersIn b 1
    match m.ownReads 12 (present.map (fun i => (dsc b 16 8 + i * dsc b 24 8, 4 * n))) with
    | none => .next s
    | some (data, m) =>
    let segs := present.zip data
    let good := segs.filter (fun x => !pbPois x.2)
    let bad := (segs.filter (fun x => pbPois x.2)).map (·.1)
    let gone := (membersIn b 2).filter (fun i => decide (dsc b (memberAt 0 i + 8) 4 = q % 2 ^ 32))
    let els := fun (l : List PB) => (span 0 n).map (fun k => pbNat (slice l (4 * k) 4))
    let (vals, fl) := combineAll (dsc b 5 1) (good.map (fun x => els x.2))
    let res := if good.isEmpty then List.replicate n 0 else vals
    let st := stOr (statusOf fl) (stOr (stIf (!bad.isEmpty) stPOISON) (stIf (!gone.isEmpty) stMEMBER))
    let at_ := dsc b 32 8 + q % 4096 * dsc b 40 8
    let rec_ := toBytes 8 q ++ toBytes 4 (dsc b 0 4) ++ toBytes 4 st ++ toBytes 8 (maskOf (good.map (·.1))) ++ toBytes 8 (maskOf (bad ++ gone)) ++
      toBytes 8 at_ ++ toBytes 8 s.clock ++ toBytes 16 0
    let done := m.ownWrites 12 [(at_, res.flatMap (toBytes 4)), (dsc b 48 8 + q % 4096 * 64, rec_), (d + 56, toBytes 8 ((q + 1) % 2 ^ 64))]
    match done with
    | some m => .next (s.setMem m)
    | none => .next s

/-! ### Reads and writes of peers (R349, R411) -/

/-- A peer package reads up to a line that this package homes (R349, R411): its home slice is the point of serialisation. It waits with the slice. -/
def State.peerRead (s : State) (src pa n : Nat) : State :=
  if 2 ^ 39 ≤ pa ∨ 128 < pa % 128 + n then s
  else match s.mem.ownRead 12 pa n with
    | some (l, m) => { s.setMem m with outs := s.outs ++ [.peerData src pa l] }
    | none => { s with inbox := s.inbox ++ [.peerRead src pa n] }

/-- A peer package writes bytes of such a line, and is acknowledged (R125, R349, R411); a write to a TICKET or a segment that does not come from the
present member is dropped and reported (R413). -/
def State.peerWrite (s : State) (src pa : Nat) (data : List PB) : State :=
  if 2 ^ 39 ≤ pa ∨ 128 < pa % 128 + data.length then s
  else match (span pa data.length).findSome? (s.edgeDrops src) with
    | some d => { s.report (.collectiveDrop d src) with outs := s.outs ++ [.peerAck src pa] }
    | none =>
      match s.mem.ownWrite 12 pa data with
      | some m => { s.setMem m with outs := s.outs ++ [.peerAck src pa] }
      | none => { s with inbox := s.inbox ++ [.peerWrite src pa data] }

/-! ### Boot, recovery, attestation (R393-R397) -/

/-- Bytes of an image in the flash or in the staging area. -/
def imgBytes (t : Tbl Byte) (k n : Nat) : List Byte := (span k n).map (tblGet 0 t)
/-- A digest as bytes of an image, and back. -/
def digestOf (b : List Byte) : BitVec 256 := BitVec.ofNat 256 (ofBytes b)
def digestBytes (d : BitVec 256) : List Byte := toBytes 32 d.toNat

/-- Check 5 of R394: SIG of a header verifies under its PUBKEY over its DIGEST. -/
def imageSigned (h : List Byte) : Bool :=
  sm2Verify (beNat (slice h 48 32), beNat (slice h 80 32)) (slice h 16 32) (beNat (slice h 112 32)) (beNat (slice h 144 32))

/-- The checks of R394, in order: the first that fails, or 0. -/
def bootCheck (t : Tbl Byte) (minver : Nat) : Nat :=
  let h := imgBytes t 0 256
  let len := fld h 8 8
  if fld h 0 4 ≠ 0x4B494D46 ∨ fld h 176 80 ≠ 0 ∨ len < 2 ^ 20 ∨ 2 ^ 26 < len then 1
  else if sm3 (slice h 48 64) ≠ Config.keyHash then 2
  else if fld h 4 4 < minver then 3
  else if sm3 (imgBytes t 256 len) ≠ digestOf (slice h 16 32) then 4
  else if imageSigned h = false then 5
  else 0

/-- Whether a register of a key slot keeps its value over a package reset (R400): those of a slot that is not IDLE, and SCRPROG while a scrub
goes on; every other register takes its reset value (R5). -/
def Mem.keepsReg (m : Mem) (off : Nat) : Bool :=
  let st := m.kst ((off - offKstat 0) / 512)
  decide (offKstat 0 ≤ off) && decide (off < offKstat 32) && (if off % 512 = 8 then decide (st = 3) else decide (st ≠ 0))

/-- What stays of the memory side over a package reset: device memory and banks as they stand, and the registers of the key slots in use, whose keys
are zeroed (R400); scrubs go on. -/
def Mem.packageReset (m : Mem) : Mem :=
  let st := fun (c : CfgTbl) (k : Nat) => cfgPut c (offKstat k) (if bitsOf (cfgGet c (offKstat k)) 0 2 = 1 then 2 else bitsOf (cfgGet c (offKstat k)) 0 2)
  { Mem.reset with
    dram := m.dram, dpois := m.dpois, ecc := m.ecc, banks := m.banks, bpois := m.bpois, becc := m.becc
    cfg := (span 0 32).foldl st (m.cfg.filter (fun e => m.keepsReg e.1)), scrubs := m.scrubs, draws := m.draws }

/-- What the ROM leaves of an image that passed every check (R394, R397): its body in the firmware memory of the four dies, M mode at its first word,
and the keys derived from UDS and DIGEST, with the certificate of the alias public key and DIGEST, signed under the number it drew. -/
def bootedFrom (flash : Tbl Byte) (minver draw : Nat) : Boot :=
  let h := imgBytes flash 0 256
  let digest := digestOf (slice h 16 32)
  let ident := Config.sm2Key Config.uds
  let alias_ := Config.sm2Key (digestOf (hmacSm3 (digestBytes Config.uds) (digestBytes digest)))
  let pub := sm2Pub alias_
  { Boot.reset with
    minver := minver, version := fld h 4 4, digest := digest, flash := flash
    fw := (flash.filter (fun e => decide (256 ≤ e.1) && decide (e.1 < 256 + fld h 8 8))).map (fun e => (e.1 - 256, e.2))
    mstart := some 0, idPub := sm2Pub ident, aliasKey := alias_
    cert := sm2Sign ident (Config.signNonce draw) (beBytes 32 pub.1 ++ beBytes 32 pub.2 ++ digestBytes digest) }

/-- A package reset with the flash's image (R394): it is checked; when every check passes M mode starts, else the package enters recovery. -/
def State.packageReset (s : State) (flash : Tbl Byte) : State :=
  let f := bootCheck flash s.boot.minver
  let boot : Boot := if f = 0 then bootedFrom flash s.boot.minver s.mem.draws
    else { Boot.reset with st := 2, failed := f, minver := s.boot.minver, flash := flash, udsOpen := true, mstart := none }
  { State.reset with mem := { s.mem.packageReset with draws := s.mem.draws + 1 }, boot := boot, host := s.host, hostp := s.hostp, outs := s.outs, inbox := s.inbox }

/-- PACKAGE_RESET (R394, R395): one that comes while an accepted image is being written leaves an image in the flash that fails the checks: the write
begins with MAGIC erased (log entry 27). -/
def execPackageReset (s : State) : Host.Outcome State Fault Refusal :=
  .next (s.packageReset (if s.boot.rmstat = 2 then tblPutAll 0 s.boot.flash 0 [0#8, 0#8, 0#8, 0#8] else s.boot.flash))

/-- RMCMD_VERIFY (R395, R396): in recovery, the staged image is checked; an accepted one is written over the flash next. -/
def execRmcmdVerify (s : State) : Host.Outcome State Fault Refusal :=
  .next (if s.boot.st ≠ 2 ∨ s.boot.rmstat = 2 then s
    else
      let f := bootCheck s.boot.staging s.boot.minver
      { s with boot := { s.boot with rmstat := if f = 0 then 2 else 3, rmfail := f } })

/-- The write of an accepted image over the flash ends, and the package resets (R395). -/
def State.flashWrite (s : State) : State := if s.boot.st = 2 ∧ s.boot.rmstat = 2 then s.packageReset s.boot.staging else s

/-- The host writes a register or the window of the recovery mailbox at a BAR0 offset (R395): 1 to RMCMD begins the verification. While the package
runs it is ignored (R396), and while the flash is written. -/
def State.stage (s : State) (off : Nat) (data : List Byte) : State :=
  if s.boot.st ≠ 2 ∨ s.boot.rmstat = 2 then s
  else if off = 0x20 then { s with boot := { s.boot with rmoff := ofBytes data } }
  else if off = 0x28 then (if ofBytes data = 1 then { s with boot := { s.boot with rmstat := 1, rmfail := 0 } } else s)
  else if 0x10000 ≤ off ∧ off < 0x20000 then { s with boot := { s.boot with staging := tblPutAll 0 s.boot.staging (s.boot.rmoff + (off - 0x10000)) data } }
  else s

/-- A register of the mailbox as function 0 reads it at a BAR0 offset (R395, R396). -/
def State.mailbox (s : State) (off : Nat) : Nat :=
  let b := s.boot
  if off = 0 then Config.ident.toNat
  else if off = 8 then b.st + 256 * b.failed
  else if off = 0x10 then b.minver
  else if off = 0x20 then b.rmoff
  else if off = 0x30 then b.rmstat + 256 * b.rmfail
  else if 0x10000 ≤ off ∧ off < 0x20000 then ofBytes (imgBytes b.staging (b.rmoff + (off - 0x10000)) 8)
  else 0

/-- A read of 8 bytes of BAR0: by function 0 of the mailbox at an offset (R395), by another of QSTAT of a queue that is bound to its partition (R398). -/
def State.barRead (s : State) (fn off : Nat) : State :=
  let c := cfgGet s.mem.cfg (offVfcfg fn)
  let may := bitOf c 4 && decide (bitsOf c 0 4 < 12) && decide (off < 4096) && decide (bitsOf c 0 4 = s.qPart off)
  if fn = 0 then { s with outs := s.outs ++ [.barData 0 off (s.mailbox off)] }
  else if fn ≤ 192 ∧ may = true then { s with outs := s.outs ++ [.barData fn off (s.qstat off)] }
  else s

/-- FUSE_MINVER (R394): the monitor's fuse command raises MINVER to the running VERSION. -/
def execFuseMinver (s : State) : Host.Outcome State Fault Refusal :=
  .next (if s.boot.st = 1 ∧ s.boot.minver < s.boot.version then { s with boot := { s.boot with minver := s.boot.version } } else s)

/-- The bytes of a report's digest of the tenant schedule, the way masks of a partition, and the requester's bindings (R397; log entry 11). -/
def State.policyBytes (s : State) (who : Nat) : List Byte :=
  let v := cfgGet s.mem.cfg (offVfcfg who)
  let p := bitsOf v 0 4
  s.mem.sched.map (BitVec.ofNat 8) ++ (span 0 192).flatMap (fun k => toBytes 4 (cfgGet s.mem.cfg (offSlway p k))) ++ toBytes 8 v ++
  (span 0 4).flatMap (fun r => toBytes 8 (cfgGet s.mem.cfg (offVfrange who r)))

/-- ATTESTATION_REPORT (R397): the monitor signs a report for the owner (`who` 0) or for a bound function; for a protected context of its
partition it carries the state of the key slot. -/
def execAttestationReport (who : Nat) (nonce : BitVec 256) (s : State) : Host.Outcome State Fault Refusal :=
  let v := cfgGet s.mem.cfg (offVfcfg who)
  let may := if who = 0 then decide (s.owner ≠ 0) else decide (who ≤ 192) && bitOf v 4 && decide (bitsOf v 0 4 < 12)
  .next (if s.boot.st ≠ 1 || !may then s
    else
      let slots := (span 0 32).filter (fun k => decide (s.mem.kst k ≠ 0) && decide (bitsOf (cfgGet s.mem.cfg (offPctx k)) 24 4 = bitsOf v 0 4) && decide (who ≠ 0))
      let body := toBytes 32 nonce.toNat ++ digestBytes s.boot.digest ++ toBytes 4 s.boot.version ++ sm3Bytes (s.policyBytes who) ++
        slots.flatMap (fun k => toBytes 1 k ++ toBytes 8 (cfgGet s.mem.cfg (offKstat k)))
      let sig := sm2Sign s.boot.aliasKey (Config.signNonce s.mem.draws) body
      { s.modMem (fun m => { m with draws := m.draws + 1 }) with outs := s.outs ++ [Out.report who body (BitVec.ofNat 256 sig.1 ++ BitVec.ofNat 256 sig.2)] })

end Sys2Proof.Machine
end

