-- ==== Sys2Proof/Machine/Fpu.lean ====
section
/-! DEFINITION. The scalar floating-point operations (R176-R179). -/
namespace Sys2Proof.Machine

/-- An arithmetic operation of the FPU (R177): gd is a source of `fmac` and `fnmac`, which compute with the old gd as addend. -/
def fpuArith (op : FOp) (i : Instr) (gd : Reg) (srcs : List Reg) (ga gb gc : Reg) (p : BitVec 1) (rm : BitVec 3) (s : State) :
    Host.Outcome State Fault Refusal :=
  s.onStrand fun sn t =>
    if rmLegal rm = false then s.illegal sn i.tval
    else if t.busy (gd :: srcs) then s
    else
      let f := fpuFmt p
      let r := fpArith op f (t.rmOf rm) t.seq.ctl.daz t.seq.ctl.ftz (t.fpOperand f ga) (t.fpOperand f gb) (t.fpOperand f gc) (t.rnd 0)
      s.setStrand sn (t.fpDone (fpLat op p) gd r (t.anyPois srcs))

/-- An operation that never rounds (R178): it has no RMO operand. -/
def fpuPlain (f : Bool → FFmt → Nat → Nat → FRes) (gd : Reg) (srcs : List Reg) (ga gb : Reg) (p : BitVec 1) (s : State) :
    Host.Outcome State Fault Refusal :=
  s.onStrand fun sn t =>
    if t.busy (gd :: srcs) then s
    else
      let x := fpuFmt p
      s.setStrand sn (t.fpDone 4 gd (f t.seq.ctl.daz x (t.fpOperand x ga) (t.fpOperand x gb)) (t.anyPois srcs))

/-- A conversion (R179): `f` takes DAZ, FTZ, the rounding mode, the register's 64 bits and the random number. -/
def fpuConv (f : Bool → Bool → Nat → Nat → Nat → FRes) (i : Instr) (gd ga : Reg) (rm : BitVec 3) (s : State) : Host.Outcome State Fault Refusal :=
  s.onStrand fun sn t =>
    if rmLegal rm = false then s.illegal sn i.tval
    else if t.busy [gd, ga] then s
    else s.setStrand sn (t.fpDone 4 gd (f t.seq.ctl.daz t.seq.ctl.ftz (t.rmOf rm) (t.g ga).toNat (t.rnd 0)) (t.gp ga))

/-- A comparison's result as an FPU result (R178). -/
def cmpRes (c : FCmp) (daz : Bool) (f : FFmt) (a b : Nat) : FRes :=
  let (x, fl) := fpCompare c f daz a b
  ⟨b2n x, fl, false⟩

/-- `fadd` (R177): A + B. -/
def execFadd (gd ga gb : Reg) (p : BitVec 1) (rm : BitVec 3) : State → Host.Outcome State Fault Refusal :=
  fpuArith .add (.fadd gd ga gb p rm) gd [ga, gb] ga gb 0 p rm
/-- `fsub` (R177): A - B. -/
def execFsub (gd ga gb : Reg) (p : BitVec 1) (rm : BitVec 3) : State → Host.Outcome State Fault Refusal :=
  fpuArith .sub (.fsub gd ga gb p rm) gd [ga, gb] ga gb 0 p rm
/-- `fmul` (R177): A * B. -/
def execFmul (gd ga gb : Reg) (p : BitVec 1) (rm : BitVec 3) : State → Host.Outcome State Fault Refusal :=
  fpuArith .mul (.fmul gd ga gb p rm) gd [ga, gb] ga gb 0 p rm
/-- `fdiv` (R177): A / B. -/
def execFdiv (gd ga gb : Reg) (p : BitVec 1) (rm : BitVec 3) : State → Host.Outcome State Fault Refusal :=
  fpuArith .div (.fdiv gd ga gb p rm) gd [ga, gb] ga gb 0 p rm
/-- `fsqrt` (R177). -/
def execFsqrt (gd ga : Reg) (p : BitVec 1) (rm : BitVec 3) : State → Host.Outcome State Fault Refusal :=
  fpuArith .sqrt (.fsqrt gd ga p rm) gd [ga] ga ga 0 p rm
/-- `fmac` (R177): A * B + D, one rounding. -/
def execFmac (gd ga gb : Reg) (p : BitVec 1) (rm : BitVec 3) : State → Host.Outcome State Fault Refusal :=
  fpuArith .fma (.fmac gd ga gb p rm) gd [ga, gb, gd] ga gb gd p rm
/-- `fnmac` (R177): D - A * B, one rounding. -/
def execFnmac (gd ga gb : Reg) (p : BitVec 1) (rm : BitVec 3) : State → Host.Outcome State Fault Refusal :=
  fpuArith .fnma (.fnmac gd ga gb p rm) gd [ga, gb, gd] ga gb gd p rm
/-- `fmin` (R178): the smaller operand. -/
def execFmin (gd ga gb : Reg) (p : BitVec 1) : State → Host.Outcome State Fault Refusal :=
  fpuPlain (fun daz x a b => fpMinMax false x daz a b) gd [ga, gb] ga gb p
/-- `fmax` (R178): the larger operand. -/
def execFmax (gd ga gb : Reg) (p : BitVec 1) : State → Host.Outcome State Fault Refusal :=
  fpuPlain (fun daz x a b => fpMinMax true x daz a b) gd [ga, gb] ga gb p
/-- `feq` (R178): 1 when A = B. -/
def execFeq (gd ga gb : Reg) (p : BitVec 1) : State → Host.Outcome State Fault Refusal :=
  fpuPlain (fun daz x a b => cmpRes .eq daz x a b) gd [ga, gb] ga gb p
/-- `flt` (R178): 1 when A < B. -/
def execFlt (gd ga gb : Reg) (p : BitVec 1) : State → Host.Outcome State Fault Refusal :=
  fpuPlain (fun daz x a b => cmpRes .lt daz x a b) gd [ga, gb] ga gb p
/-- `fle` (R178): 1 when A ≤ B. -/
def execFle (gd ga gb : Reg) (p : BitVec 1) : State → Host.Outcome State Fault Refusal :=
  fpuPlain (fun daz x a b => cmpRes .le daz x a b) gd [ga, gb] ga gb p
/-- `fabs` (R178): |A|. -/
def execFabs (gd ga : Reg) (p : BitVec 1) : State → Host.Outcome State Fault Refusal :=
  fpuPlain (fun daz x a _ => fpSign true x daz a) gd [ga] ga ga p
/-- `fneg` (R178): -A. -/
def execFneg (gd ga : Reg) (p : BitVec 1) : State → Host.Outcome State Fault Refusal :=
  fpuPlain (fun daz x a _ => fpSign false x daz a) gd [ga] ga ga p
/-- `fclass` (R178): the class mask; no status. -/
def execFclass (gd ga : Reg) (p : BitVec 1) : State → Host.Outcome State Fault Refusal :=
  fpuPlain (fun daz x a _ => ⟨2 ^ fpClass x daz a, 0, false⟩) gd [ga] ga ga p
/-- `fcvtfi` (R179): floating to i64. -/
def execFcvtfi (gd ga : Reg) (p : BitVec 1) (rm : BitVec 3) : State → Host.Outcome State Fault Refusal :=
  fpuConv (fun daz _ftz rm a rnd => fpToInt (fpuFmt p) daz rm 64 true (a % 2 ^ (fpuFmt p).width) rnd) (.fcvtfi gd ga p rm) gd ga rm
/-- `fcvtfn` (R179): floating to n64. -/
def execFcvtfn (gd ga : Reg) (p : BitVec 1) (rm : BitVec 3) : State → Host.Outcome State Fault Refusal :=
  fpuConv (fun daz _ftz rm a rnd => fpToInt (fpuFmt p) daz rm 64 false (a % 2 ^ (fpuFmt p).width) rnd) (.fcvtfn gd ga p rm) gd ga rm
/-- `fcvtif` (R179): i64 to floating. -/
def execFcvtif (gd ga : Reg) (p : BitVec 1) (rm : BitVec 3) : State → Host.Outcome State Fault Refusal :=
  fpuConv (fun _daz ftz rm a rnd => fpOfInt (fpuFmt p) rm ftz (sgn 64 a) rnd) (.fcvtif gd ga p rm) gd ga rm
/-- `fcvtnf` (R179): n64 to floating. -/
def execFcvtnf (gd ga : Reg) (p : BitVec 1) (rm : BitVec 3) : State → Host.Outcome State Fault Refusal :=
  fpuConv (fun _daz ftz rm a rnd => fpOfInt (fpuFmt p) rm ftz a rnd) (.fcvtnf gd ga p rm) gd ga rm
/-- `fcvtff` (R179): between FP32 and FP64; P names the destination. -/
def execFcvtff (gd ga : Reg) (p : BitVec 1) (rm : BitVec 3) : State → Host.Outcome State Fault Refusal :=
  fpuConv (fun daz ftz rm a rnd => if p = 1#1 then fpConvert .f32 .f64 daz rm ftz (a % 2 ^ 32) rnd else fpConvert .f64 .f32 daz rm ftz a rnd) (.fcvtff gd ga p rm) gd ga rm

end Sys2Proof.Machine
end

