-- ==== Sys2Proof/Machine/Node.lean ====
section
/-! DEFINITION. Memory nodes: `nrun` and `pcq` (R360, R361), the node programs' rows (R351-R354). -/
namespace Sys2Proof.Machine

/-! ### MEMQ instructions (R359-R361) -/

/-- The 32 rows of a request's block. -/
def rowsOf (l : List Byte) : List W32 := (span 0 32).map (fun k => BitVec.ofNat 32 (ofBytes (slice l (4 * k) 4)))

/-- The index of the first row that fails R94, or 32 where no row is `nend`: rows from index `k` on, `ended` after the first `nend`. -/
def badRow : List W32 → Nat → Bool → Option Nat
  | [], _, ended => if ended then none else some 32
  | w :: ws, k, ended =>
    if ended then (if w = 0 then badRow ws (k + 1) true else some k)
    else match decodeRow w with
      | .ok .nend => badRow ws (k + 1) true
      | .ok _ => badRow ws (k + 1) false
      | .error _ => some k

/-- The rows up to and with the first `nend`. -/
def liveRows (rows : List W32) : List W32 := rows.take (match findIdx? (fun w => decide (w = 0)) rows 0 with | some (k, _) => k + 1 | none => 32)

/-- `nrun` (R360): the block is read at issue; the request takes a load-table entry; a full node queue holds it. -/
def execNrun (gd ga gb : Reg) (s : State) : Host.Outcome State Fault Refusal :=
  s.onStrand fun sn t =>
    if t.busy [gd, ga, gb] then s
    else match t.firstPois [ga, gb] with
      | some r => s.poisonTrap sn r
      | none =>
        let va := (t.g ga).toNat
        let b := (t.g gb).toNat
        if va % 256 ≠ 0 ∨ 2 ^ 7 ≤ b then s.illegal sn (Instr.nrun gd ga gb).tval
        else if inWindow va = false then s.trap sn 0x03 0 0 va
        else match s.mem.slotsCheck t false va [winSlot va] with
          | some (.trap c d v) => s.trap sn c 0 d v
          | some _ => s
          | none =>
            if (winParts t va 256 []).any (t.blocked t.seq.seq false) then s
            else
              let data := s.mem.bankRead ((t.slot (winSlot va)).bank.getD 0) (winOff va) 256
              let rows := rowsOf (pbBytes (data.drop 128))
              match badRow rows 0 false with
              | some k => s.trap sn 0x01 0 3 k
              | none =>
                if (rowRings (liveRows rows)).any (fun r => decide (t.allot.nrg ≤ r)) then s.illegal sn (Instr.nrun gd ga gb).tval
                else
                  let k := 16 * (b / 16) + b % 16
                  if t.loadFull || decide (16 ≤ (s.node k).queue.length) then s
                  else
                    let r : NReq := ⟨sn, t.seq.nextId, partOfSn sn, liveRows rows, (span 0 16).map (fun i => (pbNat (slice data (8 * i) 8), pbPois (slice data (8 * i) 8)))⟩
                    let a : Acc := ⟨t.seq.nextId, t.seq.seq, gd.toNat, va, .node none, [], false, false⟩
                    let t := ((t.nextAcc.nextSeq).mapSeq (fun q => { q with loads := q.loads ++ [a] })).setPend gd
                    (s.setStrand sn (t.retire 4)).modNode k (fun n => { n with queue := n.queue ++ [r] })

/-- The pseudo-channel and stack of a frame (R361): during a rewrite of the stack, under the old or the new rows. -/
def Mem.pcqWord (m : Mem) (pa : Nat) : Nat × Mem :=
  let st := stackOf pa
  match m.rewrites.find? (fun r => decide (r.stack = st)) with
  | some r =>
    let (i, m) := m.pick 2
    ((if i = 0 then m.pcOf pa else pseudoChannel (bitsOf pa 0 36) (fun j => r.rows.getD j 0)) + 256 * st, m)
  | none => (m.pcOf pa + 256 * st, m)

/-- `pcq` (R361): checks 1 to 4 of R170 as for a one-byte load, and no access. -/
def execPcq (gd ga : Reg) (s : State) : Host.Outcome State Fault Refusal :=
  s.onStrand fun sn t =>
    if t.busy [gd, ga] then s
    else if t.gp ga then s.poisonTrap sn ga
    else
      let va := (t.g ga).toNat
      if inWindow va then
        match s.mem.slotsCheck t false va [winSlot va] with
        | some (.trap c d v) => s.trap sn c 0 d v
        | some _ => s
        | none => s.setStrand sn (t.done 4 gd (BitVec.ofNat 64 (2 ^ 63)) false)
      else match s.mem.page (coreOfSn sn) (partOfSn sn) va .r with
        | (.error (.trap c d v), m) => (s.setMem m).trap sn c 0 d v
        | (.error (.park v k e l), m) => (s.setMem m).park sn 0 v k e l false false
        | (.error _, _) => s
        | (.ok l, m) =>
          match m.frameOf (partOfSn sn) l va with
          | some pa => (s.setMem (m.pcqWord pa).2).setStrand sn (t.done 4 gd (BitVec.ofNat 64 (m.pcqWord pa).1) false)
          | none => (s.setMem m).setStrand sn (t.done 4 gd (BitVec.ofNat 64 (2 ^ 63)) false)

/-! ### Node programs (R351-R354) -/

/-- NODE_REQUEST_START (R351): the node of the agent (stack, node) takes its oldest request. -/
def execNodeRequestStart (s : State) : Host.Outcome State Fault Refusal :=
  .next (s.modNode (16 * s.agent.a + s.agent.b) (fun n =>
    match n.prog, n.queue with
    | none, r :: rs => ⟨rs, some ⟨r, 0, [], 0, [], [], 0, 0, none⟩⟩
    | _, _ => n))

/-- Width in bytes, and whether integers are signed, of an NTY code (R93). -/
def ntyEb (ty : BitVec 3) : Nat := if ty = 6#3 then 2 else if ty.toNat < 3 then 4 else 8
def ntySigned (ty : BitVec 3) : Bool := decide (ty = 0#3) || decide (ty = 3#3)
def ntyFmt (ty : BitVec 3) : Option FFmt := if ty = 2#3 then some .f32 else if ty = 5#3 then some .f64 else if ty = 6#3 then some .bf16 else none

/-- A stream that no row has written (R352): empty, of no width. -/
def NStream.unwritten : NStream := ⟨0, false, []⟩

def NRun.stream (r : NRun) (k : BitVec 3) : NStream := tblGet .unwritten r.streams k.toNat
/-- Write a stream and go on to the next row. -/
def NRun.put (r : NRun) (k : BitVec 3) (x : NStream) : NRun := { r with streams := tblPut .unwritten r.streams k.toNat x, row := r.row + 1, pos := 0, part := [] }
def NRun.next (r : NRun) : NRun := { r with row := r.row + 1, pos := 0, part := [] }
def NRun.add (r : NRun) (st : Nat) : NRun := { r with status := stOr r.status st }
/-- An argument word, and whether it is poisoned (R73). -/
def NRun.arg (r : NRun) (k : Nat) : Nat := (r.req.args.getD k (0, false)).1
def NRun.argP (r : NRun) (k : Nat) : Bool := (r.req.args.getD k (0, false)).2
/-- A source may be read in an NTY of `eb` bytes (R352). -/
def NStream.fits (x : NStream) (eb : Nat) : Bool := decide (x.eb = eb) || decide (x = .unwritten)
/-- Status of a node's floating operations (R353). -/
def nodeStatus (f : BitVec 10) : Nat := statusOf (f &&& (flNV ||| flOF))

def stINVALID : Nat := 64

/-- What the end of a program leaves: the partly filled tiles that a full ring, or a slot that does not answer yet, keeps back, the elements that the
pushed tiles hold, the status, the strand and memory. -/
structure Finish where
  fill : Tbl (List PB × Nat)
  count : Nat
  status : Nat
  t : Strand
  m : Mem

/-- Complete a partly filled tile with zero bytes and push it (R354); one whose ring is gone, or whose slot is detached, is dropped with INVALID, as an
`nemit` to it would end. -/
def Finish.tile (f : Finish) (x : Nat × List PB × Nat) : Finish :=
  let (n, bytes, c) := x
  let r := f.t.ring n
  match (if r.live then f.m.ringAns f.t r false else .detached) with
  | .detached => { f with status := stOr f.status stINVALID }
  | .wait => { f with fill := tblInsert f.fill n (bytes, c) }
  | .bank _ =>
    if r.full then { f with fill := tblInsert f.fill n (bytes, c) }
    else
      let m := f.m.ringWrite f.t r (r.tileOff r.nextTile) (bytes.take r.bytes ++ pbOf (r.bytes - bytes.length) 0 false)
      { f with count := f.count + c, t := f.t.setRing n (r.reserve.land r.nextTile), m := m }

/-- A program ends (R354): the completion word is written to gd, and its load-table entry is free. -/
def State.nodeWord (s : State) (k : Nat) (r : NRun) (st : Nat) : State :=
  let word := stOr r.status st + r.count % 2 ^ 32 * 2 ^ 32
  (s.modNode k (fun n => { n with prog := none })).modStrand r.req.sn (fun t =>
    match t.seq.loads.find? (fun a => decide (a.id = r.req.acc)) with
    | some a => ((t.mapSeq (fun q => { q with loads := q.loads.filter (fun x => decide (x.id ≠ a.id)) })).setG
        (BitVec.ofNat 5 a.dest) (BitVec.ofNat 64 word) false).progress
    | none => t)

/-- A program ends with a status, its partly filled tiles pushed first; a full ring holds the node, which keeps the end and its status. -/
def State.nodeEnd (s : State) (k : Nat) (r : NRun) (st : Nat) : State :=
  match s.strand? r.req.sn with
  | none => s.nodeWord k r st
  | some t =>
    let f := r.fill.foldl Finish.tile ⟨[], r.count, st, t, s.mem⟩
    let s := (s.setMem f.m).setStrand r.req.sn f.t
    let r := { r with fill := f.fill, count := f.count, ended := some f.status }
    if f.fill.isEmpty then s.nodeWord k r f.status else s.modNode k (fun n => { n with prog := some r })

/-- A row of the program of the agent's node (stack, node), or the end that waits there: where none runs, the machine is at fault; the request of a
strand that is not running is abandoned, with LINK (R354). -/
def State.onNode (s : State) (f : Nat → NRun → State) : Host.Outcome State Fault Refusal :=
  let k := 16 * s.agent.a + s.agent.b
  match (s.node k).prog with
  | none => .fault .noProgram
  | some r =>
    match s.strand? r.req.sn with
    | none => .next (f k r)
    | some t =>
      .next (if t.run ≠ .running then s.nodeWord k r stLINK
        else match r.ended with
          | some st => s.nodeEnd k r st
          | none => f k r)

/-- NV and OF of a row's operations in FPSTAT of the strand that issued the program (R71). -/
def State.nodeFl (s : State) (r : NRun) (f : BitVec 10) : State := s.modStrand r.req.sn (·.addFl (f &&& (flNV ||| flOF)))

/-- Go on with a changed program. -/
def State.nodeGo (s : State) (k : Nat) (r : NRun) : State := s.modNode k (fun n => { n with prog := some r })

/-- `nend` (R354). -/
def execNend (s : State) : Host.Outcome State Fault Refusal := s.onNode fun k r => s.nodeEnd k r 0

/-- How a node's read of one element ends. -/
inductive NRead where
  | ok (x : Nat × Bool) (corr : Bool) (m : Mem)
  | fail (m : Mem)
  | hold (m : Mem)

/-- A node's read of `eb` bytes of a frame, in the device memory of its own stack (R351, R402). -/
def Mem.nodeFrame (m : Mem) (k p pa eb : Nat) : NRead :=
  if stackOf pa ≠ k / 16 then .fail m
  else if m.keyBars p pa then .ok (0, false) false (m.keyReport p pa)
  else if !m.devOpen pa then .hold m
  else
    let m := m.clearAhead pa
    let ((d, c), m) := m.devRead pa eb
    .ok (pbNat d, pbPois d) c m

/-- A node's read of one element of `eb` bytes (R351, R352), translated without a park; the backing entry of an unbacked page is read at its home
slice (R345). -/
def Mem.nodeRead (m : Mem) (k p va eb : Nat) : NRead :=
  match m.translate (1536 + k) p va with
  | (.leaf l, m) =>
    if l.r = false then .fail m
    else if l.ub then
      match m.tableRead p (backingEntry (bitsOf l.e 12 27 * 4096) va l.bits) with
      | none => .hold m
      | some (e, m) => if backingBad e || !bitOf e 0 then .fail m else m.nodeFrame k p (bitsOf e 12 27 * 4096 + va % 4096) eb
    else if l.loc = 0 then m.nodeFrame k p (l.paOf va) eb
    else .fail m
  | (.wait, m) => .hold m
  | (_, m) => .fail m

/-- Whether a barrier of the issuing strand holds the NM reads of a program (R117, R137, R138): one placed before its `nrun`. -/
def State.nodeBarred (s : State) (r : NRun) : Bool :=
  match s.strand? r.req.sn with
  | some t => t.seq.loads.any (fun a => decide (a.id = r.req.acc) && t.barred (dieOfSn r.req.sn) a.seq 4)
  | none => false

/-- The next element of a row that reads memory: at `va`, with the poison of what named it. -/
def State.nodeElem (s : State) (k : Nat) (r : NRun) (va eb : Nat) (pois : Bool) : State :=
  if s.nodeBarred r then s
  else match s.mem.nodeRead k r.req.part (va % 2 ^ 64) eb with
  | .ok x c m =>
    (s.setMem m).nodeGo k ({ r with pos := r.pos + 1, part := r.part ++ [(x.1, x.2 || pois)] }.add (stOr (stIf c stECC) (stIf (x.2 || pois) stPOISON)))
  | .fail m => (s.setMem m).nodeEnd k r stXLATE
  | .hold m => s.setMem m

/-- `nscan` (R352): one element in a step. -/
def execNscan (ty ds : BitVec 3) (imm : BitVec 4) (s : State) : Host.Outcome State Fault Refusal :=
  s.onNode fun k r =>
    let eb := ntyEb ty
    let base := r.arg imm.toNat
    let n := r.arg (imm.toNat + 1)
    if base % eb ≠ 0 ∨ 2 ^ 32 ≤ n then s.nodeEnd k r stINVALID
    else if n ≤ r.pos then s.nodeGo k (r.put ds ⟨eb, ntySigned ty, r.part⟩)
    else s.nodeElem k r (base + r.pos * eb) eb (r.argP imm.toNat || r.argP (imm.toNat + 1))

/-- `ngath` (R352): one element in a step. -/
def execNgath (ty ds sa : BitVec 3) (imm : BitVec 4) (s : State) : Host.Outcome State Fault Refusal :=
  s.onNode fun k r =>
    let eb := ntyEb ty
    let base := r.arg imm.toNat
    let x := r.stream sa
    if x.fits eb = false ∨ base % eb ≠ 0 then s.nodeEnd k r stINVALID
    else match x.elems[r.pos]? with
      | none => s.nodeGo k (r.put ds ⟨eb, ntySigned ty, r.part⟩)
      | some e =>
        let i : Int := if x.signed then sgn (8 * eb) e.1 else (e.1 : Int)
        s.nodeElem k r (wrapTo 64 ((base : Int) + i * (eb : Int))) eb (e.2 || r.argP imm.toNat)

/-- A comparison of two elements (R93, R352), with its flags. -/
def nodeCmp (ty cmp : BitVec 3) (a b : Nat) : Bool × BitVec 10 :=
  match ntyFmt ty with
  | some f =>
    if cmp = 0#3 then fpCompare .eq f false a b
    else if cmp = 1#3 then (!(fpCompare .eq f false a b).1, (fpCompare .eq f false a b).2)
    else if cmp = 2#3 then fpCompare .lt f false a b
    else if cmp = 3#3 then fpCompare .le f false a b
    else if cmp = 4#3 then fpCompare .lt f false b a
    else if cmp = 5#3 then fpCompare .le f false b a
    else (true, 0)
  | none =>
    let v := fun (x : Nat) => if ntySigned ty then sgn (8 * ntyEb ty) x else (x : Int)
    (if cmp = 0#3 then decide (a = b)
     else if cmp = 1#3 then decide (a ≠ b)
     else if cmp = 2#3 then decide (v a < v b)
     else if cmp = 3#3 then decide (v a ≤ v b)
     else if cmp = 4#3 then decide (v b < v a)
     else if cmp = 5#3 then decide (v b ≤ v a)
     else true, 0)

/-- `nfilt` (R352). -/
def execNfilt (ty ds sa sb cmp : BitVec 3) (sel : BitVec 1) (imm : BitVec 4) (s : State) : Host.Outcome State Fault Refusal :=
  s.onNode fun k r =>
    let eb := ntyEb ty
    let x := r.stream sa
    let y := r.stream sb
    if x.fits eb = false ∨ (sel = 0 ∧ y.fits eb = false) then s.nodeEnd k r stINVALID
    else
      let ys := if sel = 1 then List.replicate x.elems.length (r.arg imm.toNat % 2 ^ (8 * eb), r.argP imm.toNat) else y.elems
      let es := (x.elems.zip ys).map (fun e => ((nodeCmp ty cmp e.1.1 e.2.1), e.1.2 || e.2.2))
      let fl := es.foldl (fun f e => f ||| e.1.2) 0
      (s.nodeFl r fl).nodeGo k ((r.put ds ⟨4, false, es.map (fun e => (b2n e.1.1, e.2))⟩).add (stOr (nodeStatus fl) (stIf (es.any (·.2)) stPOISON)))

/-- `ncmpk` (R352). -/
def execNcmpk (ty ds sa sb : BitVec 3) (s : State) : Host.Outcome State Fault Refusal :=
  s.onNode fun k r =>
    let eb := ntyEb ty
    let x := r.stream sa
    let y := r.stream sb
    if x.fits eb = false ∨ y.fits eb = false then s.nodeEnd k r stINVALID
    else
      let es := ((x.elems.zip y.elems).filter (fun e => decide (e.2.1 ≠ 0))).map (fun e => (e.1.1, e.1.2 || e.2.2))
      s.nodeGo k ((r.put ds ⟨eb, ntySigned ty, es⟩).add (stIf (es.any (·.2)) stPOISON))

/-- The sum of a stream in order (R353): its element and flags. Each element is taken as a number of the sum's format, a NaN as the canonical one, a
signalling one with NV (R58). -/
def nodeSum (ty : BitVec 3) (es : List Nat) : Nat × BitVec 10 :=
  match ntyFmt ty with
  | some f =>
    let g : FFmt := if f = .f64 then .f64 else .f32
    (match es.map (fun x => fpConvert f g false 0 false x 0) with
     | [] => (0, 0)
     | w :: rest => rest.foldl (fun a x => let z := fpArith .add g 0 false false a.1 x.bits 0 0; (z.bits, a.2 ||| x.fl ||| z.fl)) (w.bits, w.fl))
  | none => (es.foldl (· + ·) 0 % 2 ^ (8 * ntyEb ty), 0)

/-- A reduction that writes one element (R353). -/
def State.nodeReduce (s : State) (k : Nat) (r : NRun) (ds sa : BitVec 3) (eb reb : Nat) (sg : Bool) (f : List Nat → Option (Nat × BitVec 10)) : State :=
  let x := r.stream sa
  if x.fits eb = false then s.nodeEnd k r stINVALID
  else
    let pois := x.elems.any (·.2)
    match f (x.elems.map (·.1)) with
    | none => s.nodeGo k (r.put ds ⟨reb, sg, []⟩)
    | some (v, fl) => (s.nodeFl r fl).nodeGo k ((r.put ds ⟨reb, sg, [(v, pois)]⟩).add (stOr (nodeStatus fl) (stIf pois stPOISON)))

/-- `nsum` (R353). -/
def execNsum (ty ds sa : BitVec 3) (s : State) : Host.Outcome State Fault Refusal :=
  s.onNode fun k r => s.nodeReduce k r ds sa (ntyEb ty) (if ty = 6#3 then 4 else ntyEb ty) (ntySigned ty) (fun es => some (nodeSum ty es))

/-- The smaller, or larger, of two elements (R353). -/
def nodePick (isMax : Bool) (ty : BitVec 3) (a : Nat × BitVec 10) (b : Nat) : Nat × BitVec 10 :=
  match ntyFmt ty with
  | some f => let z := fpMinMax isMax f false a.1 b; (z.bits, a.2 ||| z.fl)
  | none =>
    let v := fun (x : Nat) => if ntySigned ty then sgn (8 * ntyEb ty) x else (x : Int)
    (if isMax then (if v a.1 < v b then b else a.1) else (if v b < v a.1 then b else a.1), a.2)

/-- `nmin` and `nmax` on a stream: an empty one gives nothing; a single element meets itself. -/
def nodeExtreme (isMax : Bool) (ty : BitVec 3) : List Nat → Option (Nat × BitVec 10)
  | [] => none
  | x :: xs => some (xs.foldl (nodePick isMax ty) (nodePick isMax ty (x, 0) x))

/-- `nmin` (R353). -/
def execNmin (ty ds sa : BitVec 3) (s : State) : Host.Outcome State Fault Refusal :=
  s.onNode fun k r => s.nodeReduce k r ds sa (ntyEb ty) (ntyEb ty) (ntySigned ty) (nodeExtreme false ty)
/-- `nmax` (R353). -/
def execNmax (ty ds sa : BitVec 3) (s : State) : Host.Outcome State Fault Refusal :=
  s.onNode fun k r => s.nodeReduce k r ds sa (ntyEb ty) (ntyEb ty) (ntySigned ty) (nodeExtreme true ty)

/-- `ncnt` (R353): a length, poisoned when an element that it counts is (R73). -/
def execNcnt (ty ds sa : BitVec 3) (s : State) : Host.Outcome State Fault Refusal :=
  s.onNode fun k r =>
    let x := r.stream sa
    if x.fits (ntyEb ty) = false then s.nodeEnd k r stINVALID
    else
      let pois := x.elems.any (·.2)
      s.nodeGo k ((r.put ds ⟨8, false, [(x.elems.length, pois)]⟩).add (stIf pois stPOISON))

/-- One element into the partly filled tile of a ring (R354): a full tile is pushed, and the bytes of an element that do not fit begin the next; a full
ring holds the node. An element counts as pushed with the tile that holds its last byte. -/
def State.nodePush (s : State) (k : Nat) (r : NRun) (t : Strand) (n : Nat) (bytes : List PB) : State :=
  let ring := t.ring n
  let old := tblGet ([], 0) r.fill n
  let tile := old.1 ++ bytes
  let rest := tile.drop ring.bytes
  let c := if rest.isEmpty then old.2 + 1 else old.2
  let next := { r with pos := r.pos + 1 }
  if tile.length < ring.bytes then s.nodeGo k { next with fill := tblPut ([], 0) r.fill n (tile, old.2 + 1) }
  else if ring.full then s
  else
    let s := s.setMem (s.mem.ringWrite t ring (ring.tileOff ring.nextTile) (tile.take ring.bytes))
    (s.setStrand r.req.sn ((t.setRing n (ring.reserve.land ring.nextTile)).progress)).nodeGo k
      { next with count := r.count + c, fill := tblPut ([], 0) r.fill n (rest, if rest.isEmpty then 0 else 1) }

/-- `nemit` (R354): one element in a step; a ring that holds no ring, or whose slot does not answer, ends the program. -/
def execNemit (ty sa : BitVec 3) (imm : BitVec 4) (s : State) : Host.Outcome State Fault Refusal :=
  s.onNode fun k r =>
    let x := r.stream sa
    match s.strand? r.req.sn with
    | none => s.nodeEnd k r stINVALID
    | some t =>
      if x.fits (ntyEb ty) = false ∨ (t.ring imm.toNat).live = false then s.nodeEnd k r stINVALID
      else match s.mem.ringAns t (t.ring imm.toNat) false with
        | .detached => s.nodeEnd k r stINVALID
        | .wait => s
        | .bank _ =>
          match x.elems[r.pos]? with
          | none => s.nodeGo k r.next
          | some e => s.nodePush k (r.add (stIf e.2 stPOISON)) t imm.toNat (pbOf (ntyEb ty) e.1 e.2)

end Sys2Proof.Machine
end

