-- ==== Sys2Proof/Machine/Shut.lean ====
section
/-! DEFINITION. Shutters (R355-R359), the tenant schedule (R34-R36) and a wheel that takes effect (R29). -/
namespace Sys2Proof.Machine

/-! ### SHUT instructions (R359) -/

/-- `shq` (R359). -/
def execShq (gd ga : Reg) (s : State) : Host.Outcome State Fault Refusal :=
  s.onStrand fun sn t =>
    if t.busy [gd, ga] then s
    else if t.gp ga then s.poisonTrap sn ga
    else
      let v := (t.g ga).toNat
      if 2 ^ 16 ≤ v then s.illegal sn (Instr.shq gd ga).tval
      else
        let n := s.mem.shut.n0 + v
        s.setStrand sn (t.done 4 gd (BitVec.ofNat 64 (shutterStart n + 2 ^ 62 * shutterKind n)) false)

/-- `shwait` (R359): the shutter is fixed at issue. -/
def execShwait (s : State) : Host.Outcome State Fault Refusal :=
  s.onStrand fun sn t =>
    match t.seq.wait with
    | .shutter n => if n < s.mem.shut.n0 then s.setStrand sn (t.retire 4) else s
    | _ => s.setStrand sn (t.setWait (.shutter s.mem.shut.n0))

/-- `shspan` (R359). -/
def execShspan (gd : Reg) (s : State) : Host.Outcome State Fault Refusal :=
  s.onStrand fun sn t =>
    if t.busy [gd] then s
    else s.setStrand sn (t.done 4 gd (BitVec.ofNat 64 (shutterStart s.mem.shut.n0 - 252 - s.clock)) false)

/-! ### The course of a shutter (R355-R357) -/

/-- SHUTTER_DRAIN (R356): 252 ck before S(n0), device-memory requests stop. -/
def execShutterDrain (s : State) : Host.Outcome State Fault Refusal :=
  .next (if shutterStart s.mem.shut.n0 ≤ s.clock + 252 then s.modMem (fun m => { m with shut := { m.shut with drained := true } }) else s)

/-- SHUTTER_BEGIN (R355): at S(n0), after its drain. -/
def execShutterBegin (s : State) : Host.Outcome State Fault Refusal :=
  .next (if shutterStart s.mem.shut.n0 ≤ s.clock ∧ s.mem.shut.drained = true then s.modMem (fun m => { m with shut := { m.shut with begun := true } }) else s)

/-- SHUTTER_OVERRUN (R357): its work is not done at the nominal end, which is reported once. -/
def execShutterOverrun (s : State) : Host.Outcome State Fault Refusal :=
  let x := s.mem.shut
  .next (if x.begun = true ∧ x.overrun = false ∧ shutterStart x.n0 + shutterLen x.n0 ≤ s.clock then
    (s.modMem (fun m => { m with shut := { m.shut with overrun := true } })).report (.shutterOverrun x.n0) else s)

/-- 24 hours, and the clocks from one link shutter to the next (R342, R355). -/
def oneDay : Nat := 181440000000000
def linkPeriod : Nat := 256 * 8190

/-- The patrol reads of a link shutter (R342): which chunks they reach is the device's choice, but a chunk that would otherwise go 24 hours without
one is read; they correct and mark as R337 states. -/
def Mem.patrol (m : Mem) (clock : Nat) : Mem :=
  (m.ecc.map (·.1)).foldl (fun m c =>
    let due := decide (tblGet 0 m.eccAt c + oneDay < clock + linkPeriod)
    let (i, m) := if due then (1, m) else m.pick 2
    if i = 0 then m else (m.devRead (64 * c) 1).2) m

/-- The remap-table copies that a link shutter rebuilds (R341): those of stacks with one good copy. -/
def Mem.rebuild (m : Mem) : Mem :=
  { m with remapBad := m.remapBad.filter (fun k => m.remapBad.any (fun j => decide (j / 2 = k / 2) && decide (j ≠ k))) }

/-- SHUTTER_END (R357): the work of shutter n0 is done, not before its nominal end; a later shutter whose drain has come begins at once, and overruns
at once when its own nominal end has passed. -/
def execShutterEnd (s : State) : Host.Outcome State Fault Refusal :=
  let x := s.mem.shut
  .next (if x.begun = true ∧ shutterStart x.n0 + shutterLen x.n0 ≤ s.clock then
    let n := x.n0 + 1
    let near := decide (shutterStart n ≤ s.clock + 252)
    let late := near && decide (shutterStart n + shutterLen n ≤ s.clock)
    let m := if shutterKind x.n0 = 1 then (s.mem.patrol s.clock).rebuild else s.mem
    let s := s.setMem { m with shut := ⟨n, near, near, late⟩ }
    if late then s.report (.shutterOverrun n) else s
  else s)

/-! ### The tenant schedule (R34-R36) -/

/-- SCHEDULE_ENTRY (R34): the entry in force at the clock. -/
def execScheduleEntry (s : State) : Host.Outcome State Fault Refusal := .next (s.modMem (fun m => { m with entry := s.clock / 32 % 48 }))

/-- PSCHEDLD_GO (R36): a load is requested for the first period boundary at least 1,536 ck ahead; no effect while one is pending. -/
def execPschedldGo (s : State) : Host.Outcome State Fault Refusal :=
  .next (s.fwStore 3 offPschedld fun s => match s.schedLoad with
    | some _ => s
    | none => { s with schedLoad := some ((s.clock + 1536 + 1535) / 1536 * 1536), mem := { s.mem with cfg := cfgField s.mem.cfg offPschedld 1 1 1 } })

/-- The six staging registers as 48 codes (R36). -/
def stagedSched (t : CfgTbl) : List Nat := (span 0 48).map (fun e => bitsOf (cfgGet t (offPsched (e / 8))) (4 * (e % 8)) 4)

/-- PSCHED_LOAD (R36): at its boundary the staged schedule becomes live. -/
def execPschedLoad (s : State) : Host.Outcome State Fault Refusal :=
  .next (match s.schedLoad with
    | some c =>
      if c ≤ s.clock then
        { s with schedLoad := none, mem := { s.mem with sched := stagedSched s.mem.cfg, cfg := cfgField s.mem.cfg offPschedld 1 1 0 } }
      else s
    | none => s)

/-! ### The wheel (R27-R29) -/

/-- WHEEL_TAKE_EFFECT (R29): the wheel that was written for the core of the agent takes effect at a clock with t mod 32 = 0. -/
def execWheelTakeEffect (s : State) : Host.Outcome State Fault Refusal :=
  .next (match (s.core s.agent.a).pend with
    | some (alloc, ent) => if s.clock % 32 = 0 then s.modCore s.agent.a (fun c => { c with alloc := alloc, ent := ent, pend := none }) else s
    | none => s)

end Sys2Proof.Machine
end

