-- ==== Sys2Proof/Machine/Dispatch.lean ====
section
/-! DEFINITION. One arm for each row of the opcode table, each a call of the row's meaning. -/
namespace Sys2Proof.Machine

/-- The meaning of every instruction and step. -/
def exec (i : Instr) (s : State) : Host.Outcome State Fault Refusal :=
  match i with
  | .add gd ga gb => Sys2Proof.Machine.execAdd gd ga gb s
  | .sub gd ga gb => Sys2Proof.Machine.execSub gd ga gb s
  | .and gd ga gb => Sys2Proof.Machine.execAnd gd ga gb s
  | .or gd ga gb => Sys2Proof.Machine.execOr gd ga gb s
  | .xor gd ga gb => Sys2Proof.Machine.execXor gd ga gb s
  | .andn gd ga gb => Sys2Proof.Machine.execAndn gd ga gb s
  | .shl gd ga gb => Sys2Proof.Machine.execShl gd ga gb s
  | .shr gd ga gb => Sys2Proof.Machine.execShr gd ga gb s
  | .sra gd ga gb => Sys2Proof.Machine.execSra gd ga gb s
  | .rotr gd ga gb => Sys2Proof.Machine.execRotr gd ga gb s
  | .slt gd ga gb => Sys2Proof.Machine.execSlt gd ga gb s
  | .sltn gd ga gb => Sys2Proof.Machine.execSltn gd ga gb s
  | .min gd ga gb => Sys2Proof.Machine.execMin gd ga gb s
  | .max gd ga gb => Sys2Proof.Machine.execMax gd ga gb s
  | .minn gd ga gb => Sys2Proof.Machine.execMinn gd ga gb s
  | .maxn gd ga gb => Sys2Proof.Machine.execMaxn gd ga gb s
  | .mul gd ga gb => Sys2Proof.Machine.execMul gd ga gb s
  | .mulh gd ga gb => Sys2Proof.Machine.execMulh gd ga gb s
  | .mulhn gd ga gb => Sys2Proof.Machine.execMulhn gd ga gb s
  | .div gd ga gb => Sys2Proof.Machine.execDiv gd ga gb s
  | .divn gd ga gb => Sys2Proof.Machine.execDivn gd ga gb s
  | .rem gd ga gb => Sys2Proof.Machine.execRem gd ga gb s
  | .remn gd ga gb => Sys2Proof.Machine.execRemn gd ga gb s
  | .clz gd ga => Sys2Proof.Machine.execClz gd ga s
  | .ctz gd ga => Sys2Proof.Machine.execCtz gd ga s
  | .popc gd ga => Sys2Proof.Machine.execPopc gd ga s
  | .sxb gd ga => Sys2Proof.Machine.execSxb gd ga s
  | .sxh gd ga => Sys2Proof.Machine.execSxh gd ga s
  | .sxw gd ga => Sys2Proof.Machine.execSxw gd ga s
  | .zxw gd ga => Sys2Proof.Machine.execZxw gd ga s
  | .addi gd ga imm => Sys2Proof.Machine.execAddi gd ga imm s
  | .andi gd ga imm => Sys2Proof.Machine.execAndi gd ga imm s
  | .ori gd ga imm => Sys2Proof.Machine.execOri gd ga imm s
  | .xori gd ga imm => Sys2Proof.Machine.execXori gd ga imm s
  | .shiL gd ga sh => Sys2Proof.Machine.execShiL gd ga sh s
  | .shiR gd ga sh => Sys2Proof.Machine.execShiR gd ga sh s
  | .shiA gd ga sh => Sys2Proof.Machine.execShiA gd ga sh s
  | .shiO gd ga sh => Sys2Proof.Machine.execShiO gd ga sh s
  | .slti gd ga imm => Sys2Proof.Machine.execSlti gd ga imm s
  | .sltni gd ga imm => Sys2Proof.Machine.execSltni gd ga imm s
  | .lui gd imm => Sys2Proof.Machine.execLui gd imm s
  | .addpc gd imm => Sys2Proof.Machine.execAddpc gd imm s
  | .muli gd ga imm => Sys2Proof.Machine.execMuli gd ga imm s
  | .ldb gd ga imm => Sys2Proof.Machine.execLdb gd ga imm s
  | .ldh gd ga imm => Sys2Proof.Machine.execLdh gd ga imm s
  | .ldw gd ga imm => Sys2Proof.Machine.execLdw gd ga imm s
  | .ldd gd ga imm => Sys2Proof.Machine.execLdd gd ga imm s
  | .ldbn gd ga imm => Sys2Proof.Machine.execLdbn gd ga imm s
  | .ldhn gd ga imm => Sys2Proof.Machine.execLdhn gd ga imm s
  | .ldwn gd ga imm => Sys2Proof.Machine.execLdwn gd ga imm s
  | .stb gd ga imm => Sys2Proof.Machine.execStb gd ga imm s
  | .sth gd ga imm => Sys2Proof.Machine.execSth gd ga imm s
  | .stw gd ga imm => Sys2Proof.Machine.execStw gd ga imm s
  | .std gd ga imm => Sys2Proof.Machine.execStd gd ga imm s
  | .beq ga gb imm => Sys2Proof.Machine.execBeq ga gb imm s
  | .bne ga gb imm => Sys2Proof.Machine.execBne ga gb imm s
  | .blt ga gb imm => Sys2Proof.Machine.execBlt ga gb imm s
  | .bge ga gb imm => Sys2Proof.Machine.execBge ga gb imm s
  | .bltn ga gb imm => Sys2Proof.Machine.execBltn ga gb imm s
  | .bgen ga gb imm => Sys2Proof.Machine.execBgen ga gb imm s
  | .jal gd imm => Sys2Proof.Machine.execJal gd imm s
  | .jalr gd ga imm => Sys2Proof.Machine.execJalr gd ga imm s
  | .nop => Sys2Proof.Machine.execNop s
  | .halt => Sys2Proof.Machine.execHalt s
  | .trapi code => Sys2Proof.Machine.execTrapi code s
  | .rett => Sys2Proof.Machine.execRett s
  | .brk => Sys2Proof.Machine.execBrk s
  | .crr gd creg => Sys2Proof.Machine.execCrr gd creg s
  | .crw ga creg => Sys2Proof.Machine.execCrw ga creg s
  | .crs ga creg => Sys2Proof.Machine.execCrs ga creg s
  | .crc ga creg => Sys2Proof.Machine.execCrc ga creg s
  | .fence ord scope pmask => Sys2Proof.Machine.execFence ord scope pmask s
  | .fencex smask dmask scope => Sys2Proof.Machine.execFencex smask dmask scope s
  | .amoadd32 gd ga gb ord scope => Sys2Proof.Machine.execAmoadd32 gd ga gb ord scope s
  | .amoadd64 gd ga gb ord scope => Sys2Proof.Machine.execAmoadd64 gd ga gb ord scope s
  | .amominI32 gd ga gb ord scope => Sys2Proof.Machine.execAmominI32 gd ga gb ord scope s
  | .amominN32 gd ga gb ord scope => Sys2Proof.Machine.execAmominN32 gd ga gb ord scope s
  | .amominI64 gd ga gb ord scope => Sys2Proof.Machine.execAmominI64 gd ga gb ord scope s
  | .amominN64 gd ga gb ord scope => Sys2Proof.Machine.execAmominN64 gd ga gb ord scope s
  | .amomaxI32 gd ga gb ord scope => Sys2Proof.Machine.execAmomaxI32 gd ga gb ord scope s
  | .amomaxN32 gd ga gb ord scope => Sys2Proof.Machine.execAmomaxN32 gd ga gb ord scope s
  | .amomaxI64 gd ga gb ord scope => Sys2Proof.Machine.execAmomaxI64 gd ga gb ord scope s
  | .amomaxN64 gd ga gb ord scope => Sys2Proof.Machine.execAmomaxN64 gd ga gb ord scope s
  | .amofaddF32 gd ga gb ord scope => Sys2Proof.Machine.execAmofaddF32 gd ga gb ord scope s
  | .amofaddF64 gd ga gb ord scope => Sys2Proof.Machine.execAmofaddF64 gd ga gb ord scope s
  | .amofaddBf16x2 gd ga gb ord scope => Sys2Proof.Machine.execAmofaddBf16x2 gd ga gb ord scope s
  | .amoand32 gd ga gb ord scope => Sys2Proof.Machine.execAmoand32 gd ga gb ord scope s
  | .amoand64 gd ga gb ord scope => Sys2Proof.Machine.execAmoand64 gd ga gb ord scope s
  | .amoor32 gd ga gb ord scope => Sys2Proof.Machine.execAmoor32 gd ga gb ord scope s
  | .amoor64 gd ga gb ord scope => Sys2Proof.Machine.execAmoor64 gd ga gb ord scope s
  | .amoxor32 gd ga gb ord scope => Sys2Proof.Machine.execAmoxor32 gd ga gb ord scope s
  | .amoxor64 gd ga gb ord scope => Sys2Proof.Machine.execAmoxor64 gd ga gb ord scope s
  | .amoswap32 gd ga gb ord scope => Sys2Proof.Machine.execAmoswap32 gd ga gb ord scope s
  | .amoswap64 gd ga gb ord scope => Sys2Proof.Machine.execAmoswap64 gd ga gb ord scope s
  | .amoinc32 gd ga gb ord scope => Sys2Proof.Machine.execAmoinc32 gd ga gb ord scope s
  | .amoinc64 gd ga gb ord scope => Sys2Proof.Machine.execAmoinc64 gd ga gb ord scope s
  | .amodec32 gd ga gb ord scope => Sys2Proof.Machine.execAmodec32 gd ga gb ord scope s
  | .amodec64 gd ga gb ord scope => Sys2Proof.Machine.execAmodec64 gd ga gb ord scope s
  | .amocas32 gd ga gb ord scope => Sys2Proof.Machine.execAmocas32 gd ga gb ord scope s
  | .amocas64 gd ga gb ord scope => Sys2Proof.Machine.execAmocas64 gd ga gb ord scope s
  | .redadd32 gd ga gb ord scope => Sys2Proof.Machine.execRedadd32 gd ga gb ord scope s
  | .redadd64 gd ga gb ord scope => Sys2Proof.Machine.execRedadd64 gd ga gb ord scope s
  | .redminI32 gd ga gb ord scope => Sys2Proof.Machine.execRedminI32 gd ga gb ord scope s
  | .redminN32 gd ga gb ord scope => Sys2Proof.Machine.execRedminN32 gd ga gb ord scope s
  | .redminI64 gd ga gb ord scope => Sys2Proof.Machine.execRedminI64 gd ga gb ord scope s
  | .redminN64 gd ga gb ord scope => Sys2Proof.Machine.execRedminN64 gd ga gb ord scope s
  | .redmaxI32 gd ga gb ord scope => Sys2Proof.Machine.execRedmaxI32 gd ga gb ord scope s
  | .redmaxN32 gd ga gb ord scope => Sys2Proof.Machine.execRedmaxN32 gd ga gb ord scope s
  | .redmaxI64 gd ga gb ord scope => Sys2Proof.Machine.execRedmaxI64 gd ga gb ord scope s
  | .redmaxN64 gd ga gb ord scope => Sys2Proof.Machine.execRedmaxN64 gd ga gb ord scope s
  | .redfaddF32 gd ga gb ord scope => Sys2Proof.Machine.execRedfaddF32 gd ga gb ord scope s
  | .redfaddF64 gd ga gb ord scope => Sys2Proof.Machine.execRedfaddF64 gd ga gb ord scope s
  | .redfaddBf16x2 gd ga gb ord scope => Sys2Proof.Machine.execRedfaddBf16x2 gd ga gb ord scope s
  | .redand32 gd ga gb ord scope => Sys2Proof.Machine.execRedand32 gd ga gb ord scope s
  | .redand64 gd ga gb ord scope => Sys2Proof.Machine.execRedand64 gd ga gb ord scope s
  | .redor32 gd ga gb ord scope => Sys2Proof.Machine.execRedor32 gd ga gb ord scope s
  | .redor64 gd ga gb ord scope => Sys2Proof.Machine.execRedor64 gd ga gb ord scope s
  | .redxor32 gd ga gb ord scope => Sys2Proof.Machine.execRedxor32 gd ga gb ord scope s
  | .redxor64 gd ga gb ord scope => Sys2Proof.Machine.execRedxor64 gd ga gb ord scope s
  | .redswap32 gd ga gb ord scope => Sys2Proof.Machine.execRedswap32 gd ga gb ord scope s
  | .redswap64 gd ga gb ord scope => Sys2Proof.Machine.execRedswap64 gd ga gb ord scope s
  | .redinc32 gd ga gb ord scope => Sys2Proof.Machine.execRedinc32 gd ga gb ord scope s
  | .redinc64 gd ga gb ord scope => Sys2Proof.Machine.execRedinc64 gd ga gb ord scope s
  | .reddec32 gd ga gb ord scope => Sys2Proof.Machine.execReddec32 gd ga gb ord scope s
  | .reddec64 gd ga gb ord scope => Sys2Proof.Machine.execReddec64 gd ga gb ord scope s
  | .fadd gd ga gb p rm => Sys2Proof.Machine.execFadd gd ga gb p rm s
  | .fsub gd ga gb p rm => Sys2Proof.Machine.execFsub gd ga gb p rm s
  | .fmul gd ga gb p rm => Sys2Proof.Machine.execFmul gd ga gb p rm s
  | .fdiv gd ga gb p rm => Sys2Proof.Machine.execFdiv gd ga gb p rm s
  | .fsqrt gd ga p rm => Sys2Proof.Machine.execFsqrt gd ga p rm s
  | .fmac gd ga gb p rm => Sys2Proof.Machine.execFmac gd ga gb p rm s
  | .fnmac gd ga gb p rm => Sys2Proof.Machine.execFnmac gd ga gb p rm s
  | .fmin gd ga gb p => Sys2Proof.Machine.execFmin gd ga gb p s
  | .fmax gd ga gb p => Sys2Proof.Machine.execFmax gd ga gb p s
  | .fabs gd ga p => Sys2Proof.Machine.execFabs gd ga p s
  | .fneg gd ga p => Sys2Proof.Machine.execFneg gd ga p s
  | .feq gd ga gb p => Sys2Proof.Machine.execFeq gd ga gb p s
  | .flt gd ga gb p => Sys2Proof.Machine.execFlt gd ga gb p s
  | .fle gd ga gb p => Sys2Proof.Machine.execFle gd ga gb p s
  | .fclass gd ga p => Sys2Proof.Machine.execFclass gd ga p s
  | .fcvtfi gd ga p rm => Sys2Proof.Machine.execFcvtfi gd ga p rm s
  | .fcvtfn gd ga p rm => Sys2Proof.Machine.execFcvtfn gd ga p rm s
  | .fcvtif gd ga p rm => Sys2Proof.Machine.execFcvtif gd ga p rm s
  | .fcvtnf gd ga p rm => Sys2Proof.Machine.execFcvtnf gd ga p rm s
  | .fcvtff gd ga p rm => Sys2Proof.Machine.execFcvtff gd ga p rm s
  | .pin gd ga => Sys2Proof.Machine.execPin gd ga s
  | .unpin gd ga => Sys2Proof.Machine.execUnpin gd ga s
  | .discard ga gb => Sys2Proof.Machine.execDiscard ga gb s
  | .wback ga gb => Sys2Proof.Machine.execWback ga gb s
  | .l1inv => Sys2Proof.Machine.execL1inv s
  | .arrinit ga gb => Sys2Proof.Machine.execArrinit ga gb s
  | .arradd ga gb => Sys2Proof.Machine.execArradd ga gb s
  | .arrwait ga gb => Sys2Proof.Machine.execArrwait ga gb s
  | .arrpoll gd ga => Sys2Proof.Machine.execArrpoll gd ga s
  | .ctxld ga => Sys2Proof.Machine.execCtxld ga s
  | .lpgo ga gb => Sys2Proof.Machine.execLpgo ga gb s
  | .lpstop => Sys2Proof.Machine.execLpstop s
  | .lpstat gd => Sys2Proof.Machine.execLpstat gd s
  | .sqw ga => Sys2Proof.Machine.execSqw ga s
  | .toksend ga ch => Sys2Proof.Machine.execToksend ga ch s
  | .tokwait ch => Sys2Proof.Machine.execTokwait ch s
  | .tokbc ga ch => Sys2Proof.Machine.execTokbc ga ch s
  | .tokpoll gd ch => Sys2Proof.Machine.execTokpoll gd ch s
  | .give ga gb => Sys2Proof.Machine.execGive ga gb s
  | .bl1 n => Sys2Proof.Machine.execBl1 n s
  | .bscr n => Sys2Proof.Machine.execBscr n s
  | .rgld ga n => Sys2Proof.Machine.execRgld ga n s
  | .rgsv ga n => Sys2Proof.Machine.execRgsv ga n s
  | .rgoff n => Sys2Proof.Machine.execRgoff n s
  | .rgpush n => Sys2Proof.Machine.execRgpush n s
  | .rgpop n => Sys2Proof.Machine.execRgpop n s
  | .rgstat gd n => Sys2Proof.Machine.execRgstat gd n s
  | .send gd ga gb => Sys2Proof.Machine.execSend gd ga gb s
  | .post gd ga gb => Sys2Proof.Machine.execPost gd ga gb s
  | .unpost gd ga => Sys2Proof.Machine.execUnpost gd ga s
  | .shq gd ga => Sys2Proof.Machine.execShq gd ga s
  | .shwait => Sys2Proof.Machine.execShwait s
  | .shspan gd => Sys2Proof.Machine.execShspan gd s
  | .nrun gd ga gb => Sys2Proof.Machine.execNrun gd ga gb s
  | .pcq gd ga => Sys2Proof.Machine.execPcq gd ga s
  | .kset gd ga gb => Sys2Proof.Machine.execKset gd ga gb s
  | .kzero gd ga => Sys2Proof.Machine.execKzero gd ga s
  | .scrgo gd ga => Sys2Proof.Machine.execScrgo gd ga s
  | .scrq gd ga => Sys2Proof.Machine.execScrq gd ga s
  | .mxstep ga gc fresh sfmt blk pb pa shape acnm1 acb rnb rna fmt => Sys2Proof.Machine.execMxstep ga gc fresh sfmt blk pb pa shape acnm1 acb rnb rna fmt s
  | .mxzero nm1 acb => Sys2Proof.Machine.execMxzero nm1 acb s
  | .mxld gc lf nm1 acb rs => Sys2Proof.Machine.execMxld gc lf nm1 acb rs s
  | .mxst ga gb gc ts orn ore dfmt ak nm1 acb rd => Sys2Proof.Machine.execMxst ga gb gc ts orn ore dfmt ak nm1 acb rd s
  | .mxmov tr dst src => Sys2Proof.Machine.execMxmov tr dst src s
  | .mxsync => Sys2Proof.Machine.execMxsync s
  | .agcfg ga gb ctr ag => Sys2Proof.Machine.execAgcfg ga gb ctr ag s
  | .agrun fch fen sch sen ag => Sys2Proof.Machine.execAgrun fch fen sch sen ag s
  | .copy ga gb gc gd => Sys2Proof.Machine.execCopy ga gb gc gd s
  | .gath ga gb gc gd les cnt => Sys2Proof.Machine.execGath ga gb gc gd les cnt s
  | .scat ga gb gc gd les cnt => Sys2Proof.Machine.execScat ga gb gc gd les cnt s
  | .ringld ga ag age n rg => Sys2Proof.Machine.execRingld ga ag age n rg s
  | .ringst ga ag age n rg => Sys2Proof.Machine.execRingst ga ag age n rg s
  | .tsload ga slot => Sys2Proof.Machine.execTsload ga slot s
  | .deliv ga gb gc gd dst => Sys2Proof.Machine.execDeliv ga gb gc gd dst s
  | .cvcopy ga gb gc gd ore orn df sf => Sys2Proof.Machine.execCvcopy ga gb gc gd ore orn df sf s
  | .agstop ag => Sys2Proof.Machine.execAgstop ag s
  | .edgeAtomic src pa cas op b e => Sys2Proof.Machine.execEdgeAtomic src pa cas op b e s
  | .hostAtomicCompletion k ok old => Sys2Proof.Machine.execHostAtomicCompletion k ok old s
  | .forwardedAccess sn id ok data => Sys2Proof.Machine.execForwardedAccess sn id ok data s
  | .remapTableError stack cp pc => Sys2Proof.Machine.execRemapTableError stack cp pc s
  | .slwcmdGo v => Sys2Proof.Machine.execSlwcmdGo v s
  | .rsvptrTailWrite p d v => Sys2Proof.Machine.execRsvptrTailWrite p d v s
  | .portctlHostenWrite p v => Sys2Proof.Machine.execPortctlHostenWrite p v s
  | .xinvGo p v => Sys2Proof.Machine.execXinvGo p v s
  | .fbctlFlush p => Sys2Proof.Machine.execFbctlFlush p s
  | .mgctlMove d v => Sys2Proof.Machine.execMgctlMove d v s
  | .mgctlCheckpointRead d v => Sys2Proof.Machine.execMgctlCheckpointRead d v s
  | .mgctlRehome d v => Sys2Proof.Machine.execMgctlRehome d v s
  | .nend => Sys2Proof.Machine.execNend s
  | .nscan ty ds imm => Sys2Proof.Machine.execNscan ty ds imm s
  | .ngath ty ds sa imm => Sys2Proof.Machine.execNgath ty ds sa imm s
  | .nfilt ty ds sa sb cmp sel imm => Sys2Proof.Machine.execNfilt ty ds sa sb cmp sel imm s
  | .ncmpk ty ds sa sb => Sys2Proof.Machine.execNcmpk ty ds sa sb s
  | .nsum ty ds sa => Sys2Proof.Machine.execNsum ty ds sa s
  | .nmin ty ds sa => Sys2Proof.Machine.execNmin ty ds sa s
  | .nmax ty ds sa => Sys2Proof.Machine.execNmax ty ds sa s
  | .ncnt ty ds sa => Sys2Proof.Machine.execNcnt ty ds sa s
  | .nemit ty sa imm => Sys2Proof.Machine.execNemit ty sa imm s
  | .queueTailNotice q => Sys2Proof.Machine.execQueueTailNotice q s
  | .qctlRun q => Sys2Proof.Machine.execQctlRun q s
  | .qctlSkip q => Sys2Proof.Machine.execQctlSkip q s
  | .preemptRequest sn => Sys2Proof.Machine.execPreemptRequest sn s
  | .placerMove kinst => Sys2Proof.Machine.execPlacerMove kinst s
  | .prectlRst v => Sys2Proof.Machine.execPrectlRst v s
  | .prectlEvict v => Sys2Proof.Machine.execPrectlEvict v s
  | .prectlFree v => Sys2Proof.Machine.execPrectlFree v s
  | .uncontainedFault p header => Sys2Proof.Machine.execUncontainedFault p header s
  | .vfFlr v => Sys2Proof.Machine.execVfFlr v s
  | .keySlotRegWrite off v => Sys2Proof.Machine.execKeySlotRegWrite off v s
  | .seclaunchGo v => Sys2Proof.Machine.execSeclaunchGo v s
  | .claim m => Sys2Proof.Machine.execClaim m s
  | .handover m t => Sys2Proof.Machine.execHandover m t s
  | .release m => Sys2Proof.Machine.execRelease m s
  | .currentGate die => Sys2Proof.Machine.execCurrentGate die s
  | .ticketWrite desc pkg member ticket off data => Sys2Proof.Machine.execTicketWrite desc pkg member ticket off data s
  | .cfgRegisterWrite mode off v => Sys2Proof.Machine.execCfgRegisterWrite mode off v s
  | .unassignedOpcode w => Sys2Proof.Machine.execUnassignedOpcode w s
  | .attestationReport who nonce => Sys2Proof.Machine.execAttestationReport who nonce s
  | .arrayStep => Sys2Proof.Machine.execArrayStep s
  | .arrayChecksAnswered => Sys2Proof.Machine.execArrayChecksAnswered s
  | .arrayFlushSlot => Sys2Proof.Machine.execArrayFlushSlot s
  | .loadQueueFill => Sys2Proof.Machine.execLoadQueueFill s
  | .mxInterval => Sys2Proof.Machine.execMxInterval s
  | .mxTransferUnit => Sys2Proof.Machine.execMxTransferUnit s
  | .mxTileUnit => Sys2Proof.Machine.execMxTileUnit s
  | .streamElementStep => Sys2Proof.Machine.execStreamElementStep s
  | .agElement => Sys2Proof.Machine.execAgElement s
  | .ringTileLanded => Sys2Proof.Machine.execRingTileLanded s
  | .deliveryChunk => Sys2Proof.Machine.execDeliveryChunk s
  | .deliveryRetry => Sys2Proof.Machine.execDeliveryRetry s
  | .messageArrive => Sys2Proof.Machine.execMessageArrive s
  | .sendCompletion => Sys2Proof.Machine.execSendCompletion s
  | .giveAttach => Sys2Proof.Machine.execGiveAttach s
  | .bankModeSet => Sys2Proof.Machine.execBankModeSet s
  | .bscrZeroDone => Sys2Proof.Machine.execBscrZeroDone s
  | .loadReply => Sys2Proof.Machine.execLoadReply s
  | .atomicReply => Sys2Proof.Machine.execAtomicReply s
  | .storePerform => Sys2Proof.Machine.execStorePerform s
  | .ackReturn => Sys2Proof.Machine.execAckReturn s
  | .tokenArrive => Sys2Proof.Machine.execTokenArrive s
  | .rseqEntry => Sys2Proof.Machine.execRseqEntry s
  | .escalation => Sys2Proof.Machine.execEscalation s
  | .raceSweep => Sys2Proof.Machine.execRaceSweep s
  | .sliceAccess => Sys2Proof.Machine.execSliceAccess s
  | .backPart => Sys2Proof.Machine.execBackPart s
  | .spillTimeout => Sys2Proof.Machine.execSpillTimeout s
  | .atomicUpdate => Sys2Proof.Machine.execAtomicUpdate s
  | .redirectLand => Sys2Proof.Machine.execRedirectLand s
  | .redirectRetry => Sys2Proof.Machine.execRedirectRetry s
  | .edgeWriteback => Sys2Proof.Machine.execEdgeWriteback s
  | .completionTimeout => Sys2Proof.Machine.execCompletionTimeout s
  | .shutterDrain => Sys2Proof.Machine.execShutterDrain s
  | .shutterBegin => Sys2Proof.Machine.execShutterBegin s
  | .shutterOverrun => Sys2Proof.Machine.execShutterOverrun s
  | .shutterEnd => Sys2Proof.Machine.execShutterEnd s
  | .scheduleEntry => Sys2Proof.Machine.execScheduleEntry s
  | .pschedldGo => Sys2Proof.Machine.execPschedldGo s
  | .pschedLoad => Sys2Proof.Machine.execPschedLoad s
  | .wheelTakeEffect => Sys2Proof.Machine.execWheelTakeEffect s
  | .maskChangeSet => Sys2Proof.Machine.execMaskChangeSet s
  | .xinvComplete => Sys2Proof.Machine.execXinvComplete s
  | .nodeRequestStart => Sys2Proof.Machine.execNodeRequestStart s
  | .launch => Sys2Proof.Machine.execLaunch s
  | .launchPlace => Sys2Proof.Machine.execLaunchPlace s
  | .fencePacket => Sys2Proof.Machine.execFencePacket s
  | .wait => Sys2Proof.Machine.execWait s
  | .waitTest => Sys2Proof.Machine.execWaitTest s
  | .signal => Sys2Proof.Machine.execSignal s
  | .migrate => Sys2Proof.Machine.execMigrate s
  | .hashset => Sys2Proof.Machine.execHashset s
  | .hashsetDone => Sys2Proof.Machine.execHashsetDone s
  | .memberRemove => Sys2Proof.Machine.execMemberRemove s
  | .memberAdmit => Sys2Proof.Machine.execMemberAdmit s
  | .priorityPromotion => Sys2Proof.Machine.execPriorityPromotion s
  | .compactionPass => Sys2Proof.Machine.execCompactionPass s
  | .priorityPreempt => Sys2Proof.Machine.execPriorityPreempt s
  | .quantumExpiry => Sys2Proof.Machine.execQuantumExpiry s
  | .saveComplete => Sys2Proof.Machine.execSaveComplete s
  | .restore => Sys2Proof.Machine.execRestore s
  | .strandEnd => Sys2Proof.Machine.execStrandEnd s
  | .hang => Sys2Proof.Machine.execHang s
  | .partitionReset => Sys2Proof.Machine.execPartitionReset s
  | .vfClearUnit => Sys2Proof.Machine.execVfClearUnit s
  | .scrubUnit => Sys2Proof.Machine.execScrubUnit s
  | .packageReset => Sys2Proof.Machine.execPackageReset s
  | .rmcmdVerify => Sys2Proof.Machine.execRmcmdVerify s
  | .fuseMinver => Sys2Proof.Machine.execFuseMinver s
  | .handoverTimeout => Sys2Proof.Machine.execHandoverTimeout s
  | .grantPeriod => Sys2Proof.Machine.execGrantPeriod s
  | .performRecord => Sys2Proof.Machine.execPerformRecord s
  | .fetchFault => Sys2Proof.Machine.execFetchFault s
  | .maskChangeFrameTimeout => Sys2Proof.Machine.execMaskChangeFrameTimeout s
  | .migrationFrameTimeout => Sys2Proof.Machine.execMigrationFrameTimeout s
  | .raceCheckReply => Sys2Proof.Machine.execRaceCheckReply s

end Sys2Proof.Machine
end

