-- ==== Sys2Proof/Machine/Agenda.lean ====
section
/-! DEFINITION. What becomes due in a ck (R8, R17, R27, R28; log entry 2): the clock's own work, the moves of the outside, the steps that may
take place in it at the device's choice, the engines' slots, the strands' issue opportunities. -/
namespace Sys2Proof.Machine

/-! ### Moves of the outside that are no row of the table -/

/-- The outside writes host or peer memory (log entry 12). -/
def State.hostWrite (s : State) (addr : Nat) (data : List Byte) : State := { s with host := tblPutAll 0 s.host addr data }

/-- An error befalls a chunk of device memory (R337; log entry 15), which holds it from now on (R342). -/
def State.memError (s : State) (k : Nat) (e : Ecc) : State :=
  s.modMem (fun m => { m with ecc := tblPut none m.ecc k (some e), eccAt := tblPut 0 m.eccAt k s.clock })

/-- The parity of an accumulator element fails (R234; log entry 15). -/
def State.accError (s : State) (sn n : Nat) : State :=
  s.modStrand sn (fun t => { t with mx := { t.mx with acc := tblMod AccEl.zero t.mx.acc n (fun e => { e with bad := true }) } })

/-! ### The clock's own work -/

/-- A core's power accounts for the ck that ended (R410): a ck that ran counts against the grant, one that did not makes the period gated. -/
def State.spend (s : State) (core : Nat) : State :=
  if s.ungated core then s.modCore core (fun c => { c with grant := c.grant - 1 }) else s.modCore core (fun c => { c with gate := true })

/-- A die whose current was too high has gated all of its cores in the ck that ended, and their period is gated (R409, R410). -/
def State.gateAll (s : State) : State :=
  (s.gated.flatMap (fun d => (span 0 1536).filter (fun n => decide (dieOf n = d)))).foldl (fun s n => s.modCore n (fun c => { c with gate := true })) s

/-- The cores on which a strand stands. -/
def State.liveCores (s : State) : List Nat := (s.strands.map (fun e => coreOfSn e.1)).eraseDups

/-- A new period of 8,192 ck begins (R130): SWEPT of every strand number takes its sequence at the start of the period that ended. -/
def State.sweepTurn (s : State) : State :=
  if s.clock % 8192 = 0 then
    { s with sweeps := ((s.rseqs.map (·.1)) ++ s.sweeps.map (·.1)).eraseDups.foldl (fun tb sn =>
        tblPut ⟨0, 0⟩ tb sn ⟨(tblGet ⟨0, 0⟩ s.sweeps sn).cur, tblGet 0 s.rseqs sn⟩) s.sweeps }
  else s

/-! ### Moves -/

/-- A move of an agent. -/
def mv (i : Instr) (a b c : Nat) : Move := .event i a b c
/-- A list if a condition holds. -/
def whenL {α : Type} (b : Bool) (l : List α) : List α := if b then l else []
/-- The numbers of a list's elements. -/
def indices {α : Type} (l : List α) : List Nat := span 0 l.length

/-- Queues that the front end reads, or that hold packets in progress. -/
def State.liveQueues (s : State) : List Nat :=
  let on := (s.mem.cfg.filter (fun e => decide (offQcfg 0 ≤ e.1) && decide (e.1 % 32 = 0) && bitOf e.2 4)).map (fun e => (e.1 - offQcfg 0) / 32)
  on ++ ((s.queues.filter (fun e => !e.2.pkts.isEmpty)).map (·.1)).filter (fun q => !(on.any (fun k => decide (k = q))))

/-- The work that a clock value brings (R29, R34, R36, R130, R307-R329, R350, R355, R368, R371, R389, R408, R410). -/
def State.clockMoves (s : State) : List Move :=
  let t := s.clock
  let x := s.mem.shut
  whenL (decide (t % 1536 = 0) && s.schedLoad.isSome) [mv .pschedLoad 0 0 0] ++
  whenL (decide (t % 32 = 0)) (mv .scheduleEntry 0 0 0 :: (s.cores.filter (fun e => e.2.pend.isSome)).map (fun e => mv .wheelTakeEffect e.1 0 0)) ++
  whenL (!x.drained && decide (shutterStart x.n0 ≤ t + 252)) [mv .shutterDrain 0 0 0] ++
  whenL (!x.begun && decide (shutterStart x.n0 ≤ t)) [mv .shutterBegin 0 0 0] ++
  whenL (decide (t % 2100 = 0)) [mv .grantPeriod 0 0 0] ++
  whenL (decide (t % 8192 = 0)) ((span 0 192).map (fun k => mv .raceSweep k 0 0)) ++
  (indices s.mem.spills).flatMap (fun k => whenL ((s.mem.spills.getD k ⟨0, 0, 0, 0, []⟩).held.any (fun h => decide (h.since + 210000 ≤ t))) [mv .spillTimeout k 0 0]) ++
  whenL s.mem.mask.isSome [mv .maskChangeFrameTimeout 0 0 0] ++
  (s.mem.migs.filter (fun j => j.waitSince.isSome)).map (fun j => mv .migrationFrameTimeout j.die 0 0) ++
  (span 0 4).flatMap (fun d => (indices (s.mem.edge.filter (fun e => decide (e.die = d)))).flatMap (fun k =>
    whenL (((s.mem.edge.filter (fun e => decide (e.die = d)))[k]?).any (fun e => e.dirty && decide (e.since + 65536 ≤ t))) [mv .edgeWriteback d k 0])) ++
  whenL s.offerPend [mv .handoverTimeout 0 0 0] ++
  whenL (decide (t % 4096 = 0)) (s.liveQueues.map (fun q => mv .waitTest q 0 0)) ++
  (indices s.waiting).map (fun k => mv .priorityPromotion ((s.waiting[k]?).elim 0 (·.part)) k 0) ++
  (s.insts.filter (fun e => let l := bitsOf (cfgGet s.mem.cfg (offWdcfg e.2.part)) 0 40; decide (l ≠ 0) && decide (l ≤ e.2.count))).map (fun e => mv .hang e.1 0 0)

/-- Whether a use of the partition's transport may go now (R34): uses at a bank are not scheduled. -/
def State.mayGo (s : State) (p : Nat) (x : Option Part) : Bool :=
  s.admits p || (match x with | some y => (match y.place with | .bank _ _ => true | _ => false) | none => true)

/-- What may happen next to an access of the load table or a reduction. -/
def State.accMoves (s : State) (sn : Nat) (a : Acc) : List Move :=
  let go := s.mayGo (partOfSn sn) (nextPart a.parts)
  match a.kind with
  | .load _ _ => whenL go [mv .sliceAccess sn a.id 0] ++ [mv .loadReply sn a.id 0]
  | .atom _ false _ _ _ _ => whenL go [mv .atomicUpdate sn a.id 0]
  | .atom _ true _ _ _ _ => [mv .atomicReply sn a.id 0]
  | .pin _ _ none => whenL go [mv .sliceAccess sn a.id 0]
  | .pin _ _ (some _) => [mv .loadReply sn a.id 0]
  | .node _ => []
  | .send left _ => whenL (decide (left = 0)) [mv .sendCompletion sn a.id 0]

/-- Whether what a load-queue entry reads next lies in the scratchpad window. -/
def LqEnt.window (x : LqEnt) : Bool := (nextPart x.parts).any (fun p => match p.place with | .bank _ _ => true | _ => false)

/-- The loads of the array from the window that are there in this ck (R195, R226), one move for each of their parts. -/
def State.dueFills (s : State) : List Move :=
  s.strands.flatMap (fun e => (indices e.2.arrx.pes).flatMap (fun k =>
    let lq := (e.2.arrx.pes.getD k .fresh).lq
    (indices lq).flatMap (fun j => match lq[j]? with
      | some x => if !x.filled && !x.cp && x.window && decide (x.due ≤ s.clock) then x.parts.map (fun _ => mv .loadQueueFill e.1 k j) else []
      | none => [])))

/-- The tokens on their way, each of which may arrive; they go before the steps that take tokens (R206). -/
def State.tokenMoves (s : State) : List Move := (indices s.toks).map (fun k => mv .tokenArrive k 0 0)

/-- What may happen next to a strand outside its engines' slots. -/
def State.strandMoves (s : State) (sn : Nat) (t : Strand) : List Move :=
  let p := partOfSn sn
  (t.seq.loads ++ t.seq.reds).flatMap (s.accMoves sn) ++
  -- from the last, so that a store that leaves does not shift those named after it
  (indices t.seq.stores).reverse.flatMap (fun k => match t.seq.stores[k]? with
    | some x => whenL (s.mayGo p (nextPart x.parts)) [if x.rc then mv .sliceAccess sn x.id 0 else mv .storePerform sn k 0]
    | none => []) ++
  (indices t.seq.acks).reverse.map (fun k => mv .ackReturn sn k 0) ++
  (match t.seq.wait with
   | .checked _ => [mv .raceCheckReply sn 0 0]
   | .drain _ _ => [mv .bankModeSet sn 0 0]
   | .attach _ _ _ _ => [mv .giveAttach sn 0 0]
   | .halted => [mv .strandEnd sn 0 0]
   | _ => []) ++
  (indices t.seq.slots).flatMap (fun i => whenL ((t.slot i).zero) [mv .bscrZeroDone sn i 0]) ++
  (t.str.rings.filter (fun e => !e.2.resv.isEmpty)).map (fun e => mv .ringTileLanded sn e.1 0) ++
  (indices t.arrx.pes).flatMap (fun e => (indices (t.arrx.pes.getD e .fresh).lq).flatMap (fun k => match (t.arrx.pes.getD e .fresh).lq[k]? with
    | some x => whenL (!x.filled && !x.cp && !x.window && s.mayGo p (nextPart x.parts)) [mv .loadQueueFill sn e k]
    | none => [])) ++
  whenL t.arrx.await [mv .arrayChecksAnswered sn 0 0] ++
  (match t.run with
   | .halted .save => [mv .saveComplete sn 0 0]
   | .halted .keep => [mv .escalation sn 0 0]
   | _ => [])

/-- What a queue may do next: its TAIL may be read in any entry that admits its partition, and is read in each (R34, R365), a completion be updated,
the next packet read. -/
def State.packetMoves (s : State) (q : Nat) : List Move :=
  whenL (s.admits (s.qPart q) || (s.queue q).pkts.any (fun k => match k.stage with | .done _ => true | .started => decide (k.typ = 4))) [mv (.queueTailNotice q) 0 0 0] ++
  (if s.qReads q then
    let b := s.qPacket q (s.queue q).head
    match fld b 0 1 with
    | 1 => [mv .launch q 0 0]
    | 2 => [mv .fencePacket q 0 0]
    | 3 => mv .wait q 0 0 :: (s.aheadOf q).map (fun k => Move.prefetch q k)
    | 4 => [mv .signal q 0 0]
    | 5 => [mv .migrate q 0 0]
    | 6 => [mv .hashset q 0 0]
    | 7 => [if fld b 18 1 = 0 then mv .memberRemove q 0 0 else mv .memberAdmit q 0 0]
    | _ => []
  else [])

/-- Steps of the memory side, the edges and the front end that may take place now. -/
def State.packageMoves (s : State) : List Move :=
  let m := s.mem
  m.rel.flatMap (fun r => r.left.map (fun sl => mv .rseqEntry r.sn sl 0)) ++
  (indices s.chunks).reverse.flatMap (fun k => whenL (s.admits (s.instOf ((s.chunks[k]?).elim 0 (·.kinst))).part) [mv .deliveryChunk k 0 0] ++ [mv .deliveryRetry k 0 0]) ++
  (indices s.msgs).reverse.flatMap (fun k => whenL (s.admits (s.instOf ((s.msgs[k]?).elim 0 (·.kinst))).part) [mv .messageArrive k 0 0]) ++
  (indices s.redirs).reverse.flatMap (fun k => whenL (s.admits (s.instOf ((s.redirs[k]?).elim 0 (·.kinst))).part) [mv .redirectLand k 0 0] ++ [mv .redirectRetry k 0 0]) ++
  (indices s.hostOps).map (fun k => mv .completionTimeout k 0 0) ++
  (indices m.spills).reverse.flatMap (fun k => whenL (s.admits ((m.spills[k]?).elim 0 (·.part))) [mv .backPart k 0 0]) ++
  whenL (m.mask.any (fun c => s.admits c.part)) [mv .maskChangeSet 0 0 0] ++
  m.xinv.map (fun x => mv .xinvComplete x.1 0 0) ++
  m.migs.flatMap (fun j => whenL (s.admits j.part) [mv (.mgctlMove j.die 0) 0 0 0]) ++
  s.nodes.flatMap (fun e => (match e.2.prog with | some r => whenL (s.admits r.req.part) [Move.row e.1] | none => whenL (!e.2.queue.isEmpty) [mv .nodeRequestStart (e.1 / 16) (e.1 % 16) 0])) ++
  s.groups.map (fun d => mv .performRecord d 0 0) ++
  (match m.unclr with | (v, _) :: _ => [mv .vfClearUnit v 0 0] | [] => []) ++
  whenL (!m.scrubs.isEmpty) [mv .scrubUnit 0 0 0] ++
  whenL (decide (s.boot.st = 2) && decide (s.boot.rmstat = 1)) [mv .rmcmdVerify 0 0 0] ++ whenL (decide (s.boot.st = 2) && decide (s.boot.rmstat = 2)) [Move.flashWrite] ++
  ((m.rewrites.map (·.stack)).eraseDups).map (fun st => mv .hashsetDone st 0 0) ++
  whenL (m.shut.overrun && decide (shutterStart m.shut.n0 + shutterLen m.shut.n0 < s.clock)) [mv .shutterEnd 0 0 0] ++
  (s.liveQueues.flatMap s.packetMoves) ++
  ((s.waiting.map (·.part)).eraseDups).flatMap (fun p => [mv .launchPlace p 0 0, mv .compactionPass p 0 0, mv .priorityPreempt p 0 0]) ++
  whenL (!s.waiting.isEmpty) (s.insts.map (fun e => mv .quantumExpiry e.1 0 0)) ++
  ((s.saved.filter (fun v => !v.kept)).map (fun v => mv .restore v.kinst 0 0)).eraseDups

/-- The name of a use of a scheduled resource, as long as it waits; empty for any other move. -/
def State.useName (s : State) (x : Move) : List Nat :=
  match x with
  | .event .sliceAccess a b _ => [1, a, b]
  | .event .atomicUpdate a b _ => [2, a, b]
  | .event .storePerform a k _ => [3, a, ((s.strand? a).bind (fun t => t.seq.stores[k]?)).elim 0 (·.id)]
  | .event .loadQueueFill a e k => [4, a, e, ((s.strand? a).bind (fun t => (t.arrx.pes.getD e .fresh).lq[k]?)).elim 0 (·.id)]
  | .event .deliveryChunk k _ _ => (s.chunks[k]?).elim [] (fun c => [5, c.kinst, c.slin, c.cmd, c.off])
  | .event .messageArrive k _ _ => (s.msgs[k]?).elim [] (fun c => [6, c.kinst, c.slin, c.acc, c.tlin])
  | .event .redirectLand k _ _ => (s.redirs[k]?).elim [] (fun c => [7, c.kinst, c.tlin, c.slice, c.dst])
  | .event (.mgctlMove d _) _ _ _ => [8, d]
  | .event .maskChangeSet _ _ _ => [9]
  | .event .backPart k _ _ => (s.mem.spills[k]?).elim [] (fun x => [10, x.part, x.vpart])
  | .row k => [11, k]
  | .event .arrayChecksAnswered a _ _ => [12, a]
  | .event .saveComplete a _ _ => [13, a]
  | .event .escalation a _ _ => [14, a]
  | .event .scrubUnit _ _ _ => [15]
  | .event (.queueTailNotice q) _ _ _ => [16, q]
  | .event .wait q _ _ => [17, q]
  | _ => []

/-- The steps that may take place in this ck: each does or does not, at the device's choice. -/
def chooseMoves : List Move → Mem → List Move × Mem
  | [], m => ([], m)
  | x :: xs, m =>
    let (i, m) := m.pick 2
    let (ys, m) := chooseMoves xs m
    (if i = 1 then x :: ys else ys, m)

/-! ### Engines and issue -/

/-- The row of the array that the strand of this ck's slot runs (R28, R199). -/
def State.arraySlot (s : State) (core : Nat) : List Move :=
  match (s.core core).owner (s.clock % 16) with
  | none => []
  | some i =>
    match s.strand? (4 * core + i) with
    | none => []
    | some t => if t.arr.st = .idle then [] else if t.arr.st = .flush then [mv .arrayFlushSlot (4 * core + i) 0 0] else [mv .arrayStep (4 * core + i) 0 0]

/-- The unit of the matrix engine that the strand of this interval runs (R28, R242, R248, R250). -/
def State.matrixSlot (s : State) (core : Nat) : List Move :=
  if s.clock % 2 ≠ 0 then []
  else match (s.core core).owner (s.clock / 2 % 16) with
  | none => []
  | some i =>
    match (s.strand? (4 * core + i)).bind (fun t => t.mx.queue.head?) with
    | none => []
    | some e =>
      let sn := 4 * core + i
      match e.cmd with
      | .step _ _ _ _ _ _ _ _ _ _ _ _ _ => [mv .mxInterval sn 0 0]
      | .zero _ _ => [mv .mxTileUnit sn 0 0]
      | .mov _ _ _ => [mv .mxTileUnit sn 0 0]
      | .ld _ _ _ _ => [mv .mxTransferUnit sn 0 0]
      | .st _ _ _ _ _ _ _ _ _ _ _ _ _ => [mv .mxTransferUnit sn 0 0]

/-- The command (0) and the running tiles (1 + tile) of a strand that ask the stream engine for a step (R283). -/
def Strand.streamAsks (t : Strand) : List Nat :=
  whenL (!t.str.queue.isEmpty) [0] ++ (t.str.ags.filter (fun e => decide (e.2.run ≠ .stopped) && e.2.bind)).map (fun e => e.1 + 1)

/-- The step of the stream engine in this ck (R17, R283, R289): for the strand that asks and comes next after the one served last, the next after its last
turn. -/
def State.streamSlot (s : State) (core : Nat) : List Move × State :=
  let order := (span ((s.core core).srr + 1) 4).map (fun k => 4 * core + k % 4)
  match order.find? (fun sn => ((s.strand? sn).elim [] Strand.streamAsks).isEmpty = false) with
  | none => ([], s)
  | some sn =>
    match s.strand? sn with
    | none => ([], s)
    | some t =>
      let asks := t.streamAsks
      let k := (asks.find? (fun k => decide (t.str.turn < k))).getD (asks.headD 0)
      ([if k = 0 then mv .streamElementStep sn 0 0 else mv .agElement sn (k - 1) 0], (s.setStrand sn { t with str := { t.str with turn := k } }).modCore core (fun c => { c with srr := sidxOf sn }))

/-- The issue opportunities of a core's strands, in round-robin order (R17). -/
def State.issueSlots (s : State) (core : Nat) : List Move :=
  let rr := (s.core core).rr
  ((span (rr + 1) 4).map (fun k => 4 * core + k % 4)).flatMap (fun sn => whenL ((s.strand? sn).any (fun t => decide (t.run = .running))) [Move.issue sn])

/-- The engines' slots and issue opportunities of a list of cores. -/
def engineMoves : List Nat → State → List Move × State
  | [], s => ([], s)
  | c :: cs, s =>
    let (st, s) := s.streamSlot c
    let (r, s) := engineMoves cs s
    (s.arraySlot c ++ s.matrixSlot c ++ st ++ s.issueSlots c ++ r, s)

/-- Claims of ownership of one ck are taken in the order of the masters (R408). -/
def claimsFirst (l : List Move) : List Move :=
  let master := fun (x : Move) => match x with | .event (.claim m) _ _ _ => m | _ => 0
  sortBy (fun a b => decide (master a ≤ master b)) (l.filter (fun x => decide (master x ≠ 0))) ++ l.filter (fun x => decide (master x = 0))

/-- The moves of the ck, once the schedule and the wheels in force are known (R29, R34): loads from the window that are there, uses that must not wait
longer, what may happen, the engines' slots and the issue opportunities. In the last ck of an entry every use goes that has waited since its first (R45). -/
def State.lay (s : State) : State :=
  let offered := s.strands.flatMap (fun e => s.strandMoves e.1 e.2) ++ s.packageMoves
  let names := (offered.map s.useName).filter (fun x => !x.isEmpty)
  let waits := if s.clock % 32 = 0 then names else s.waits.filter (fun x => names.any (fun y => decide (y = x)))
  let must := fun (x : Move) => decide (s.clock % 32 = 31) && waits.any (fun y => decide (y = s.useName x))
  let (toks, m) := chooseMoves s.tokenMoves s.mem
  let (opt, m) := chooseMoves (offered.filter (fun x => !must x)) m
  let (eng, s1) := engineMoves (s.liveCores.filter s.ungated) (s.setMem m)
  { s1 with waits := waits, agenda := s.dueFills ++ toks ++ offered.filter must ++ opt ++ eng ++ s.agenda }

/-! ### What holds a strand (R340, R357, R389) -/

/-- The state after a move, tried. -/
def State.tried (s : State) (x : Move) : State :=
  let go := fun (o : Host.Outcome State Fault Refusal) => match o with | .next s' => s' | _ => s
  match x with
  | .event i a b c => go (exec i { s with agent := ⟨a, b, c⟩ })
  | .row k => (match s.nodeRow k with | some i => go (exec i { s with agent := ⟨k / 16, k % 16, 0⟩ }) | none => s)
  | .issue sn => (match ({ s with agent := ⟨sn, 0, 0⟩ } : State).issue sn with | .run i s' => go (exec i s') | .idle s' => s')
  | _ => s

/-- Whether a move would get a strand on: the strand itself, a node's program, or a spill. -/
def State.getsOn (s : State) (sn : Nat) (x : Move) : Bool :=
  let s := s.modStrand sn (fun t => { t with prog := false })
  let s' := s.tried x
  (s'.strand? sn).any (·.prog) || decide (s'.nodes ≠ s.nodes) || decide (s'.mem.spills.length < s.mem.spills.length)

/-- The machine as if every entry of the schedule admitted every use, as if no shutter stopped device memory, as if no stack were rewritten. -/
def State.opened (s : State) : State := s.modMem (fun m => { m with sched := List.replicate 48 15 })
def State.unshut (s : State) : State := s.modMem (fun m => { m with shut := { m.shut with drained := false, begun := false } })
def State.unwritten (s : State) : State := s.modMem (fun m => { m with rewrites := [] })

/-- Whether a move is held by a rewrite, or by a shutter: it gets the strand on without it, and does not with it. -/
def State.heldByRewrite (s : State) (sn : Nat) (x : Move) : Bool :=
  let o := s.opened.unshut
  !o.getsOn sn x && o.unwritten.getsOn sn x
def State.heldByShutter (s : State) (sn : Nat) (x : Move) : Bool :=
  let o := s.opened.unwritten
  !o.getsOn sn x && o.unshut.getsOn sn x

/-- The steps that could get a strand on: its own and its engines', the backing of parts that its accesses wait for, its programs on the nodes. -/
def State.triesOf (s : State) (sn : Nat) (t : Strand) : List Move :=
  s.opened.strandMoves sn t ++ [.issue sn, mv .arrayStep sn 0 0, mv .arrayFlushSlot sn 0 0, mv .mxInterval sn 0 0, mv .mxTileUnit sn 0 0, mv .mxTransferUnit sn 0 0] ++
  t.streamAsks.map (fun k => if k = 0 then mv .streamElementStep sn 0 0 else mv .agElement sn (k - 1) 0) ++
  (indices s.mem.spills).flatMap (fun k => whenL ((s.mem.spills[k]?).any (fun x => x.held.any (fun h => decide (h.sn = sn)))) [mv .backPart k 0 0]) ++
  (s.nodes.filter (fun e => e.2.prog.any (fun r => decide (r.req.sn = sn)))).map (fun e => Move.row e.1)

/-- Whether an access of a strand is held by a rewrite of its stack (R340, R389). -/
def State.rewriteHeld (s : State) (sn : Nat) (t : Strand) : Bool :=
  !s.mem.rewrites.isEmpty && (s.triesOf sn t).any (s.heldByRewrite sn)

/-- The latencies and the watchdog in a ck (R159, R389): the count of an instance with a strand not saved advances unless one of them made progress or is held by a
hash rewrite. -/
def State.watch (s : State) : State :=
  let count := fun (e : Nat × Inst) =>
    let ts := s.standing e.1
    (e.1, { e.2 with count := if ts.isEmpty || ts.any (fun x => x.2.prog || s.rewriteHeld x.1 x.2) then 0 else e.2.count + 1 })
  { s with insts := s.insts.map count, strands := s.strands.map (fun (e : Nat × Strand) => (e.1, { e.2.lapse with prog := false })) }

/-- Whether the backing of a part that an access of a strand waits for is held by a shutter. -/
def State.spillShut (s : State) (sn acc : Nat) : Bool :=
  (indices s.mem.spills).any (fun k => (s.mem.spills[k]?).any (fun x => x.held.any (fun h => decide (h.sn = sn) && decide (h.acc = acc))) &&
    s.heldByShutter sn (mv .backPart k 0 0))

/-- While a shutter overruns, what it holds gains SHUTTER in the status that it reports (R357): the current stream command, a reduction, the program of a
node. -/
def State.lateMarks (s : State) : State :=
  if !s.mem.shut.overrun then s
  else
    let red := fun (sn : Nat) (a : Acc) => match a.kind with
      | .atom x false old p fl l =>
        if s.heldByShutter sn (mv .atomicUpdate sn a.id 0) || s.spillShut sn a.id then { a with kind := .atom { x with late := true } false old p fl l } else a
      | _ => a
    let strand := fun (e : Nat × Strand) =>
      let t := if !e.2.str.queue.isEmpty && s.heldByShutter e.1 (mv .streamElementStep e.1 0 0)
        then e.2.strHead (fun c => { c with status := stOr c.status stSHUTTER }) else e.2
      (e.1, t.mapSeq (fun q => { q with reds := q.reds.map (red e.1) }))
    let node := fun (e : Nat × Node) => match e.2.prog with
      | some r => if s.heldByShutter r.req.sn (.row e.1) then (e.1, { e.2 with prog := some { r with status := stOr r.status stSHUTTER } }) else e
      | none => e
    { s with strands := s.strands.map strand, nodes := s.nodes.map node }

/-- The next ck: the clock advances, what it brings becomes due, with inputs from outside; then the moves of the ck are laid out. -/
def State.tick (s : State) : State :=
  let s := (s.liveCores.foldl State.spend s).gateAll.lateMarks.watch.settle
  let s := (({ s with clock := s.clock + 1, gated := [] }).sweepTurn).modMem Mem.drainRecs
  let (n, m) := s.mem.pick (s.inbox.length + 1)
  let input := s.inbox.take n
  let s := { s.setMem m with inbox := s.inbox.drop n }
  let overran := s.mem.shut.begun && !s.mem.shut.overrun && decide (shutterStart s.mem.shut.n0 + shutterLen s.mem.shut.n0 ≤ s.clock)
  let (late1, m) := if overran then s.mem.pick 2 else (0, s.mem)
  let s := s.setMem m
  let late : List Move := if late1 = 1 then [mv .shutterOverrun 0 0 0] else whenL overran [mv .shutterEnd 0 0 0]
  { s with agenda := s.clockMoves ++ late ++ claimsFirst input ++ [.lay] }

end Sys2Proof.Machine
end

