-- ==== Sys2Proof/Machine/Step.lean ====
section
/-! DEFINITION. One step of the machine: the next move that is due, or the next ck when none is (log entry 2). -/
namespace Sys2Proof.Machine

/-- One step. -/
def step (s : State) : Host.Outcome State Fault Refusal :=
  match s.agenda with
  | [] => .next s.tick
  | .issue sn :: ms =>
    match ({ s with agenda := ms, agent := ⟨sn, 0, 0⟩ } : State).issue sn with
    | .run i s' => s'.outIssue sn (exec i s')
    | .idle s' => .next (s.afterIssue sn s')
  | .event i a b c :: ms => exec i { s with agenda := ms, agent := ⟨a, b, c⟩ }
  | .row k :: ms =>
    match s.nodeRow k with
    | some i => exec i { s with agenda := ms, agent := ⟨k / 16, k % 16, 0⟩ }
    | none => .next { s with agenda := ms }
  | .hostWrite addr data :: ms => .next (({ s with agenda := ms } : State).hostWrite addr data)
  | .memError k e :: ms => .next (({ s with agenda := ms } : State).memError k e)
  | .accError sn n :: ms => .next (({ s with agenda := ms } : State).accError sn n)
  | .bankError row :: ms => .next (({ s with agenda := ms } : State).modMem (fun m => { m with becc := tblPut false m.becc row true }))
  | .stage off data :: ms => .next (({ s with agenda := ms } : State).stage off data)
  | .flashWrite :: ms => .next (({ s with agenda := ms } : State).flashWrite)
  | .barRead fn off :: ms => .next (({ s with agenda := ms } : State).barRead fn off)
  | .cfgLoad mode off n :: ms => .next (({ s with agenda := ms } : State).cfgLoad mode off n)
  | .command m i :: ms =>
    if s.boot.st ≠ 1 ∨ commandOf i = false then .next { s with agenda := ms }
    else if m = 0 ∨ s.owner ≠ m then .next { s with agenda := ms, outs := s.outs ++ [.notOwner m] }
    else exec i { s with agenda := ms, agent := ⟨8, 0, 3⟩ }
  | .current die amps :: ms => .next (({ s with agenda := ms } : State).current die amps)
  | .peerRead src pa n :: ms => .next (({ s with agenda := ms } : State).peerRead src pa n)
  | .peerWrite src pa data :: ms => .next (({ s with agenda := ms } : State).peerWrite src pa data)
  | .prefetch q k :: ms => .next (({ s with agenda := ms } : State).prefetch q k)
  | .lay :: ms => .next (({ s with agenda := ms } : State).lay)

/-- `s` with an instruction stored where the machine fetches its next one (log entry 5): a word that the sequencer takes stands at strand
0's PC; one that only a memory node takes is the row that a node program is at. -/
def State.withFetchWord (s : State) (nbits w : Nat) : State :=
  match decodeWords (BitVec.ofNat 32 (w % 2 ^ nbits)) (BitVec.ofNat 32 (w % 2 ^ nbits / 2 ^ 32)) with
  | .ok (.unassignedOpcode _) =>
    (match decodeRow (BitVec.ofNat 32 (w % 2 ^ nbits)) with
     | .ok _ => s.placeRow (w % 2 ^ nbits)
     | .error _ => s.placeCode (w % 2 ^ nbits))
  | .ok _ => s.placeCode (w % 2 ^ nbits)
  | .error _ =>
    match decodeRow (BitVec.ofNat 32 (w % 2 ^ nbits)) with
    | .ok _ => s.placeRow (w % 2 ^ nbits)
    | .error _ => s.placeCode (w % 2 ^ nbits)

end Sys2Proof.Machine
end

