-- ==== Sys2Proof/Safety.lean ====
section
/-! DEFINITION. The terms that claims use: a safe step (R8), the strand an instruction belongs to, and what an instruction leaves as it was. -/
namespace Sys2Proof.Machine

/-- A step that the model goes through without a fault or a refusal. -/
def SafeStep (s : State) : Prop := ∃ s', step s = .next s'

/-- The instruction that runs is one of strand `sn`, which is `t`. -/
def Runs (s : State) (sn : Nat) (t : Strand) : Prop := s.agent.a = sn ∧ s.strand? sn = some t

/-- From `s` to `s'` only strand `sn` has changed, and it is `t'` now: every byte of memory, every core, every other strand and all else
is as it was. -/
def OnlyStrand (s s' : State) (sn : Nat) (t' : Strand) : Prop :=
  s'.strand? sn = some t' ∧ (∀ k, k ≠ sn → s'.strand? k = s.strand? k) ∧ { s' with strands := s.strands } = s

/-- From `t` to `t'` nothing has changed but PC, the g registers with their marks, the control registers and the mark of progress: the trap
registers, the accesses in flight, the bank map, the array, the matrix and the stream engine are as they were. -/
def RegsOnly (t t' : Strand) : Prop :=
  { t' with seq := t.seq, prog := t.prog } = t ∧
  { t'.seq with pc := t.seq.pc, g := t.seq.g, gp := t.seq.gp, gpend := t.seq.gpend, glat := t.seq.glat, undo := t.seq.undo, ctl := t.seq.ctl, wait := t.seq.wait } = t.seq

/-- The control registers after an instruction that retires and writes none: RETIRED counts it (R151). -/
def Ctl.counted (c : Ctl) : Ctl := { c with retired := c.retired + 1 }

/-- Register `gd` holds `v` with poison bit `p`, pending while `late`; every other register and mark is as it was; g0 takes nothing
(R145, R147). -/
def Wrote (t t' : Strand) (gd : Reg) (v : W64) (p late : Bool) : Prop :=
  ∀ r : Reg, t'.g r = (if r = gd ∧ r ≠ 0 then v else t.g r) ∧ t'.gp r = (if r = gd ∧ r ≠ 0 then p else t.gp r) ∧
    t'.pend r = (if r = gd ∧ r ≠ 0 then late else t.pend r)

/-- No register changes. -/
def RegsKept (t t' : Strand) : Prop := ∀ r : Reg, t'.g r = t.g r ∧ t'.gp r = t.gp r ∧ t'.pend r = t.pend r

/-- Strand `t` has entered its handler for a cause of the sequencer or the atomic unit (R155): the trap registers hold the cause, PC is the
handler's address, and nothing else has changed; the instruction has not retired (R154). -/
def InHandler (t t' : Strand) (cause src detail val : Nat) : Prop :=
  t' = { t with
    prog := true
    seq := { t.seq with
      pc := t.seq.trap.tvec &&& ~~~3#64
      undo := none
      wait := .none
      trap := { t.seq.trap with
        tcause := BitVec.ofNat 64 (src * 65536 + detail * 256 + cause), tval := BitVec.ofNat 64 val, tpc := t.seq.pc &&& ~~~3#64,
        intrap := true } } }

/-- Causes go to the strand's handler: TVEC.EN = 1 and TSTATE.INTRAP = 0 (R154). -/
def Handles (t : Strand) : Prop := t.seq.trap.tvec.getLsbD 0 = true ∧ t.seq.trap.intrap = false

/-- Instruction `i` of strand `t` raises a cause that enters the handler. -/
def RaisesInto (i : Instr) (s : State) (sn : Nat) (t : Strand) (cause src detail val : Nat) : Prop :=
  ∃ s' t', exec i s = .next s' ∧ OnlyStrand s s' sn t' ∧ InHandler t t' cause src detail val

/-- Slot `i` of strand `t` serves accesses with bank `b` (R107, R263): attached, not in L1 mode, not locked, not draining. -/
def Serves (m : Mem) (t : Strand) (i b : Nat) : Prop :=
  (t.slot i).bank = some b ∧ (t.slot i).l1 = false ∧ (t.slot i).lock = false ∧ (t.slot i).draining = false ∧ m.bankLocked b = false

/-- No access of the device for partition `p` (12: for none) waits (R34, R310, R340, R350, R356): the schedule's entry admits it, and there is no
shutter's drain or work, hash rewrite, mask change or migration. -/
def Quiet (p : Nat) (m : Mem) : Prop :=
  m.admits p = true ∧ m.shut.drained = false ∧ m.shut.begun = false ∧ m.rewrites = [] ∧ m.mask = none ∧ m.migs = []

/-- A byte of a bank with its poison mark (R11, R73). -/
def Mem.bankByte (m : Mem) (b o : Nat) : PB := pbGet m.banks m.bpois (65536 * b + o)

end Sys2Proof.Machine
end

