-- ==== Sys2Proof/Certificates/Slice0/Obligations.lean ====
section
/-! DEFINITION. The statements for the provers, from the spec's numbered rules. -/
namespace Sys2Proof.Machine

/-! ### Integer operations (R162-R165) -/

/-- R162 and R163: the operations of two sources, and for each what its result is from A and B. -/
def oprTable : List ((Reg → Reg → Reg → Instr) × (W64 → W64 → W64 → Prop)) :=
  [(.add, fun a b v => v = BitVec.ofNat 64 (a.toNat + b.toNat)),
   (.sub, fun a b v => v = BitVec.ofInt 64 (a.toInt - b.toInt)),
   (.and, fun a b v => ∀ i, v.getLsbD i = (a.getLsbD i && b.getLsbD i)),
   (.or, fun a b v => ∀ i, v.getLsbD i = (a.getLsbD i || b.getLsbD i)),
   (.xor, fun a b v => ∀ i, v.getLsbD i = (a.getLsbD i ^^ b.getLsbD i)),
   (.andn, fun a b v => ∀ i, v.getLsbD i = (a.getLsbD i && !b.getLsbD i)),
   (.shl, fun a b v => v = BitVec.ofNat 64 (a.toNat * 2 ^ (b.toNat % 64))),
   (.shr, fun a b v => v = BitVec.ofNat 64 (a.toNat / 2 ^ (b.toNat % 64))),
   (.sra, fun a b v => v = BitVec.ofInt 64 (a.toInt / 2 ^ (b.toNat % 64))),
   (.rotr, fun a b v => ∀ i, i < 64 → v.getLsbD i = a.getLsbD ((i + b.toNat) % 64)),
   (.slt, fun a b v => v = if a.toInt < b.toInt then 1 else 0),
   (.sltn, fun a b v => v = if a.toNat < b.toNat then 1 else 0),
   (.min, fun a b v => v.toInt = min a.toInt b.toInt),
   (.max, fun a b v => v.toInt = max a.toInt b.toInt),
   (.minn, fun a b v => v.toNat = min a.toNat b.toNat),
   (.maxn, fun a b v => v.toNat = max a.toNat b.toNat)]

/-- The operations of R162 whose latency is longer than 1, with that latency by the value of A (R159). -/
def slowTable : List ((Reg → Reg → Reg → Instr) × (W64 → W64 → W64 → Prop)) :=
  [(.mul, fun a b v => v = BitVec.ofInt 64 (a.toInt * b.toInt)),
   (.mulh, fun a b v => v = BitVec.ofInt 64 (a.toInt * b.toInt / 2 ^ 64)),
   (.mulhn, fun a b v => v = BitVec.ofNat 64 (a.toNat * b.toNat / 2 ^ 64)),
   (.div, fun a b v => v = if b.toInt = 0 then BitVec.ofInt 64 (-1)
      else if a.toInt = -2 ^ 63 ∧ b.toInt = -1 then BitVec.ofInt 64 (-2 ^ 63) else BitVec.ofInt 64 (a.toInt.tdiv b.toInt)),
   (.divn, fun a b v => v.toNat = if b.toNat = 0 then 2 ^ 64 - 1 else a.toNat / b.toNat),
   (.rem, fun a b v => v = if b.toInt = 0 then a
      else if a.toInt = -2 ^ 63 ∧ b.toInt = -1 then 0 else BitVec.ofInt 64 (a.toInt - b.toInt * a.toInt.tdiv b.toInt)),
   (.remn, fun a b v => v.toNat = if b.toNat = 0 then a.toNat else a.toNat % b.toNat)]

/-- R162: the operations of one source. -/
def oprOneTable : List ((Reg → Reg → Instr) × (W64 → W64 → Prop)) :=
  [(.clz, fun a v => v.toNat ≤ 64 ∧ a.toNat < 2 ^ (64 - v.toNat) ∧ (v.toNat < 64 → 2 ^ (63 - v.toNat) ≤ a.toNat)),
   (.ctz, fun a v => v.toNat ≤ 64 ∧ (a = 0 → v.toNat = 64) ∧ (a ≠ 0 → v.toNat < 64 ∧ a.getLsbD v.toNat = true ∧ ∀ i, i < v.toNat → a.getLsbD i = false)),
   (.popc, fun a v => v.toNat = (List.range 64).countP a.getLsbD),
   (.sxb, fun a v => v.toInt = (a.toNat : Int).bmod (2 ^ 8)),
   (.sxh, fun a v => v.toInt = (a.toNat : Int).bmod (2 ^ 16)),
   (.sxw, fun a v => v.toInt = (a.toNat : Int).bmod (2 ^ 32)),
   (.zxw, fun a v => v.toNat = a.toNat % 2 ^ 32)]

/-- R164: the immediate operations of one source. -/
def immTable : List ((Reg → Reg → BitVec 16 → Instr) × (W64 → BitVec 16 → W64 → Prop)) :=
  [(.addi, fun a i v => v = BitVec.ofInt 64 (a.toInt + i.toInt)),
   (.andi, fun a i v => ∀ k, v.getLsbD k = (a.getLsbD k && i.getLsbD k)),
   (.ori, fun a i v => ∀ k, v.getLsbD k = (a.getLsbD k || i.getLsbD k)),
   (.xori, fun a i v => ∀ k, v.getLsbD k = (a.getLsbD k ^^ i.getLsbD k)),
   (.slti, fun a i v => v = if a.toInt < i.toInt then 1 else 0),
   (.sltni, fun a i v => v = if a.toNat < (BitVec.ofInt 64 i.toInt).toNat then 1 else 0)]

/-- R165: the shifts by a constant. -/
def shiTable : List ((Reg → Reg → BitVec 6 → Instr) × (W64 → BitVec 6 → W64 → Prop)) :=
  [(.shiL, fun a n v => v = BitVec.ofNat 64 (a.toNat * 2 ^ n.toNat)),
   (.shiR, fun a n v => v = BitVec.ofNat 64 (a.toNat / 2 ^ n.toNat)),
   (.shiA, fun a n v => v = BitVec.ofInt 64 (a.toInt / 2 ^ n.toNat)),
   (.shiO, fun a n v => ∀ i, i < 64 → v.getLsbD i = a.getLsbD ((i + n.toNat) % 64))]

/-- An instruction of strand `t` that writes `gd` with a value that `res` admits, poison bit `p`, and retires with PC at `pc`. -/
def WritesTo (i : Instr) (s : State) (sn : Nat) (t : Strand) (gd : Reg) (res : W64 → Prop) (p late : Bool) (pc : W64) : Prop :=
  ∃ s' t' v, exec i s = .next s' ∧ res v ∧ OnlyStrand s s' sn t' ∧ Wrote t t' gd v p late ∧ RegsOnly t t' ∧ t'.seq.ctl = t.seq.ctl.counted ∧
    t'.seq.pc = pc ∧ t'.seq.wait = .none

/-- The same where PC moves past one word. -/
def WritesAndRetires (i : Instr) (s : State) (sn : Nat) (t : Strand) (gd : Reg) (res : W64 → Prop) (p late : Bool) : Prop :=
  WritesTo i s sn t gd res p late (t.seq.pc + 4#64)

/-- An instruction of strand `t` that writes no register and retires with PC at `pc`. -/
def RetiresTo (i : Instr) (s : State) (sn : Nat) (t : Strand) (pc : W64) : Prop :=
  ∃ s' t', exec i s = .next s' ∧ OnlyStrand s s' sn t' ∧ RegsKept t t' ∧ RegsOnly t t' ∧ t'.seq.ctl = t.seq.ctl.counted ∧
    t'.seq.pc = pc ∧ t'.seq.wait = .none

/-- R172: the branches, and when each is taken. -/
def branchTable : List ((Reg → Reg → BitVec 16 → Instr) × (W64 → W64 → Prop)) :=
  [(.beq, fun a b => a = b), (.bne, fun a b => a ≠ b), (.blt, fun a b => a.toInt < b.toInt), (.bge, fun a b => b.toInt ≤ a.toInt),
   (.bltn, fun a b => a.toNat < b.toNat), (.bgen, fun a b => b.toNat ≤ a.toNat)]

/-- R148: the numbers of the control registers. -/
def cregNumbers : List Nat :=
  [0x000, 0x001, 0x002, 0x008, 0x009, 0x010, 0x011, 0x012, 0x013, 0x014, 0x015, 0x016, 0x017, 0x018, 0x019, 0x01A, 0x01B, 0x01C, 0x01D, 0x01E,
   0x01F, 0x020, 0x021, 0x022, 0x023, 0x024, 0x025, 0x030, 0x031, 0x040, 0x041, 0x050, 0x051, 0x060, 0x061, 0x070, 0x071, 0x080, 0x081, 0x0A0]

/-- R149: the three writing instructions, and the new value of an RW field from its old value and the operand. -/
def writeTable : List ((Reg → BitVec 12 → Instr) × (W64 → W64 → W64)) :=
  [(.crw, fun _ v => v), (.crs, fun o v => o ||| v), (.crc, fun o v => o &&& ~~~v)]

/-- Strand `t` after a write of `x` to FPCTL with a legal RM (R56). -/
def FpctlIs (t : Strand) (x : W64) : Strand := t.mapCtl (fun c => { c with daz := x.getLsbD 4, ftz := x.getLsbD 3, rm := x.toNat % 8 })

/-- An instruction of strand `t` that retires, moving past one word, and leaves the strand as `u` otherwise. -/
def RetiresAs (i : Instr) (s : State) (sn : Nat) (u : Strand) : Prop :=
  ∃ s', exec i s = .next s' ∧ OnlyStrand s s' sn (u.retire 4)

/-- R166: the loads, with their bytes and whether they extend with the sign. -/
def loadTable : List ((Reg → Reg → BitVec 16 → Instr) × Nat × Bool) :=
  [(.ldb, 1, true), (.ldh, 2, true), (.ldw, 4, true), (.ldd, 8, false), (.ldbn, 1, false), (.ldhn, 2, false), (.ldwn, 4, false)]

/-- R166: the stores, with their bytes. -/
def storeTable : List ((Reg → Reg → BitVec 16 → Instr) × Nat) := [(.stb, 1), (.sth, 2), (.stw, 4), (.std, 8)]

/-- The effective address of R166. -/
def effAddr (t : Strand) (ga : Reg) (imm : BitVec 16) : Nat := (t.g ga + BitVec.ofInt 64 imm.toInt).toNat

/-- R324, R325: the atomics and reductions: constructor, operator, AOP (none for AMOC), width, whether gd takes the sign, whether a RED. -/
def atomTable : List ((Reg → Reg → Reg → BitVec 3 → BitVec 3 → Instr) × AtomOp × Option Nat × Nat × Bool × Bool) :=
  [(.amoadd32, .add, some 0, 32, false, false), (.amoadd64, .add, some 1, 64, false, false), (.amominI32, .minS, some 2, 32, true, false),
   (.amominN32, .minU, some 3, 32, false, false), (.amominI64, .minS, some 4, 64, false, false), (.amominN64, .minU, some 5, 64, false, false),
   (.amomaxI32, .maxS, some 6, 32, true, false), (.amomaxN32, .maxU, some 7, 32, false, false), (.amomaxI64, .maxS, some 8, 64, false, false),
   (.amomaxN64, .maxU, some 9, 64, false, false), (.amofaddF32, .fadd32, some 10, 32, false, false), (.amofaddF64, .fadd64, some 11, 64, false, false),
   (.amofaddBf16x2, .faddB2, some 12, 32, false, false), (.amoand32, .and, some 13, 32, false, false), (.amoand64, .and, some 14, 64, false, false),
   (.amoor32, .or, some 15, 32, false, false), (.amoor64, .or, some 16, 64, false, false), (.amoxor32, .xor, some 17, 32, false, false),
   (.amoxor64, .xor, some 18, 64, false, false), (.amoswap32, .swap, some 19, 32, false, false), (.amoswap64, .swap, some 20, 64, false, false),
   (.amoinc32, .inc, some 21, 32, false, false), (.amoinc64, .inc, some 22, 64, false, false), (.amodec32, .dec, some 23, 32, false, false),
   (.amodec64, .dec, some 24, 64, false, false),
   (.amocas32, .cas, none, 32, false, false), (.amocas64, .cas, none, 64, false, false)] ++
  [(.redadd32, .add, some 0, 32, false, true), (.redadd64, .add, some 1, 64, false, true), (.redminI32, .minS, some 2, 32, true, true),
   (.redminN32, .minU, some 3, 32, false, true), (.redminI64, .minS, some 4, 64, false, true), (.redminN64, .minU, some 5, 64, false, true),
   (.redmaxI32, .maxS, some 6, 32, true, true), (.redmaxN32, .maxU, some 7, 32, false, true), (.redmaxI64, .maxS, some 8, 64, false, true),
   (.redmaxN64, .maxU, some 9, 64, false, true), (.redfaddF32, .fadd32, some 10, 32, false, true), (.redfaddF64, .fadd64, some 11, 64, false, true),
   (.redfaddBf16x2, .faddB2, some 12, 32, false, true), (.redand32, .and, some 13, 32, false, true), (.redand64, .and, some 14, 64, false, true),
   (.redor32, .or, some 15, 32, false, true), (.redor64, .or, some 16, 64, false, true), (.redxor32, .xor, some 17, 32, false, true),
   (.redxor64, .xor, some 18, 64, false, true), (.redswap32, .swap, some 19, 32, false, true), (.redswap64, .swap, some 20, 64, false, true),
   (.redinc32, .inc, some 21, 32, false, true), (.redinc64, .inc, some 22, 64, false, true), (.reddec32, .dec, some 23, 32, false, true),
   (.reddec64, .dec, some 24, 64, false, true)]

/-- R320: the new word of `w` bits from the word in memory, the operand and the expected value, for the operators on integers. -/
def atomSpec : AtomOp → Nat → Nat → Nat → Nat → Nat
  | .add, w, m, b, _ => (m + b) % 2 ^ w
  | .minS, w, m, b, _ => if (m : Int).bmod (2 ^ w) ≤ (b : Int).bmod (2 ^ w) then m else b
  | .maxS, w, m, b, _ => if (b : Int).bmod (2 ^ w) ≤ (m : Int).bmod (2 ^ w) then m else b
  | .minU, _, m, b, _ => min m b
  | .maxU, _, m, b, _ => max m b
  | .and, _, m, b, _ => m &&& b
  | .or, _, m, b, _ => m ||| b
  | .xor, _, m, b, _ => m ^^^ b
  | .swap, _, _, b, _ => b
  | .inc, _, m, b, _ => if b ≤ m then 0 else m + 1
  | .dec, _, m, b, _ => if m = 0 ∨ b < m then b else m - 1
  | .cas, _, m, b, e => if m = e then b else m
  | .fadd32, _, m, b, _ => (fpArith .add .f32 0 false false m b 0 0).bits
  | .fadd64, _, m, b, _ => (fpArith .add .f64 0 false false m b 0 0).bits
  | .faddB2, _, m, b, _ => (fpArith .add .bf16 0 false false (m % 65536) (b % 65536) 0 0).bits +
      65536 * (fpArith .add .bf16 0 false false (m / 65536) (b / 65536) 0 0).bits

/-- R57, R320: the flags of an update, which only a floating addition raises. -/
def atomFlags : AtomOp → Nat → Nat → BitVec 10
  | .fadd32, m, b => (fpArith .add .f32 0 false false m b 0 0).fl
  | .fadd64, m, b => (fpArith .add .f64 0 false false m b 0 0).fl
  | .faddB2, m, b => (fpArith .add .bf16 0 false false (m % 65536) (b % 65536) 0 0).fl |||
      (fpArith .add .bf16 0 false false (m / 65536) (b / 65536) 0 0).fl
  | _, _, _ => 0

/-- R324: the value of gd from the old word of `w` bits. -/
def atomReturn (w : Nat) (sx : Bool) (old : Nat) : W64 :=
  if w = 32 ∧ sx = true then BitVec.ofInt 64 ((old : Int).bmod (2 ^ 32)) else BitVec.ofNat 64 old

/-- R177: the arithmetic operations of the FPU, with their operation, whether B and D are sources. -/
def fpuTable : List ((Reg → Reg → Reg → BitVec 1 → BitVec 3 → Instr) × FOp × Bool) :=
  [(.fadd, .add, false), (.fsub, .sub, false), (.fmul, .mul, false), (.fdiv, .div, false), (.fmac, .fma, true), (.fnmac, .fnma, true)]

/-- The width in bits of the format that P names (R176), and its sign bit. -/
def fpuWidth (p : BitVec 1) : Nat := if p = 1#1 then 64 else 32

/-- An operand of an FPU operation: all 64 bits, or the low 32 (R176). -/
def fpuArg (p : BitVec 1) (v : W64) : Nat := v.toNat % 2 ^ fpuWidth p

/-- The format that P names (R176), and the mode of RMO, 7 for that of FPCTL. -/
def fpuFormat (p : BitVec 1) : FFmt := if p = 1#1 then .f64 else .f32
def fpuMode (t : Strand) (rm : BitVec 3) : Nat := if rm = 7#3 then t.seq.ctl.rm else rm.toNat

/-- R178: the operations of two sources that never round, and of one. -/
def fpuTwoTable : List ((Reg → Reg → Reg → BitVec 1 → Instr) × (FFmt → Bool → Nat → Nat → FRes)) :=
  [(.fmin, fun f daz a b => fpMinMax false f daz a b), (.fmax, fun f daz a b => fpMinMax true f daz a b),
   (.feq, fun f daz a b => ⟨b2n (fpCompare .eq f daz a b).1, (fpCompare .eq f daz a b).2, false⟩),
   (.flt, fun f daz a b => ⟨b2n (fpCompare .lt f daz a b).1, (fpCompare .lt f daz a b).2, false⟩),
   (.fle, fun f daz a b => ⟨b2n (fpCompare .le f daz a b).1, (fpCompare .le f daz a b).2, false⟩)]
def fpuOneTable : List ((Reg → Reg → BitVec 1 → Instr) × (FFmt → Bool → Nat → FRes)) :=
  [(.fabs, fun f daz a => fpSign true f daz a), (.fneg, fun f daz a => fpSign false f daz a), (.fclass, fun f daz a => ⟨2 ^ fpClass f daz a, 0, false⟩)]

/-- R179: the conversions, from P, DAZ, FTZ, the mode, the source register and the random number. -/
def fpuConvTable : List ((Reg → Reg → BitVec 1 → BitVec 3 → Instr) × (BitVec 1 → Bool → Bool → Nat → W64 → Nat → FRes)) :=
  [(.fcvtfi, fun p daz _ rm v rnd => fpToInt (fpuFormat p) daz rm 64 true (fpuArg p v) rnd),
   (.fcvtfn, fun p daz _ rm v rnd => fpToInt (fpuFormat p) daz rm 64 false (fpuArg p v) rnd),
   (.fcvtif, fun p _ ftz rm v rnd => fpOfInt (fpuFormat p) rm ftz v.toInt rnd),
   (.fcvtnf, fun p _ ftz rm v rnd => fpOfInt (fpuFormat p) rm ftz v.toNat rnd),
   (.fcvtff, fun p daz ftz rm v rnd =>
     if p = 1#1 then fpConvert .f32 .f64 daz rm ftz (v.toNat % 2 ^ 32) rnd else fpConvert .f64 .f32 daz rm ftz v.toNat rnd)]

/-- Strand `t` after an FPU operation with result `r` (R57, R177): gd, poisoned as `pois` says and visible later; FPSTAT takes the flags;
stream 0 takes a step when the rounding drew from it. -/
def FpuDone (i : Instr) (s : State) (sn : Nat) (t : Strand) (gd : Reg) (r : FRes) (pois : Bool) : Prop :=
  ∃ s' t', exec i s = .next s' ∧ OnlyStrand s s' sn t' ∧ Wrote t t' gd (BitVec.ofNat 64 r.bits) pois true ∧
    t'.seq.pc = t.seq.pc + 4#64 ∧ t'.seq.ctl = { t.seq.ctl.counted with fpstat := t.seq.ctl.fpstat ||| r.fl } ∧ t'.seq.trap = t.seq.trap ∧
    t'.gen 0 = if r.drew then genNext (t.gen 0) else t.gen 0

/-- The `n` bytes from `va` lie in translated space, in one page or in two that agree in the attributes of R170 step 5, which strand number `sn` may
access so: their leaves are `l1` and `l2`, and the walks and checks leave memory `m`. -/
def PagesOk (s : State) (sn va n : Nat) (perm : Perm) (l1 l2 : Leaf) (m : Mem) : Prop :=
  inWindow va = false ∧ inWindow (va + n - 1) = false ∧ va + n ≤ 2 ^ 64 ∧ l1.sameAttr l2 = true ∧ ∃ m1,
    s.mem.page (coreOfSn sn) (partOfSn sn) va perm = (.ok l1, m1) ∧
    if (va + n - 1) / 4096 = va / 4096 then l2 = l1 ∧ m = m1 else m1.page (coreOfSn sn) (partOfSn sn) ((va + n - 1) / 4096 * 4096) perm = (.ok l2, m)

/-- Part `p` of an access at such bytes lies in one line, where its page's leaf puts it, and is still to be performed (R169). -/
def PagePart (va n : Nat) (l1 l2 : Leaf) (p : Part) : Prop :=
  p.place = (if p.va / 4096 = va / 4096 then l1 else l2).place p.va ∧ p.rc = l1.rc ∧ p.sco = l1.sco ∧ p.done = false ∧ va ≤ p.va ∧ 1 ≤ p.n ∧
    p.va + p.n ≤ va + n ∧ p.va / 128 = (p.va + p.n - 1) / 128

/-- Instruction `i` of strand `t` raises a cause that enters the handler, after walks that leave memory `m`. -/
def RaisesAfter (i : Instr) (s : State) (m : Mem) (sn : Nat) (t : Strand) (cause src detail val : Nat) : Prop :=
  ∃ s' t', exec i s = .next s' ∧ OnlyStrand (s.setMem m) s' sn t' ∧ InHandler t t' cause src detail val

/-- Instruction `i` of strand `t` parks at its boundary: the record goes to the partition's fault buffer, and nothing else changes (R171, R348). -/
def ParksAt (i : Instr) (s : State) (m : Mem) (sn : Nat) (t : Strand) (path va kind entry lvl : Nat) (wr atom : Bool) : Prop :=
  ∃ s' w m', m.postRecord (partOfSn sn) (xlRecord va sn path kind wr atom (m.gen (partOfSn sn)) entry lvl) = (w, m') ∧ exec i s = .next s' ∧
    OnlyStrand (s.setMem m') s' sn (t.setWait (.parked w (m.gen (partOfSn sn))))

/-- From `t` to `t'` a race has been raised precisely at the instruction at PC (R134, R135): cause 0x08 with SRC `src`, TVAL the first byte of the access in
the granule, and RACEINFO. -/
def RaceRaised (t t' : Strand) (src path va : Nat) (c : Conflict) : Prop :=
  RegsKept t t' ∧ t'.seq.pc = t.seq.trap.tvec &&& ~~~3#64 ∧ t'.seq.trap.tcause = BitVec.ofNat 64 (src * 65536 + 8) ∧ t'.seq.trap.tpc = t.seq.pc &&& ~~~3#64 ∧
    t'.seq.trap.intrap = true ∧ t'.seq.trap.tval = BitVec.ofNat 64 (max va (va / 128 * 128 + 32 * (c.gran % 4))) ∧ t'.seq.ctl.retired = t.seq.ctl.retired ∧
    t'.seq.ctl.raceinfo = raceInfoOf c.osn c.oseq c.kind c.oatom path c.gran

/-- The object at an address is one that an ARR instruction of strand `t` reaches at once in bank `b` (R272). -/
def ArrReady (s : State) (t : Strand) (ga : Reg) (b : Nat) : Prop :=
  t.pend ga = false ∧ t.gp ga = false ∧ inWindow (t.g ga).toNat = true ∧ (t.g ga).toNat % 32 = 0 ∧ Serves s.mem t (winSlot (t.g ga).toNat) b ∧
  t.blocked t.seq.seq false (winPart t (t.g ga).toNat 32 []) = false

/-- The loop of R270, for at most `n` turns: while c is at least TARGET a phase completes; then COUNT := c. -/
def arrivePhases (status : Nat) : Nat → Nat → ArrObj → ArrObj
  | 0, c, o => { o with count := c }
  | n + 1, c, o =>
    if c < o.target then { o with count := c }
    else arrivePhases status n (c - o.target)
      { o with gen := (o.gen + 1) % 2 ^ 16, fin := o.cur, cur := if 0 < c - o.target then stOr status stEARLY else 0 }

/-- From `s` to `s'` strand `sn` has become `t'`, the object at `off` of bank `b` holds `o`, and no other byte of a bank or of device memory
has changed. -/
def ObjectIs (s s' : State) (sn : Nat) (t' : Strand) (b off : Nat) (o : ArrObj) : Prop :=
  s'.strand? sn = some t' ∧ (∀ k, k ≠ sn → s'.strand? k = s.strand? k) ∧ s'.mem.arrObj b off = o ∧
  (∀ c q, q < 65536 → ¬ (c = b ∧ off ≤ q ∧ q < off + 20) → s'.mem.bankByte c q = s.mem.bankByte c q) ∧
  (∀ pa, s'.mem.peekByte pa = s.mem.peekByte pa)

/-- Instruction `i` of strand `t` enters command `cmd` with arrival address `arr` in the stream queue and retires past `n` bytes (R288). -/
def EntersStream (i : Instr) (s : State) (sn : Nat) (t : Strand) (cmd : SCmd) (arr n : Nat) : Prop :=
  ∃ s' t' e, exec i s = .next s' ∧ OnlyStrand s s' sn t' ∧ RegsKept t t' ∧ t'.seq.pc = t.seq.pc + BitVec.ofNat 64 n ∧
    t'.seq.ctl = t.seq.ctl.counted ∧ t'.str.queue = t.str.queue ++ [e] ∧ e.cmd = cmd ∧ e.arr = arr ∧ e.done = 0 ∧ e.rm = t.seq.ctl.rm ∧
    t'.str.rings = t.str.rings ∧ t'.str.ags = t.str.ags

/-- The slot behind an arrival address is attached in scratch mode and unlocked, or there is no object (R288). -/
def ArrOk (s : State) (t : Strand) (a : Nat) : Prop := s.mem.arrCheck t a = .ok a

/-- Instruction `i` of strand `t` enters command `cmd` with arrival address `arr` in the matrix sub-queue and retires (R241, R250). -/
def EntersMatrix (i : Instr) (s : State) (sn : Nat) (t : Strand) (cmd : MxCmd) (arr : Nat) : Prop :=
  ∃ s' t' e, exec i s = .next s' ∧ OnlyStrand s s' sn t' ∧ RegsKept t t' ∧ t'.seq.pc = t.seq.pc + 8#64 ∧ t'.seq.ctl = t.seq.ctl.counted ∧
    t'.mx = { t.mx with queue := t.mx.queue ++ [e] } ∧ e.cmd = cmd ∧ e.arr = arr ∧ e.done = 0 ∧ e.status = 0 ∧ t'.str = t.str ∧ t'.seq.trap = t.seq.trap

/-- Strand `t` at the agent's number has entry `x` at the head of its matrix sub-queue, and its engine may work on it (R250). -/
def MatrixAt (s : State) (sn : Nat) (t : Strand) (x : MxEnt) (q : List MxEnt) : Prop :=
  Runs s sn t ∧ t.mx.queue = x :: q ∧ t.engineOn 2 = true ∧ t.barred (dieOfSn sn) x.seq 2 = false ∧ t.mxRing x.cmd = none

/-- The program of a running strand `t` at the agent's node `k` is `r`, and it has not come to its end (R351, R354). -/
def OnNode (s : State) (k : Nat) (r : NRun) (t : Strand) : Prop :=
  16 * s.agent.a + s.agent.b = k ∧ (s.node k).prog = some r ∧ r.ended = none ∧ s.strand? r.req.sn = some t ∧ t.run = .running

/-- Row `i` at node `k` writes stream `ds` with `x`, adds `st` to the status, and the program goes on to the next row; the strand that issued it takes the
flags `fl` in FPSTAT (R71), and nothing else changes. -/
def RowWrites (i : Instr) (s : State) (k : Nat) (r : NRun) (t : Strand) (ds : BitVec 3) (x : NStream) (st : Nat) (fl : BitVec 10) : Prop :=
  ∃ s' r', exec i s = .next s' ∧ { s' with nodes := s.nodes, strands := s.strands } = s ∧ (∀ q, q ≠ r.req.sn → s'.strand? q = s.strand? q) ∧
    s'.strand? r.req.sn = some (t.mapCtl (fun c => { c with fpstat := c.fpstat ||| (fl &&& (flNV ||| flOF)) })) ∧ (∀ j, j ≠ k → s'.node j = s.node j) ∧ (s'.node k).prog = some r' ∧
    (s'.node k).queue = (s.node k).queue ∧ r'.row = r.row + 1 ∧ r'.pos = 0 ∧ r'.stream ds = x ∧ (∀ d, d ≠ ds → r'.stream d = r.stream d) ∧
    r'.status = stOr r.status st ∧ r'.req = r.req ∧ r'.fill = r.fill ∧ r'.count = r.count

/-- Row `i` at node `k` ends the program with status bits `st` (R352, R354): the strand's gd takes the completion word, and the node is free; memory is `m`. -/
def RowEnds (i : Instr) (s : State) (k : Nat) (r : NRun) (t : Strand) (st : Nat) (m : Mem) : Prop :=
  ∀ a, t.seq.loads.find? (fun x => decide (x.id = r.req.acc)) = some a → tblGet 0 t.seq.glat (BitVec.ofNat 5 a.dest).toNat = 0 →
    ∃ s' t', exec i s = .next s' ∧ (s'.node k).prog = none ∧ (s'.node k).queue = (s.node k).queue ∧ (∀ j, j ≠ k → s'.node j = s.node j) ∧
      s'.strand? r.req.sn = some t' ∧ s'.mem = m ∧ t'.seq.pc = t.seq.pc ∧ t'.seq.loads = t.seq.loads.filter (fun x => decide (x.id ≠ a.id)) ∧
      Wrote t t' (BitVec.ofNat 5 a.dest) (BitVec.ofNat 64 (stOr r.status st + r.count % 2 ^ 32 * 2 ^ 32)) false false

/-- The value of an element as NTY reads it (R93). -/
def ntyVal (ty : BitVec 3) (x : Nat) : Int := if ntySigned ty then (x : Int).bmod (2 ^ (8 * ntyEb ty)) else x

/-- R213, R214: functions of the array on one 32-bit element, from the function numbers of R90. -/
def arrTable : List (Nat × (Nat → Nat → Nat)) :=
  [(0x01, fun a b => (a + b) % 2 ^ 32), (0x02, fun a b => (a + (2 ^ 32 - b)) % 2 ^ 32), (0x11, min), (0x12, max),
   (0x14, fun a b => if a = b then 2 ^ 32 - 1 else 0), (0x16, fun a b => if a < b then 2 ^ 32 - 1 else 0)]

/-- The packet at HEAD of the agent's queue, whose read leaves the state `r`, is well-formed, of type `typ`, without a completion signal, and had not
completed before; the queue, which has no packet in progress, may read it (R365, R369, R388). -/
def PacketAt (s : State) (q : Nat) (b : List Byte) (typ : Nat) (r : State) : Prop :=
  s.agent.a = q ∧ s.qReads q = true ∧ s.qTake q = some (b, r) ∧ pktOk b = true ∧ fld b 0 1 = typ ∧ fld b 56 8 = 0 ∧
    (s.queue q).st = .active ∧ (s.queue q).pkts = [] ∧ (s.queue q).head ∉ (s.queue q).done

/-- From `s` to `s'` the packet at HEAD of queue `q` has started and completed (R369, R377): HEAD has passed it, and it is in the completion record. -/
def PacketGone (s s' : State) (q : Nat) : Prop :=
  (s'.queue q).head = ((s.queue q).head + 1) % 2 ^ 64 ∧ (s'.queue q).pkts = [] ∧ (s.queue q).head ∈ (s'.queue q).done ∧ (s'.queue q).st = .active

/-- From `s` to `s'` the packet at HEAD of queue `q` has started and is in progress (R369). -/
def PacketStarted (s s' : State) (q typ : Nat) : Prop :=
  (s'.queue q).head = ((s.queue q).head + 1) % 2 ^ 64 ∧ (s'.queue q).pkts = [⟨(s.queue q).head, typ, 0, .started, none⟩] ∧ (s'.queue q).done = (s.queue q).done

/-- A packet in progress of a queue, the only one, with no completion signal. -/
def InProgress (s : State) (q idx typ : Nat) : Prop := (s.queue q).pkts = [⟨idx, typ, 0, .started, none⟩]

/-- A write of QCTL of queue `q` that has its effect (R364, R391, R398): eight bytes by firmware of S mode at least, or by a function bound to the queue's partition. -/
def QctlMay (s : State) (q : Nat) : Prop :=
  s.boot.st = 1 ∧ ((s.agent.b = 0 ∧ s.agent.a = 8 ∧ 1 ≤ s.agent.c) ∨ (1 ≤ s.agent.b ∧ s.agent.b ≤ 192 ∧ q < 4096 ∧ bitOf (cfgGet s.mem.cfg (offVfcfg s.agent.b)) 4 = true ∧
    bitsOf (cfgGet s.mem.cfg (offVfcfg s.agent.b)) 0 4 < 12 ∧ bitsOf (cfgGet s.mem.cfg (offVfcfg s.agent.b)) 0 4 = s.qPart q))

/-- Every strand of instance `k` is halted to be saved, its registers and PC as they were, an instruction whose result is on its way abandoned
(R180); the strands of other instances are as they were (R40). -/
def HaltsInst (s s' : State) (k : Nat) : Prop :=
  ∀ sn t, s.strand? sn = some t → (t.kinst ≠ k → s'.strand? sn = some t) ∧
    (t.kinst = k → t.run = .running → ∃ t', s'.strand? sn = some t' ∧ t'.run = .halted .save ∧ RegsKept t.rollback t' ∧ t'.seq.pc = t.rollback.seq.pc)

/-- A store to a register of a least mode, made from a lower one or of another size than 8 bytes, raises the firmware core's access fault and has no
effect (R391); the agent's `a` is the size, its `c` the mode. -/
def StoreFaults (i : Instr) (s : State) (least off : Nat) : Prop :=
  s.boot.st = 1 → (s.agent.a ≠ 8 ∨ s.agent.c < least) → exec i s = .next { s with outs := s.outs ++ [.cfgFault true off] }

/-- Firmware of at least a mode, running, makes the store of the step, of eight bytes (R391, R394). -/
def Firmware (s : State) (least : Nat) : Prop := s.boot.st = 1 ∧ s.agent.a = 8 ∧ least ≤ s.agent.c

/-- The rows of a node program (R92). -/
def Instr.isRow : Instr → Bool
  | .nend => true
  | .nscan _ _ _ => true
  | .ngath _ _ _ _ => true
  | .nfilt _ _ _ _ _ _ _ => true
  | .ncmpk _ _ _ _ => true
  | .nsum _ _ _ => true
  | .nmin _ _ _ => true
  | .nmax _ _ _ => true
  | .ncnt _ _ _ => true
  | .nemit _ _ _ => true
  | _ => false

/-- R34, R36, R394: the live schedule has 48 codes of four bits, the entry in force is one of them, and the boot checks have passed or the package
is in recovery. -/
def ScheduleLegal (s : State) : Prop :=
  s.mem.sched.length = 48 ∧ (∀ c ∈ s.mem.sched, c < 16) ∧ s.mem.entry < 48 ∧ (s.boot.st = 1 ∨ s.boot.st = 2)

/-- No two lines stand in one way of a slice (R304). -/
def LineWays (m : Mem) : Prop := ∀ k ∈ m.lines, ∀ l ∈ m.lines, k.slice = l.slice → k.set = l.set → k.way = l.way → k = l

end Sys2Proof.Machine

open Sys2Proof Sys2Proof.Machine

/-- R162, R163: an operation of two sources, none of whose registers is pending, completes: it writes gd alone with the result of the
table, poisoned when a source is, and nothing else changes but PC and RETIRED.
R162, R163: the same of multiplication and division, which never traps; the result is visible later, so gd stays pending (R159). -/
def Obligations.OprTwoResult : Prop :=
  (∀ e ∈ oprTable, ∀ s sn t gd ga gb, Runs s sn t → t.busy [gd, ga, gb] = false →
    WritesAndRetires (e.1 gd ga gb) s sn t gd (e.2 (t.g ga) (t.g gb)) (t.gp ga || t.gp gb) false) ∧
  (∀ e ∈ slowTable, ∀ s sn t gd ga gb, Runs s sn t → t.busy [gd, ga, gb] = false →
    WritesAndRetires (e.1 gd ga gb) s sn t gd (e.2 (t.g ga) (t.g gb)) (t.gp ga || t.gp gb) true)

/-- R162, R164, R165: the operations of one source, of an immediate and of a constant shift complete with the results of the tables.
R164: `muli` writes the low 64 bits of the product; `lui` and `addpc` write a value that no register poisons.
R164, R165: their words; a word of `lui` or `addpc` with a register in its reserved field does not decode. -/
def Obligations.OprOneResult : Prop :=
  (∀ s sn t gd ga, Runs s sn t → t.busy [gd, ga] = false →
    (∀ e ∈ oprOneTable, WritesAndRetires (e.1 gd ga) s sn t gd (e.2 (t.g ga)) (t.gp ga) false) ∧
    (∀ e ∈ immTable, ∀ imm, WritesAndRetires (e.1 gd ga imm) s sn t gd (e.2 (t.g ga) imm) (t.gp ga) false) ∧
    (∀ e ∈ shiTable, ∀ n, WritesAndRetires (e.1 gd ga n) s sn t gd (e.2 (t.g ga) n) (t.gp ga) false)) ∧
  (∀ s sn t gd (imm : BitVec 16), Runs s sn t → t.busy [gd] = false →
    (∀ ga, t.pend ga = false → WritesAndRetires (.muli gd ga imm) s sn t gd (fun v => v = BitVec.ofInt 64 ((t.g ga).toInt * imm.toInt)) (t.gp ga) true) ∧
    WritesAndRetires (.lui gd imm) s sn t gd (fun v => v.toInt = imm.toInt * 2 ^ 16) false false ∧
    WritesAndRetires (.addpc gd imm) s sn t gd (fun v => v = BitVec.ofInt 64 ((t.seq.pc.toNat : Int) + imm.toInt * 2 ^ 16)) false false) ∧
  (∀ (gd ga : Reg) (imm : BitVec 16) (n : BitVec 6) w,
    (∀ e ∈ immTable.zip [0x02#6, 0x03#6, 0x04#6, 0x05#6, 0x07#6, 0x08#6], encode (e.1.1 gd ga imm) = [e.2 ++ gd ++ ga ++ imm]) ∧
    encode (.muli gd ga imm) = [0x0B#6 ++ gd ++ ga ++ imm] ∧ encode (.lui gd imm) = [0x09#6 ++ gd ++ 0#5 ++ imm] ∧
    encode (.addpc gd imm) = [0x0A#6 ++ gd ++ 0#5 ++ imm] ∧
    (ga ≠ 0 → (w = 0x09#6 ++ gd ++ ga ++ imm ∨ w = 0x0A#6 ++ gd ++ ga ++ imm) → ∃ e, decodeWords w 0#32 = .error e) ∧
    (∀ e ∈ shiTable.zip [0#2, 1#2, 2#2, 3#2], encode (e.1.1 gd ga n) = [0x06#6 ++ gd ++ ga ++ (0#8 ++ e.2 ++ n)]))

/-- R172: a branch whose registers are neither pending nor poisoned completes, and PC is as the comparison says; it writes no register. A
poisoned operand raises POISON with its register number, taken or not. The words of the branches are those of its table.
R173: `jal` and `jalr` write the link and jump; a target of `jalr` that is not a multiple of 4 raises ALIGN with the target in TVAL, and
a poisoned base raises POISON. -/
def Obligations.BranchJumpResult : Prop :=
  (∀ e ∈ branchTable, ∀ s sn t ga gb imm, Runs s sn t → t.busy [ga, gb] = false →
    (t.gp ga = false → t.gp gb = false →
      (e.2 (t.g ga) (t.g gb) → RetiresTo (e.1 ga gb imm) s sn t (t.seq.pc + BitVec.ofInt 64 (4 * imm.toInt))) ∧
      (¬ e.2 (t.g ga) (t.g gb) → RetiresTo (e.1 ga gb imm) s sn t (t.seq.pc + 4#64))) ∧
    (Handles t → (t.gp ga = true → RaisesInto (e.1 ga gb imm) s sn t 0x0D 0 0 ga.toNat) ∧
      (t.gp ga = false → t.gp gb = true → RaisesInto (e.1 ga gb imm) s sn t 0x0D 0 0 gb.toNat))) ∧
  (∀ s sn t gd, Runs s sn t → t.pend gd = false →
    (∀ off : BitVec 21, WritesTo (.jal gd off) s sn t gd (fun v => v = t.seq.pc + 4#64) false false (t.seq.pc + BitVec.ofInt 64 (4 * off.toInt))) ∧
    (∀ ga (imm : BitVec 16), t.pend ga = false → t.gp ga = false → (t.g ga + BitVec.ofInt 64 imm.toInt).toNat % 4 = 0 →
      WritesTo (.jalr gd ga imm) s sn t gd (fun v => v = t.seq.pc + 4#64) false false (t.g ga + BitVec.ofInt 64 imm.toInt)) ∧
    (∀ ga (imm : BitVec 16), t.pend ga = false → Handles t →
      (t.gp ga = false → (t.g ga + BitVec.ofInt 64 imm.toInt).toNat % 4 ≠ 0 →
        RaisesInto (.jalr gd ga imm) s sn t 0x04 0 0 (t.g ga + BitVec.ofInt 64 imm.toInt).toNat) ∧
      (t.gp ga = true → RaisesInto (.jalr gd ga imm) s sn t 0x0D 0 0 ga.toNat))) ∧
  (∀ e ∈ branchTable.zip [0x20#6, 0x21#6, 0x22#6, 0x23#6, 0x24#6, 0x25#6], ∀ ga gb imm, encode (e.1.1 ga gb imm) = [e.2 ++ ga ++ gb ++ imm])

/-- R149, R174: `nop` retires and does nothing else; `crr` completes for every number of the table of R148, writing the register's value
unpoisoned, and raises ILLEGAL with DETAIL 1 for every other number.
R149, R151, R153: `crw`, `crs` and `crc` of an unpoisoned register to each register of RW fields leave the field values the table of R149
gives and change nothing else (R135, R257 and R300 give the fields of RACECTL, MXCTL and MSGCTL); in MXSTAT and MSGOVF, of W1C fields (R258, R301), `crw` and `crc` clear what the operand names and `crs` clears nothing; a write of RETIRED is not counted itself.
R56, R149: a write of FPCTL whose RM would be 5 or more raises ILLEGAL with DETAIL 1 and changes no field; with a legal RM the three set
DAZ, FTZ and RM, and `crw` seeds the generator streams as well. A write to a register that takes no program writes, or to an unassigned number, raises ILLEGAL with DETAIL 1, and
a poisoned value raises POISON. -/
def Obligations.CregResult : Prop :=
  (∀ s sn t, Runs s sn t →
    RetiresTo .nop s sn t (t.seq.pc + 4#64) ∧
    ∀ gd (creg : BitVec 12), t.pend gd = false →
      (creg.toNat ∈ cregNumbers → ∃ v, s.creg sn t creg.toNat = some v ∧ WritesAndRetires (.crr gd creg) s sn t gd (fun x => x = v) false false) ∧
      (creg.toNat ∉ cregNumbers → Handles t → RaisesInto (.crr gd creg) s sn t 0x01 0 1 (0xA0005000 + gd.toNat * 2 ^ 21 + creg.toNat))) ∧
  (∀ e ∈ writeTable, ∀ s sn t ga, Runs s sn t → t.pend ga = false → t.gp ga = false →
    RetiresAs (e.1 ga 0x009) s sn (t.mapCtl (fun c => { c with retired := e.2 c.retired (t.g ga) - 1 })) ∧
    RetiresAs (e.1 ga 0x020) s sn (t.mapTrap (fun r => { r with tvec := e.2 r.tvec (t.g ga) &&& ~~~2#64 })) ∧
    RetiresAs (e.1 ga 0x021) s sn (t.mapTrap (fun r => { r with tcause := e.2 r.tcause (t.g ga) &&& 0x7FFFF#64 })) ∧
    RetiresAs (e.1 ga 0x022) s sn (t.mapTrap (fun r => { r with tpc := e.2 r.tpc (t.g ga) &&& ~~~3#64 })) ∧
    RetiresAs (e.1 ga 0x023) s sn (t.mapTrap (fun r => { r with tval := e.2 r.tval (t.g ga) })) ∧
    RetiresAs (e.1 ga 0x024) s sn (t.mapTrap (fun r => { r with tsave := e.2 r.tsave (t.g ga) })) ∧
    RetiresAs (e.1 ga 0x041) s sn (t.mapCtl (fun c => { c with fpstat := (e.2 (c.fpstat.setWidth 64) (t.g ga)).setWidth 10 })) ∧
    RetiresAs (e.1 ga 0x050) s sn (t.mapCtl (fun c => { c with isat := (e.2 (BitVec.ofNat 64 (b2n c.isat)) (t.g ga)).getLsbD 0 })) ∧
    (∀ x, x = (e.2 (BitVec.ofNat 64 (t.seq.ctl.supcnt * 2 ^ 24 + b2n t.seq.ctl.supp * 2 ^ 16)) (t.g ga)).toNat →
      RetiresAs (e.1 ga 0x070) s sn (t.mapCtl (fun c => { c with supcnt := bitsOf x 24 8, supp := bitOf x 16 }))) ∧
    RetiresAs (e.1 ga 0x080) s sn (t.mapCtl (fun c => { c with notrap := (e.2 (BitVec.ofNat 64 (b2n c.notrap)) (t.g ga)).getLsbD 0 }))) ∧
  (∀ s sn t ga, Runs s sn t → t.pend ga = false → t.gp ga = false →
    (∀ o v, o = BitVec.ofNat 64 (b2n t.seq.ctl.daz * 16 + b2n t.seq.ctl.ftz * 8 + t.seq.ctl.rm) → v = t.g ga →
      (v.toNat % 8 < 5 → RetiresAs (.crw ga 0x040) s sn ((FpctlIs t v).mapSeq (fun q =>
        { q with gens := (List.range 19).map (fun j => (j, genSeed (v.extractLsb' 32 32) j)) }))) ∧
      ((o ||| v).toNat % 8 < 5 → RetiresAs (.crs ga 0x040) s sn (FpctlIs t (o ||| v))) ∧
      ((o &&& ~~~v).toNat % 8 < 5 → RetiresAs (.crc ga 0x040) s sn (FpctlIs t (o &&& ~~~v)))) ∧
    (∀ i ∈ [Instr.crw ga, Instr.crc ga],
      RetiresAs (i 0x051) s sn (t.mapCtl (fun c => { c with mxst := c.mxst &&& ~~~((t.g ga).setWidth 15) })) ∧
      RetiresAs (i 0x081) s sn (if (t.g ga).getLsbD 0 then t.mapCtl (fun c => { c with drop := false, dcnt := 0 }) else t)) ∧
    RetiresAs (.crs ga 0x051) s sn t ∧ RetiresAs (.crs ga 0x081) s sn t) ∧
  (∀ e ∈ writeTable, ∀ s sn t ga (creg : BitVec 12), Runs s sn t → Handles t →
    (creg.toNat ∉ [0x009, 0x020, 0x021, 0x022, 0x023, 0x024, 0x040, 0x041, 0x050, 0x051, 0x070, 0x080, 0x081] →
      RaisesInto (e.1 ga creg) s sn t 0x01 0 1 (e.1 ga creg).tval.toNat) ∧
    (creg.toNat ∈ [0x009, 0x020, 0x021, 0x022, 0x023, 0x024, 0x040, 0x041, 0x050, 0x051, 0x070, 0x080, 0x081] → t.pend ga = false → t.gp ga = true →
      RaisesInto (e.1 ga creg) s sn t 0x0D 0 0 ga.toNat) ∧
    (t.pend ga = false → t.gp ga = false →
      5 ≤ (e.2 (BitVec.ofNat 64 (b2n t.seq.ctl.daz * 16 + b2n t.seq.ctl.ftz * 8 + t.seq.ctl.rm)) (t.g ga)).toNat % 8 →
      RaisesInto (e.1 ga 0x040) s sn t 0x01 0 1 (e.1 ga 0x040).tval.toNat))

/-- R154, R155, R174: with causes going to the handler, `trapi` and `break` enter it with their cause codes and the values of R154, and so does
`rett` outside a handler, with ILLEGAL; PC becomes the handler's address, TPC the instruction's, INTRAP 1, and nothing else changes. -/
def Obligations.TrapEntry : Prop :=
  ∀ s sn t, Runs s sn t → Handles t →
    (∀ code : BitVec 8, RaisesInto (.trapi code) s sn t 0x0E 0 0 code.toNat) ∧
    RaisesInto .brk s sn t 0x0F 0 0 0 ∧
    RaisesInto .rett s sn t 0x01 0 0 0xA0003000 ∧
    (∀ w : BitVec 32, RaisesInto (.unassignedOpcode w) s sn t 0x01 0 0 w.toNat)

/-- R153, R156: with TVEC.EN = 0, or inside a handler, the causes of `trapi` and `break` escalate: TCAUSE, TVAL and TPC are
written as under R155, INTRAP and PC stay, the strand halts and is kept, and the other strands of its instance halt, to be ended without a save, an instruction of theirs whose result is on its way
abandoned (R180); a strand of another instance and memory's bytes stay as they are. -/
def Obligations.Escalates : Prop :=
  ∀ s sn t, Runs s sn t → (t.seq.trap.tvec.getLsbD 0 = false ∨ t.seq.trap.intrap = true) →
    ∀ i cause val, (i = .brk ∧ cause = 0x0F ∧ val = 0) ∨ (∃ code : BitVec 8, i = .trapi code ∧ cause = 0x0E ∧ val = code.toNat) →
    ∃ s' t', exec i s = .next s' ∧ s'.strand? sn = some t' ∧ t'.run = .halted .keep ∧ t'.seq.pc = t.seq.pc ∧ RegsKept t t' ∧
      t'.seq.trap.tcause = BitVec.ofNat 64 cause ∧ t'.seq.trap.tval = BitVec.ofNat 64 val ∧ t'.seq.trap.tpc = t.seq.pc &&& ~~~3#64 ∧
      t'.seq.trap.intrap = t.seq.trap.intrap ∧ t'.seq.ctl = t.seq.ctl ∧
      (∀ k u, k ≠ sn → s.strand? k = some u → u.kinst = t.kinst → u.run ≠ .halted .keep →
        ∃ u', s'.strand? k = some u' ∧ u'.run = .halted .drop ∧ u'.seq.pc = u.rollback.seq.pc ∧ RegsKept u.rollback u') ∧
      (∀ k u, s.strand? k = some u → u.kinst ≠ t.kinst → s'.strand? k = some u) ∧
      (∀ k, s.strand? k = none → s'.strand? k = none) ∧
      (∀ pa, s'.mem.peekByte pa = s.mem.peekByte pa) ∧ s'.mem.banks = s.mem.banks ∧ Report.escalation sn ∈ s'.mem.reports

/-- R157: `rett` inside a handler, with no engine's trap held or waiting, resumes at TPC, clears INTRAP and the EH bits, counts as
retired and changes nothing else; with an engine's trap held and TVEC.EN = 1, the held cause enters the handler at once, with TPC where `rett`
would have resumed. -/
def Obligations.RettResult : Prop :=
  ∀ s sn t, Runs s sn t → t.seq.trap.intrap = true → t.seq.trap.raised = [] →
    (t.seq.trap.hold = none → ∃ s', exec .rett s = .next s' ∧ OnlyStrand s s' sn
      { t with prog := true
               seq := { t.seq with pc := t.seq.trap.tpc, undo := none, wait := .none, ctl := t.seq.ctl.counted
                                   trap := { t.seq.trap with intrap := false, eha := false, ehm := false, ehs := false } } }) ∧
    (∀ c, t.seq.trap.hold = some c → t.seq.trap.tvec.getLsbD 0 = true → ∃ s', exec .rett s = .next s' ∧ OnlyStrand s s' sn
      { t with prog := true
               seq := { t.seq with pc := t.seq.trap.tvec &&& ~~~3#64, undo := none, wait := .none, ctl := t.seq.ctl.counted
                                   trap := { t.seq.trap with
                                     hold := none, intrap := true, eha := decide (c.src = 1), ehm := decide (c.src = 2), ehs := decide (c.src = 3)
                                     tcause := BitVec.ofNat 64 (c.src * 65536 + c.detail * 256 + c.cause), tval := BitVec.ofNat 64 c.val
                                     tpc := t.seq.trap.tpc &&& ~~~3#64 } } })

/-- R107, R160, R166: a load whose base is neither pending nor poisoned, from a window range inside one slot that serves it, with room in the
load table, completes: it retires, gd is pending (g0 is not), and the load table holds the access; no byte of memory changes.
R125, R160, R166: a store with an unpoisoned base to a window range inside one slot that serves it, with room in the store buffer,
completes: it retires into the store buffer with the low bytes of gd, each marked as gd is; no register and no byte of memory changes.
R127, R167, R169, R171: so do a load and a store to pages that translate, in parts that lie where the pages put them, aligned as SCO and RC pages ask: on a plain or SCO page they
retire, on an RC page they wait for their check (R416); the parts of a store that are acknowledged count in ACKCNT; one to an SCO page waits, with nothing done,
while an earlier one is still to be performed.
The model's choice: the steps into which an access is cut (log 8). -/
def Obligations.LoadStoreIssues : Prop :=
  (∀ e ∈ loadTable, ∀ s sn t gd ga imm b, Runs s sn t → t.busy [gd, ga] = false → t.gp ga = false → t.loadFull = false →
    inWindow (effAddr t ga imm) = true → winOff (effAddr t ga imm) + e.2.1 ≤ 65536 → Serves s.mem t (winSlot (effAddr t ga imm)) b →
    ∃ s' t', exec (e.1 gd ga imm) s = .next s' ∧ OnlyStrand s s' sn t' ∧
      t'.seq.pc = t.seq.pc + 4#64 ∧ t'.seq.ctl = t.seq.ctl.counted ∧ t'.seq.stores = t.seq.stores ∧ t'.seq.trap = t.seq.trap ∧
      (∀ r : Reg, t'.g r = t.g r ∧ t'.gp r = t.gp r ∧ t'.pend r = (decide (r = gd ∧ r ≠ 0) || t.pend r)) ∧
      ∃ a, t'.seq.loads = t.seq.loads ++ [a] ∧ a.id = t.seq.nextId ∧ a.dest = gd.toNat ∧ a.va = effAddr t ga imm ∧ a.kind = .load e.2.1 e.2.2 ∧
        a.rc = false ∧ allDone a.parts = false ∧
        (∀ p ∈ a.parts, ∃ o, p.place = .bank b o ∧ p.done = false ∧ winOff p.va = o ∧ winOff (effAddr t ga imm) ≤ o ∧
          o + p.n ≤ winOff (effAddr t ga imm) + e.2.1) ∧ (a.parts.map (·.n)).sum = e.2.1) ∧
  (∀ e ∈ storeTable, ∀ s sn t gd ga imm b, Runs s sn t → t.busy [gd, ga] = false → t.gp ga = false →
    t.seq.stores.countP (fun x => !x.arr) < 16 → t.seq.ctl.ackcnt ≤ 1024 →
    inWindow (effAddr t ga imm) = true → winOff (effAddr t ga imm) + e.2 ≤ 65536 → Serves s.mem t (winSlot (effAddr t ga imm)) b →
    ∃ s' t', exec (e.1 gd ga imm) s = .next s' ∧ OnlyStrand s s' sn t' ∧ RegsKept t t' ∧
      t'.seq.pc = t.seq.pc + 4#64 ∧ t'.seq.ctl = t.seq.ctl.counted ∧ t'.seq.loads = t.seq.loads ∧ t'.seq.trap = t.seq.trap ∧
      ∃ x, t'.seq.stores = t.seq.stores ++ [x] ∧ x.va = effAddr t ga imm ∧ x.arr = false ∧ x.rc = false ∧
        partBytes x.parts = (toBytes e.2 (t.g gd).toNat).map (fun v => (v, t.gp gd)) ∧
        (∀ p ∈ x.parts, ∃ o, p.place = .bank b o ∧ p.done = false ∧ winOff p.va = o ∧ winOff (effAddr t ga imm) ≤ o ∧
          o + p.data.length ≤ winOff (effAddr t ga imm) + e.2)) ∧
  (∀ e ∈ loadTable, ∀ s sn t gd ga imm va n l1 l2 m, Runs s sn t → t.busy [gd, ga] = false → t.gp ga = false → t.loadFull = false →
    va = effAddr t ga imm → n = e.2.1 → PagesOk s sn va n .r l1 l2 m → (l1.sco = true → aligned va n = true) →
    (l1.rc = true → aligned va n = true ∨ va / 128 = (va + n - 1) / 128) →
    (l1.sco = true → t.scoBusy = true → exec (e.1 gd ga imm) s = .next s) ∧
    ((l1.sco = true → t.scoBusy = false) → ∃ s' t' a, exec (e.1 gd ga imm) s = .next s' ∧ OnlyStrand (s.setMem m) s' sn t' ∧ t'.seq.stores = t.seq.stores ∧
      t'.seq.trap = t.seq.trap ∧ (∀ r : Reg, t'.g r = t.g r ∧ t'.gp r = t.gp r) ∧ t'.seq.loads = t.seq.loads ++ [a] ∧ a.id = t.seq.nextId ∧
      a.dest = gd.toNat ∧ a.va = va ∧ a.kind = .load n e.2.2 ∧ a.rc = l1.rc ∧ (∀ p ∈ a.parts, PagePart va n l1 l2 p) ∧ (a.parts.map (·.n)).sum = n ∧
      (l1.rc = false → t'.seq.pc = t.seq.pc + 4#64 ∧ t'.seq.ctl = t.seq.ctl.counted ∧ ∀ r : Reg, t'.pend r = (decide (r = gd ∧ r ≠ 0) || t.pend r)) ∧
      (l1.rc = true → t'.seq.pc = t.seq.pc ∧ t'.seq.ctl = t.seq.ctl ∧ t'.seq.wait = .check a.id ∧ ∀ r : Reg, t'.pend r = t.pend r))) ∧
  (∀ e ∈ storeTable, ∀ s sn t gd ga imm va n l1 l2 m, Runs s sn t → t.busy [gd, ga] = false → t.gp ga = false → t.seq.stores.countP (fun x => !x.arr) < 16 →
    va = effAddr t ga imm → n = e.2 → PagesOk s sn va n .w l1 l2 m → (l1.sco = true → aligned va n = true) →
    (l1.rc = true → aligned va n = true ∨ va / 128 = (va + n - 1) / 128) →
    (l1.sco = true → t.scoBusy = true → exec (e.1 gd ga imm) s = .next s) ∧
    ((l1.sco = true → t.scoBusy = false) →
      (t.seq.ctl.ackcnt + 2 ≤ 1024 ∨ (t.seq.ctl.ackcnt ≤ 1024 ∧ ∀ a, (l1.place a).remote (dieOfSn sn) = false ∧ (l2.place a).remote (dieOfSn sn) = false)) →
      ∃ s' t' x k, exec (e.1 gd ga imm) s = .next s' ∧ OnlyStrand (s.setMem m) s' sn t' ∧ RegsKept t t' ∧ t'.seq.loads = t.seq.loads ∧ t'.seq.trap = t.seq.trap ∧
        t'.seq.stores = t.seq.stores ++ [x] ∧ x.va = va ∧ x.arr = false ∧ x.rc = l1.rc ∧ (∀ p ∈ x.parts, PagePart va n l1 l2 p ∧ p.data.length = p.n) ∧
        partBytes x.parts = (toBytes n (t.g gd).toNat).map (fun v => (v, t.gp gd)) ∧ k = x.parts.countP (fun p => p.place.remote (dieOfSn sn)) ∧
        (l1.rc = false → t'.seq.pc = t.seq.pc + 4#64 ∧ t'.seq.ctl = { t.seq.ctl.counted with ackcnt := t.seq.ctl.ackcnt + k }) ∧
        (l1.rc = true → t'.seq.pc = t.seq.pc ∧ t'.seq.ctl = { t.seq.ctl with ackcnt := t.seq.ctl.ackcnt + k } ∧ t'.seq.wait = .check x.id)))

/-- R147, R154, R170: a load or store with a poisoned base raises POISON; one whose bytes wrap past the address space or cross the edge of
the window raises ALIGN with DETAIL 2, and one at a window address whose slot is detached raises DETACHED, each with the access's first byte.
R170, R171, R347: in translated space a page that forbids the access raises PERM, one whose translation system software refused raises XLATE, and a translation fault parks the
instruction with a record in the fault buffer; two pages whose attributes differ raise ALIGN_ATTR with the second page's address; an access that is not aligned as its
SCO or RC page asks raises ALIGN with DETAIL 1. So do atomics for the first three, whose record names path AT.
R147, R321, R323: an atomic with illegal fields, or with an AOP outside AOPSET, raises ILLEGAL before any register is read; a
poisoned address raises POISON, and one in the scratchpad window or not a multiple of its width raises ATOM_ALIGN with the address. R326: a reduction whose redirect
descriptor is poisoned raises POISON, and one whose descriptor does not pass its checks ILLEGAL.
The model's choice: SRC is 0 for the causes that an atomic raises before its update (log 24). -/
def Obligations.AccessTraps : Prop :=
  (∀ s sn t gd ga (imm : BitVec 16), Runs s sn t → Handles t → t.busy [gd, ga] = false →
    (∀ i n, ((∃ e ∈ loadTable, i = e.1 gd ga imm ∧ n = e.2.1 ∧ t.loadFull = false) ∨
        (∃ e ∈ storeTable, i = e.1 gd ga imm ∧ n = e.2 ∧ t.seq.stores.countP (fun x => !x.arr) < 16)) →
      (t.gp ga = true → RaisesInto i s sn t 0x0D 0 0 ga.toNat) ∧
      (t.gp ga = false → (2 ^ 64 < effAddr t ga imm + n ∨ inWindow (effAddr t ga imm) ≠ inWindow (effAddr t ga imm + n - 1)) →
        RaisesInto i s sn t 0x04 0 2 (effAddr t ga imm)) ∧
      (t.gp ga = false → effAddr t ga imm + n ≤ 2 ^ 64 → inWindow (effAddr t ga imm) = true → (t.slot (winSlot (effAddr t ga imm))).bank = none →
        RaisesInto i s sn t 0x03 0 0 (effAddr t ga imm))) ∧
    (∀ i n perm wr va, ((∃ e ∈ loadTable, i = e.1 gd ga imm ∧ n = e.2.1 ∧ perm = Perm.r ∧ wr = false ∧ t.loadFull = false) ∨
        (∃ e ∈ storeTable, i = e.1 gd ga imm ∧ n = e.2 ∧ perm = Perm.w ∧ wr = true ∧ t.seq.stores.countP (fun x => !x.arr) < 16)) →
      t.gp ga = false → va = effAddr t ga imm → inWindow va = false → inWindow (va + n - 1) = false → va + n ≤ 2 ^ 64 →
      (∀ l m, s.mem.translate (coreOfSn sn) (partOfSn sn) va = (.leaf l, m) → l.allows perm = false → RaisesAfter i s m sn t 0x07 0 0 va) ∧
      (∀ m, s.mem.translate (coreOfSn sn) (partOfSn sn) va = (.xlate, m) → RaisesAfter i s m sn t 0x06 0 0 va) ∧
      (∀ k ent lvl m, s.mem.translate (coreOfSn sn) (partOfSn sn) va = (.park k ent lvl, m) → ParksAt i s m sn t 0 va k ent lvl wr false) ∧
      (∀ l1 l2 m1 m b, b = (va + n - 1) / 4096 * 4096 → b / 4096 ≠ va / 4096 → s.mem.page (coreOfSn sn) (partOfSn sn) va perm = (.ok l1, m1) →
        m1.page (coreOfSn sn) (partOfSn sn) b perm = (.ok l2, m) → l1.sameAttr l2 = false → RaisesAfter i s m sn t 0x05 0 0 b) ∧
      (∀ l1 l2 m, PagesOk s sn va n perm l1 l2 m → aligned va n = false → (l1.sco = true ∨ (l1.rc = true ∧ va / 128 ≠ (va + n - 1) / 128)) →
        RaisesAfter i s m sn t 0x04 0 1 va))) ∧
  (∀ e ∈ atomTable, ∀ s sn t gd ga gb (ord scope : BitVec 3), Runs s sn t → Handles t →
    ((amoLegal ord scope = false ∨ ∃ k, e.2.2.1 = some k ∧ s.aopIn t k = false) →
      RaisesInto (e.1 gd ga gb ord scope) s sn t 0x01 0 0 (e.1 gd ga gb ord scope).tval.toNat) ∧
    (amoLegal ord scope = true → (∀ k, e.2.2.1 = some k → s.aopIn t k = true) → t.busy [gd, ga, gb] = false →
      (t.gp ga = true → RaisesInto (e.1 gd ga gb ord scope) s sn t 0x0D 0 0 ga.toNat) ∧
      (t.gp ga = false → (e.2.2.2.2.2 = true → gd = 0) → (inWindow (t.g ga).toNat = true ∨ (t.g ga).toNat % (e.2.2.2.1 / 8) ≠ 0) →
        RaisesInto (e.1 gd ga gb ord scope) s sn t 0x12 0 0 (t.g ga).toNat) ∧
      (t.gp ga = false → e.2.2.2.2.2 = true → gd ≠ 0 →
        (t.gp gd = true → RaisesInto (e.1 gd ga gb ord scope) s sn t 0x0D 0 0 gd.toNat) ∧
        (t.gp gd = false → redirOk (s.instOf t.kinst) e.2.2.2.1 (t.g gd).toNat = false →
          RaisesInto (e.1 gd ga gb ord scope) s sn t 0x01 0 0 (e.1 gd ga gb ord scope).tval.toNat)) ∧
      (∀ va, t.gp ga = false → (e.2.2.2.2.2 = true → gd ≠ 0 → t.gp gd = false ∧ redirOk (s.instOf t.kinst) e.2.2.2.1 (t.g gd).toNat = true) →
        va = (t.g ga).toNat → inWindow va = false → va % (e.2.2.2.1 / 8) = 0 → (if e.2.2.2.2.2 then t.seq.reds.length < 64 else t.loadFull = false) →
        (∀ l m, s.mem.translate (coreOfSn sn) (partOfSn sn) va = (.leaf l, m) → l.allows .rw = false → RaisesAfter (e.1 gd ga gb ord scope) s m sn t 0x07 0 0 va) ∧
        (∀ m, s.mem.translate (coreOfSn sn) (partOfSn sn) va = (.xlate, m) → RaisesAfter (e.1 gd ga gb ord scope) s m sn t 0x06 0 0 va) ∧
        (∀ k ent lvl m, s.mem.translate (coreOfSn sn) (partOfSn sn) va = (.park k ent lvl, m) →
          ParksAt (e.1 gd ga gb ord scope) s m sn t 3 va k ent lvl true true))))

/-- R147, R160, R166: LOAD_REPLY of a load of one bank part that no earlier access holds back completes it: gd takes the bytes, extended as the
load says and poisoned when any byte is, is pending no more, and the load table gives up the entry; PC, the control registers and the store buffer stay, and no memory changes.
R108, R160: STORE_PERFORM of a store of one bank part that no earlier access holds back writes its bytes with their poison marks to the
bank, and to no other byte of any bank or of device memory, and the store leaves the buffer.
R109, R110, R167: at a page, the reply of a load whose parts are all there writes gd in the same way, and on an RC page it retires the instruction; a part that a cache of the core holds
is served from it; a load performed at its home slice takes its bytes out of the line that fills the constant cache or L1; a race there is raised precisely (R134). STORE_PERFORM
at a home slice leaves the memory that the slice's write gives, and one to a page without a local frame leaves the package (R349); both await an acknowledgement where one is
given (R125).
The model's choice: the steps into which an access is cut (log 8). -/
def Obligations.LoadReplyStorePerform : Prop :=
  (∀ s sn t (a : Acc) (n : Nat) (sg : Bool) (p : Part) b o, Runs s sn t → t.seq.loads.find? (fun x => decide (x.id = s.agent.b)) = some a →
    a.kind = .load n sg → a.rc = false → a.parts = [p] → p.place = .bank b o → p.n = n → p.done = false → t.blocked a.seq false p = false →
    tblGet 0 t.seq.glat (BitVec.ofNat 5 a.dest).toNat = 0 → 1 ≤ n → n ≤ 8 →
    ∃ s' t', exec .loadReply s = .next s' ∧ OnlyStrand s s' sn t' ∧ t'.seq.pc = t.seq.pc ∧ t'.seq.ctl = t.seq.ctl ∧ t'.seq.stores = t.seq.stores ∧
      t'.seq.loads = t.seq.loads.filter (fun x => decide (x.id ≠ a.id)) ∧
      ∃ v, Wrote t t' (BitVec.ofNat 5 a.dest) v ((List.range n).any (fun k => (s.mem.bankByte b (o + k)).2)) false ∧
        (∀ k, k < n → v.extractLsb' (8 * k) 8 = (s.mem.bankByte b (o + k)).1) ∧
        (∀ k, 8 * n ≤ k → k < 64 → v.getLsbD k = (sg && (s.mem.bankByte b (o + n - 1)).1.getLsbD 7))) ∧
  (∀ s sn t (x : Store) (p : Part) b o, Runs s sn t → t.seq.stores[s.agent.b]? = some x → x.rc = false → x.parts = [p] → p.done = false →
    p.place = .bank b o → o + p.data.length ≤ 65536 → t.blocked x.seq x.arr p = false →
    ∃ s' t', exec .storePerform s = .next s' ∧ s'.strand? sn = some t' ∧ (∀ k, k ≠ sn → s'.strand? k = s.strand? k) ∧
      RegsKept t t' ∧ t'.seq.pc = t.seq.pc ∧ t'.seq.ctl = t.seq.ctl ∧ t'.seq.stores = t.seq.stores.filter (fun y => decide (y.id ≠ x.id)) ∧
      (∀ c q, q < 65536 → s'.mem.bankByte c q = if c = b ∧ o ≤ q ∧ q < o + p.data.length then p.data.getD (q - o) (0, false) else s.mem.bankByte c q) ∧
      (∀ pa, s'.mem.peekByte pa = s.mem.peekByte pa)) ∧
  (∀ s sn t (a : Acc) (n : Nat) (sg : Bool) (data : List PB), Runs s sn t → t.seq.loads.find? (fun x => decide (x.id = s.agent.b)) = some a →
    a.kind = .load n sg → 1 ≤ n → n ≤ 8 → data.length = n → tblGet 0 t.seq.glat (BitVec.ofNat 5 a.dest).toNat = 0 → (a.rc = true → t.seq.trap.raised = []) →
    ((allDone a.parts = true ∧ partBytes a.parts = data) ∨
      ∃ p pa, a.parts = [p] ∧ p.place = .frame pa ∧ p.done = false ∧ t.blocked a.seq false p = false ∧ s.cached (coreOfSn sn) p = some data) →
    ∃ s' t' v, exec .loadReply s = .next s' ∧ OnlyStrand s s' sn t' ∧ Wrote t t' (BitVec.ofNat 5 a.dest) v (data.any (·.2)) false ∧
      (∀ k, k < n → v.extractLsb' (8 * k) 8 = (data.getD k (0, false)).1) ∧
      (∀ k, 8 * n ≤ k → k < 64 → v.getLsbD k = (sg && (data.getD (n - 1) (0, false)).1.getLsbD 7)) ∧
      t'.seq.loads = t.seq.loads.filter (fun x => decide (x.id ≠ a.id)) ∧ t'.seq.stores = t.seq.stores ∧
      t'.seq.pc = (if a.rc = true then t.seq.pc + 4#64 else t.seq.pc) ∧ t'.seq.ctl = if a.rc = true then t.seq.ctl.counted else t.seq.ctl) ∧
  (∀ s sn t (a : Acc) n sg p pa r m, Runs s sn t → t.seq.loads.find? (fun x => decide (x.id = s.agent.b)) = some a → a.kind = .load n sg → a.parts = [p] →
    p.place = .frame pa → p.done = false → t.blocked a.seq false p = false →
    (s.homeRead (coreOfSn sn) (t.who sn 0 a.rc a.id) p = .ok r m → r.passed = none →
      ∃ s' t' y, exec .sliceAccess s = .next s' ∧ s'.strand? sn = some t' ∧ (∀ k, k ≠ sn → s'.strand? k = s.strand? k) ∧ s'.mem = m ∧ RegsKept t t' ∧
        t'.seq.pc = t.seq.pc ∧ t'.seq.loads.find? (fun x => decide (x.id = s.agent.b)) = some y ∧ allDone y.parts = true ∧
        partBytes y.parts = if p.ro = true ∨ (p.l1 = true ∧ s.l1Count (coreOfSn sn) ≠ 0) then slice r.old (pa % 128) p.n else r.old) ∧
    (∀ c, s.homeRead (coreOfSn sn) (t.who sn 0 a.rc a.id) p = .race c m → t.run = .running → Handles t → t.seq.trap.raised = [] →
      ∃ s' t', exec .sliceAccess s = .next s' ∧ s'.strand? sn = some t' ∧ (∀ k, k ≠ sn → s'.strand? k = s.strand? k) ∧ s'.mem = m ∧ RaceRaised t t' 0 0 a.va c ∧
        t'.seq.loads = t.seq.loads.filter (fun x => decide (x.id ≠ a.id)))) ∧
  (∀ s sn t (x : Store) (p : Part), Runs s sn t → t.seq.stores[s.agent.b]? = some x → x.rc = false → x.parts = [p] → p.done = false →
    t.blocked x.seq x.arr p = false →
    (∀ r m, (∀ loc addr va, p.place ≠ .fwd loc addr va) → s.mem.at s.clock (t.who sn 0 false x.id) .write p.place p.n (fun _ => p.data) = .ok r m →
      ∃ s' t', exec .storePerform s = .next s' ∧ s'.strand? sn = some t' ∧ (∀ k, k ≠ sn → s'.strand? k = s.strand? k) ∧ s'.mem = m ∧ RegsKept t t' ∧
        t'.seq.pc = t.seq.pc ∧ t'.seq.ctl = t.seq.ctl ∧ t'.seq.stores = t.seq.stores.filter (fun y => decide (y.id ≠ x.id)) ∧
        t'.seq.acks = t.seq.acks ++ if p.place.remote (dieOfSn sn) then [.ls p.sco] else []) ∧
    (∀ loc addr va, p.place = .fwd loc addr va →
      ∃ s' t', exec .storePerform s = .next s' ∧ s'.strand? sn = some t' ∧ (∀ k, k ≠ sn → s'.strand? k = s.strand? k) ∧ RegsKept t t' ∧
        s'.outs = s.outs ++ [.write (s.portFn loc (partOfSn sn)) loc addr p.data] ∧ t'.seq.stores = t.seq.stores.filter (fun y => decide (y.id ≠ x.id)) ∧
        t'.seq.acks = t.seq.acks ++ [.ls p.sco]))

/-- R129, R137: a `fence` that releases and whose accesses are performed at its scope ends the region: RSEQ takes CSEQ, CSEQ moves on, the
broadcast to every slice begins, and the fence waits; when the broadcast is over, a `rel` fence retires and changes no register. A `fence`
with acquire order and LS in PMASK, whose reads are performed, retires, and at group scope or wider the core's L1 and constant caches are empty.
R138: a `fencex` with LS in DMASK whose accesses are performed at its scope retires, and one that names another path in SMASK leaves the
core's L1 empty; without LS in DMASK it retires at once and leaves a barrier for the engines named. It ends no region. -/
def Obligations.FenceResult : Prop :=
  (∀ s sn t (ord scope : BitVec 3) (pmask : BitVec 5), Runs s sn t → fenceLegal ord scope pmask = true →
    (2 ≤ ord.toNat → t.seq.wait = .none → t.performedAll (dieOfSn sn) scope.toNat t.seq.seq pmask.toNat = true → s.canRelease sn t = true →
      ∃ s' t', exec (.fence ord scope pmask) s = .next s' ∧ s'.strand? sn = some t' ∧ RegsKept t t' ∧ t'.seq.pc = t.seq.pc ∧
        t'.seq.ctl = { t.seq.ctl with rseq := t.seq.ctl.cseq, cseq := (t.seq.ctl.cseq + 1) % 256 } ∧ t'.seq.wait = .release t.seq.ctl.cseq ∧
        s'.mem.rel = s.mem.rel ++ [⟨sn, t.seq.ctl.cseq, List.range 192⟩] ∧ (∀ k, k ≠ sn → s'.strand? k = s.strand? k)) ∧
    (ord = 2 → ∀ q, t.seq.wait = .release q → (∀ r ∈ s.mem.rel, r.sn = sn → r.seq ≠ q) →
      RetiresTo (.fence ord scope pmask) s sn t (t.seq.pc + 4#64)) ∧
    (ord = 1 → pmask.getLsbD 0 = true → t.readsDone (dieOfSn sn) t.seq.seq pmask.toNat = true →
      ∃ s' t', exec (.fence ord scope pmask) s = .next s' ∧ s'.strand? sn = some t' ∧ RegsKept t t' ∧ RegsOnly t t' ∧
        t'.seq.pc = t.seq.pc + 4#64 ∧ t'.seq.ctl = t.seq.ctl.counted ∧ (∀ k, k ≠ sn → s'.strand? k = s.strand? k) ∧ s'.mem = s.mem ∧
        (2 ≤ scope.toNat → (s'.core (coreOfSn sn)).l1 = [] ∧ (s'.core (coreOfSn sn)).cc = [])) ∧
    (Handles t → fenceLegal 0 scope pmask = false ∧ RaisesInto (.fence 0 scope pmask) s sn t 0x01 0 0 (Instr.fence 0 scope pmask).tval.toNat)) ∧
  (∀ s sn t (smask dmask : BitVec 5) (scope : BitVec 3), Runs s sn t → fencexLegal smask dmask scope = true →
    (dmask.getLsbD 0 = true → t.performedAll (dieOfSn sn) scope.toNat t.seq.seq smask.toNat = true →
      ∃ s' t', exec (.fencex smask dmask scope) s = .next s' ∧ s'.strand? sn = some t' ∧ RegsKept t t' ∧ RegsOnly t t' ∧
        t'.seq.pc = t.seq.pc + 4#64 ∧ t'.seq.ctl = t.seq.ctl.counted ∧ (∀ k, k ≠ sn → s'.strand? k = s.strand? k) ∧ s'.mem = s.mem ∧
        (smask ≠ 1 → (s'.core (coreOfSn sn)).l1 = [])) ∧
    (dmask.getLsbD 0 = false →
      ∃ s' t', exec (.fencex smask dmask scope) s = .next s' ∧ OnlyStrand s s' sn t' ∧ RegsKept t t' ∧ t'.seq.pc = t.seq.pc + 4#64 ∧
        t'.seq.ctl = t.seq.ctl.counted ∧
        ∃ b ∈ t'.seq.barriers, b.src = smask.toNat ∧ b.dst = dmask.toNat ∧ b.readsOnly = false ∧ b.scope = scope.toNat))

/-- R129, R175: `halt` raises LOOP with DETAIL 0x80 while the strand's loop runs; else, when every command has completed and every access is
performed, it ends the region and waits, and when the broadcast of that release is over the strand is ready to end; PC stays at the `halt`. -/
def Obligations.HaltResult : Prop :=
  ∀ s sn t, Runs s sn t →
    (Handles t → t.arr.st ≠ .idle → RaisesInto .halt s sn t 0x0C 0 0x80 0) ∧
    (t.arr.st = .idle → t.seq.wait = .none → t.quiet = true → s.canRelease sn t = true →
      ∃ s' t', exec .halt s = .next s' ∧ s'.strand? sn = some t' ∧ RegsKept t t' ∧ t'.seq.pc = t.seq.pc ∧
        t'.seq.ctl = { t.seq.ctl with rseq := t.seq.ctl.cseq, cseq := (t.seq.ctl.cseq + 1) % 256 } ∧ t'.seq.wait = .release t.seq.ctl.cseq ∧
        s'.mem.rel = s.mem.rel ++ [⟨sn, t.seq.ctl.cseq, List.range 192⟩]) ∧
    (t.arr.st = .idle → ∀ q, t.seq.wait = .release q → (∀ r ∈ s.mem.rel, r.sn = sn → r.seq ≠ q) →
      ∃ s', exec .halt s = .next s' ∧ OnlyStrand s s' sn (t.setWait .halted))

/-- R160, R322, R323: an atomic or reduction of legal fields and an AOP of its image's AOPSET, with registers neither pending nor
poisoned, an aligned address of a page that translates, and relaxed or acquire order, completes: it retires and takes its place among the
accesses in flight with its operator, width, operand and expected value; a returning one leaves gd pending; no register's value changes.
R73, R125, R127, R322, R326: so does one of any order, with poisoned data operands, with the redirect descriptor of a reduction, on an RC page, where it waits for its check (R416), on an SCO
page, once no earlier one there is on its way, and to a home whose reply counts in ACKCNT. The release part of its order comes first, as a fence's on path AT does; its
acquire part is a barrier of that path.
The model's choice: the release part ends its region in a step of its own, whose broadcast the atomic awaits (log 25). -/
def Obligations.AtomicIssues : Prop :=
  (∀ e ∈ atomTable, ∀ s sn t gd ga gb (ord scope : BitVec 3) l m, Runs s sn t → t.busy [gd, ga, gb] = false → t.anyPois [gd, ga, gb] = false →
    amoLegal ord scope = true → ord.toNat < 2 → t.seq.wait = .none → (∀ k, e.2.2.1 = some k → s.aopIn t k = true) →
    inWindow (t.g ga).toNat = false → (t.g ga).toNat % (e.2.2.2.1 / 8) = 0 →
    (e.2.2.2.2.2 = false → t.loadFull = false) → (e.2.2.2.2.2 = true → t.seq.reds.length < 64 ∧ gd = 0) →
    s.mem.page (coreOfSn sn) (partOfSn sn) (t.g ga).toNat .rw = (.ok l, m) → l.rc = false → l.sco = false →
    (l.place (t.g ga).toNat).remote (dieOfSn sn) = false →
    ∃ s' t' a x, exec (e.1 gd ga gb ord scope) s = .next s' ∧ OnlyStrand (s.setMem m) s' sn t' ∧
      t'.seq.pc = t.seq.pc + 4#64 ∧ t'.seq.ctl = t.seq.ctl.counted ∧
      (∀ r : Reg, t'.g r = t.g r ∧ t'.gp r = t.gp r ∧ t'.pend r = ((decide (r = gd ∧ r ≠ 0) && !e.2.2.2.2.2) || t.pend r)) ∧
      (if e.2.2.2.2.2 then t'.seq.reds = t.seq.reds ++ [x] ∧ t'.seq.loads = t.seq.loads
        else t'.seq.loads = t.seq.loads ++ [x] ∧ t'.seq.reds = t.seq.reds) ∧
      x.id = t.seq.nextId ∧ x.dest = gd.toNat ∧ x.va = (t.g ga).toNat ∧ x.rc = false ∧ (∃ fl, x.kind = .atom a false 0 false fl false) ∧
      a.op = e.2.1 ∧ a.w = e.2.2.2.1 ∧ a.b = (t.g gb).toNat % 2 ^ e.2.2.2.1 ∧ (e.2.1 = .cas → a.e = (t.g gd).toNat % 2 ^ e.2.2.2.1) ∧
      a.sx = e.2.2.2.2.1 ∧ a.redir = none) ∧
  (∀ e ∈ atomTable, ∀ s sn t gd ga gb (ord scope : BitVec 3) l m d rem, Runs s sn t → t.busy [gd, ga, gb] = false → t.gp ga = false →
    amoLegal ord scope = true → (∀ k, e.2.2.1 = some k → s.aopIn t k = true) → inWindow (t.g ga).toNat = false → (t.g ga).toNat % (e.2.2.2.1 / 8) = 0 →
    (e.2.2.2.2.2 = false → t.loadFull = false ∧ d = none) → (e.2.2.2.2.2 = true → t.seq.reds.length < 64 ∧
      if gd = 0 then d = none else t.gp gd = false ∧ redirOk (s.instOf t.kinst) e.2.2.2.1 (t.g gd).toNat = true ∧ d = some (t.g gd).toNat) →
    s.mem.page (coreOfSn sn) (partOfSn sn) (t.g ga).toNat .rw = (.ok l, m) → rem = (l.place (t.g ga).toNat).remote (dieOfSn sn) →
    (2 ≤ ord.toNat → t.seq.wait = .none →
      (t.performedAll (dieOfSn sn) scope.toNat t.seq.seq 8 = true → (s.setMem m).canRelease sn t = true →
        ∃ s' t', exec (e.1 gd ga gb ord scope) s = .next s' ∧ s'.strand? sn = some t' ∧ (∀ k, k ≠ sn → s'.strand? k = s.strand? k) ∧ RegsKept t t' ∧
          t'.seq.pc = t.seq.pc ∧ t'.seq.ctl = { t.seq.ctl with rseq := t.seq.ctl.cseq, cseq := (t.seq.ctl.cseq + 1) % 256 } ∧
          t'.seq.wait = .release t.seq.ctl.cseq ∧ s'.mem.rel = m.rel ++ [⟨sn, t.seq.ctl.cseq, List.range 192⟩]) ∧
      ((t.performedAll (dieOfSn sn) scope.toNat t.seq.seq 8 = false ∨ (s.setMem m).canRelease sn t = false) →
        exec (e.1 gd ga gb ord scope) s = .next (s.setMem m))) ∧
    (∀ q, t.seq.wait = .release q → (s.setMem m).relDone sn q = false → exec (e.1 gd ga gb ord scope) s = .next (s.setMem m)) ∧
    (((ord.toNat < 2 ∧ t.seq.wait = .none) ∨ (2 ≤ ord.toNat ∧ (t.seq.wait = .released ∨ ∃ q, t.seq.wait = .release q ∧ (s.setMem m).relDone sn q = true))) →
      (((l.sco = true ∧ ∃ x ∈ t.seq.loads ++ t.seq.reds, x.kind.onPath 3 = true ∧ (x.kind.performed = false ∨ x.ack = true) ∧ x.parts.any (·.sco) = true) ∨
          (rem = true ∧ 1024 ≤ t.seq.ctl.ackcnt)) →
        ∃ s', exec (e.1 gd ga gb ord scope) s = .next s' ∧ OnlyStrand (s.setMem m) s' sn (t.setWait (if 2 ≤ ord.toNat then .released else .none))) ∧
      ((l.sco = true → ∀ x ∈ t.seq.loads ++ t.seq.reds, x.kind.onPath 3 = true → x.parts.any (·.sco) = true → x.kind.performed = true ∧ x.ack = false) →
        (rem = true → t.seq.ctl.ackcnt < 1024) →
        ∃ s' t' a x, exec (e.1 gd ga gb ord scope) s = .next s' ∧ OnlyStrand (s.setMem m) s' sn t' ∧
          (∀ r : Reg, t'.g r = t.g r ∧ t'.gp r = t.gp r ∧
            t'.pend r = ((decide (r = gd ∧ r ≠ 0) && !e.2.2.2.2.2 && !l.rc) || t.pend r)) ∧
          (if e.2.2.2.2.2 then t'.seq.reds = t.seq.reds ++ [x] ∧ t'.seq.loads = t.seq.loads
            else t'.seq.loads = t.seq.loads ++ [x] ∧ t'.seq.reds = t.seq.reds) ∧
          x.id = t.seq.nextId ∧ x.dest = gd.toNat ∧ x.va = (t.g ga).toNat ∧ x.rc = l.rc ∧ x.ack = rem ∧ (∃ p, x.parts = [p] ∧ p.place = l.place x.va ∧ p.n = e.2.2.2.1 / 8 ∧
            p.rc = l.rc ∧ p.sco = l.sco) ∧ x.kind = .atom a false 0 false 0 false ∧
          a.op = e.2.1 ∧ a.w = e.2.2.2.1 ∧ a.sx = e.2.2.2.2.1 ∧ a.b = (t.g gb).toNat % 2 ^ e.2.2.2.1 ∧ a.bp = t.gp gb ∧
          (e.2.1 = .cas → a.e = (t.g gd).toNat % 2 ^ e.2.2.2.1 ∧ a.ep = t.gp gd) ∧ a.redir = d ∧ a.red = e.2.2.2.2.2 ∧
          ((ord = 1 ∨ 3 ≤ ord.toNat) → ∃ b ∈ t'.seq.barriers, b.src = 8 ∧ b.dst = 8 ∧ b.readsOnly = true ∧ t.seq.seq < b.seq) ∧
          ((ord = 0 ∨ ord = 2) → t'.seq.barriers = t.seq.barriers) ∧
          (l.rc = false → t'.seq.pc = t.seq.pc + 4#64 ∧ t'.seq.ctl = { t.seq.ctl.counted with ackcnt := t.seq.ctl.ackcnt + b2n rem }) ∧
          (l.rc = true → t'.seq.pc = t.seq.pc ∧ t'.seq.ctl = { t.seq.ctl with ackcnt := t.seq.ctl.ackcnt + b2n rem } ∧ t'.seq.wait = .check x.id))))

/-- R320: the update of an atomic writes a word of its width with the value and the poison that the operator gives.
R110, R320, R322: ATOMIC_UPDATE of an atomic that nothing earlier holds back, at a frame whose slice performs it, records the old word with
its poison and the update's flags for the reply; ATOMIC_REPLY then writes the old value, extended as the AOP says, into gd of a returning
atomic, adds the flags to FPSTAT, takes off ACKCNT what it counted there and frees the entry; on an RC page the instruction retires with it. R326, R327: the old value of a reduction with a
redirect descriptor goes on its way to the target. R134: a race is raised precisely, with SRC 4, and the entry is gone. R328, R329: one on a page without a local frame leaves the
package, to the host when a tag is free.
The model's choice: the update happens in one step at the slice, or at once at a page that is not cached (log 8). -/
def Obligations.AtomicUpdate : Prop :=
  (∀ (a : Atom) (old : List PB), (a.w = 32 ∨ a.w = 64) → (a.op = .faddB2 → a.w = 32) → (a.op = .fadd32 → a.w = 32) → (a.op = .fadd64 → a.w = 64) →
    old.length = a.w / 8 → a.b < 2 ^ a.w → a.e < 2 ^ a.w →
    (a.apply old).length = a.w / 8 ∧ pbNat (a.apply old) = atomSpec a.op a.w (pbNat old) a.b a.e % 2 ^ a.w ∧
    ∀ x ∈ a.apply old, x.2 = match a.op with
      | .swap => a.bp
      | .cas => (decide (pbNat old = a.e) && a.bp) || pbPois old || a.ep
      | _ => pbPois old || a.bp) ∧
  ((∀ s sn t x a p pa fl rest r m, Runs s sn t → t.findAny s.agent.b = some x → x.kind = .atom a false 0 false fl false → x.parts = p :: rest →
    p.place = .frame pa → a.redir = none → t.atomBlocked x = false → t.barred (dieOfSn sn) x.seq 3 = false →
    s.mem.physAcc (t.who sn 3 x.rc x.id) .atomic pa p.n a.apply = .ok r m → r.passed = none →
    ∃ s' t', exec .atomicUpdate s = .next s' ∧ OnlyStrand (s.setMem m) s' sn t' ∧ RegsKept t t' ∧ t'.seq.pc = t.seq.pc ∧ t'.seq.ctl = t.seq.ctl ∧
      ∀ y ∈ t'.seq.loads ++ t'.seq.reds, y.id = x.id →
        y.kind = .atom a true (pbNat r.old) (pbPois r.old) (atomFlags a.op (pbNat r.old) a.b) false) ∧
  (∀ s sn t x a p fl rest, Runs s sn t → t.findAny s.agent.b = some x → x.kind = .atom a false 0 false fl false → x.parts = p :: rest →
    t.atomBlocked x = false → t.barred (dieOfSn sn) x.seq 3 = false →
    (∀ r m d, (∀ loc addr va, p.place ≠ .fwd loc addr va) → s.mem.at s.clock (t.who sn 3 x.rc x.id) .atomic p.place p.n a.apply = .ok r m → r.passed = none → a.redir = some d →
      ∃ s' t' z, exec .atomicUpdate s = .next s' ∧ OnlyStrand ({ s with mem := m, redirs := s.redirs ++ [z] } : State) s' sn t' ∧ RegsKept t t' ∧
        (∀ y ∈ t'.seq.loads ++ t'.seq.reds, y.id = x.id → y.kind = .atom a true (pbNat r.old) (pbPois r.old) (atomFlags a.op (pbNat r.old) a.b) false) ∧
        z.kinst = t.kinst ∧ z.tlin = (s.instOf t.kinst).lin (bitsOf d 40 8) (bitsOf d 48 8) ∧ z.dst = bitsOf d 0 20 ∧ z.obj = bitsOf d 20 20 ∧ z.w = a.w ∧
        z.val = pbNat r.old ∧ z.pois = pbPois r.old ∧ z.retry = none) ∧
    (∀ c m, (∀ loc addr va, p.place ≠ .fwd loc addr va) → s.mem.at s.clock (t.who sn 3 x.rc x.id) .atomic p.place p.n a.apply = .race c m → t.run = .running → Handles t →
      t.seq.trap.raised = [] → ∃ s' t', exec .atomicUpdate s = .next s' ∧ s'.strand? sn = some t' ∧ (∀ k, k ≠ sn → s'.strand? k = s.strand? k) ∧ s'.mem = m ∧
        RaceRaised t t' 4 3 x.va c ∧ t'.seq.loads = t.seq.loads.filter (fun y => decide (y.id ≠ x.id)) ∧
        t'.seq.reds = t.seq.reds.filter (fun y => decide (y.id ≠ x.id))) ∧
    (∀ loc addr va, p.place = .fwd loc addr va → allDone x.parts = false →
      (loc = 1 → 256 ≤ s.hostOps.length → exec .atomicUpdate s = .next s) ∧
      ((loc ≠ 1 ∨ s.hostOps.length < 256) → ∃ s' t', exec .atomicUpdate s = .next s' ∧ s'.strand? sn = some t' ∧ RegsKept t t' ∧ t'.seq.pc = t.seq.pc ∧
        s'.outs = s.outs ++ [.atomic (s.portFn loc (partOfSn sn)) loc addr a.op a.w (a.b, a.bp) (a.e, a.ep)] ∧
        s'.hostOps = (if loc = 1 then s.hostOps ++ [⟨sn, x.id, s.clock⟩] else s.hostOps) ∧
        ∃ y, t'.findAny s.agent.b = some y ∧ y.kind = x.kind ∧ y.dest = x.dest))) ∧
  (∀ s sn t x a old pois fl lk, Runs s sn t → t.findAny s.agent.b = some x → x.kind = .atom a true old pois fl lk → (a.w = 32 ∨ a.w = 64) →
    old < 2 ^ a.w → (x.rc = true → t.seq.trap.raised = []) → tblGet 0 t.seq.glat (BitVec.ofNat 5 x.dest).toNat = 0 →
    ∃ s' t', exec .atomicReply s = .next s' ∧ OnlyStrand s s' sn t' ∧
      (a.red = false → Wrote t t' (BitVec.ofNat 5 x.dest) (atomReturn a.w a.sx old) pois false) ∧ (a.red = true → RegsKept t t') ∧
      t'.seq.pc = (if x.rc = true then t.seq.pc + 4#64 else t.seq.pc) ∧
      t'.seq.ctl = { t.seq.ctl with fpstat := t.seq.ctl.fpstat ||| fl, ackcnt := t.seq.ctl.ackcnt - b2n x.ack,
                                    retired := t.seq.ctl.retired + if x.rc = true then 1 else 0 } ∧
      t'.seq.loads = t.seq.loads.filter (fun y => decide (y.id ≠ x.id)) ∧ t'.seq.reds = t.seq.reds.filter (fun y => decide (y.id ≠ x.id))))

/-- R110, R131, R304: an access at its home slice, in an entry of the schedule that admits its partition (R34), whose line is there, not held and unchecked, returns the line's old bytes; a write or an
atomic changes exactly its bytes, a read none, and every other byte of device memory reads as before, as does every bank; no two lines stand in
one way afterwards. -/
def Obligations.SliceHit : Prop :=
  ∀ (m : Mem) (w : Who) k pa n (f : List PB → List PB) l, LineWays m → m.admits w.part = true → m.setHeld (homeOfPa pa) (setOf (pa / 128)) = false → m.keyBars w.part pa = false →
    m.moveHolds pa = false → (∀ u ∈ m.unclr, u.2 ≠ pa / 65536 * 65536) → (∀ e ∈ m.edge, e.pa / 128 ≠ pa / 128) →
    m.findLine (homeOfPa pa) (pa / 128) = some l → l.data.length = 128 → pa % 128 + n ≤ 128 → w.checked = false →
    (∀ x, x.length = n → (f x).length = n) →
    ∃ r m', m.physAcc w k pa n f = .ok r m' ∧ r.old = m.peek pa n ∧ r.passed = none ∧ LineWays m' ∧ m'.banks = m.banks ∧ m'.bpois = m.bpois ∧
      ∀ q, m'.peekByte q = if k ≠ .read ∧ pa ≤ q ∧ q < pa + n then (f (m.peek pa n)).getD (q - pa) (0, false) else m.peekByte q

/-- R55, R57, R159, R177: an arithmetic operation of the FPU whose registers are not pending writes the rounded result of its sources to gd,
poisoned when a source is, adds the result's flags to FPSTAT and changes no other register; RMO 5 and 6 raise ILLEGAL.
R58, R178, R179: so do the selections, the sign operations, the comparisons and `fclass`, which never draw, and the conversions, which take the mode
of RMO and draw when they round stochastically, with the results of their functions.
R58, R178: of two numbers the selections return one, below or above the other, -0 below +0; of a number and a NaN the number, of two NaNs the
canonical one; the sign operations clear or flip the sign bit of a number; a comparison with a NaN gives 0, of numbers their order; `fclass` names one of
ten classes. R58, R179: a NaN converts to 0 with NV, an infinity to the nearest bound with NV and SAT, a zero to 0. -/
def Obligations.FpuResult : Prop :=
  (∀ s sn t gd ga (p : BitVec 1) (rm : BitVec 3), Runs s sn t → t.busy [gd, ga] = false →
    (∀ gb, t.pend gb = false → ∀ e ∈ fpuTable,
      (rm.toNat ≠ 5 ∧ rm.toNat ≠ 6 → FpuDone (e.1 gd ga gb p rm) s sn t gd
        (fpArith e.2.1 (fpuFormat p) (fpuMode t rm) t.seq.ctl.daz t.seq.ctl.ftz (fpuArg p (t.g ga))
          (fpuArg p (t.g gb)) (if e.2.2 then fpuArg p (t.g gd) else fpuArg p 0) (genNext (t.gen 0)).toNat)
        (t.gp ga || t.gp gb || (e.2.2 && t.gp gd))) ∧
      (rm.toNat = 5 ∨ rm.toNat = 6 → Handles t → RaisesInto (e.1 gd ga gb p rm) s sn t 0x01 0 0 (e.1 gd ga gb p rm).tval.toNat)) ∧
    (rm.toNat ≠ 5 ∧ rm.toNat ≠ 6 → FpuDone (.fsqrt gd ga p rm) s sn t gd
      (fpArith .sqrt (fpuFormat p) (fpuMode t rm) t.seq.ctl.daz t.seq.ctl.ftz (fpuArg p (t.g ga))
        (fpuArg p (t.g ga)) (fpuArg p 0) (genNext (t.gen 0)).toNat) (t.gp ga)) ∧
    (rm.toNat = 5 ∨ rm.toNat = 6 → Handles t → RaisesInto (.fsqrt gd ga p rm) s sn t 0x01 0 0 (Instr.fsqrt gd ga p rm).tval.toNat) ∧
    (∀ e ∈ fpuConvTable,
      (rm.toNat ≠ 5 ∧ rm.toNat ≠ 6 → FpuDone (e.1 gd ga p rm) s sn t gd
        (e.2 p t.seq.ctl.daz t.seq.ctl.ftz (fpuMode t rm) (t.g ga) (genNext (t.gen 0)).toNat) (t.gp ga)) ∧
      (rm.toNat = 5 ∨ rm.toNat = 6 → Handles t → RaisesInto (e.1 gd ga p rm) s sn t 0x01 0 0 (e.1 gd ga p rm).tval.toNat)) ∧
    (∀ e ∈ fpuOneTable, FpuDone (e.1 gd ga p) s sn t gd (e.2 (fpuFormat p) t.seq.ctl.daz (fpuArg p (t.g ga))) (t.gp ga)) ∧
    (∀ gb, t.pend gb = false → ∀ e ∈ fpuTwoTable,
      FpuDone (e.1 gd ga gb p) s sn t gd (e.2 (fpuFormat p) t.seq.ctl.daz (fpuArg p (t.g ga)) (fpuArg p (t.g gb))) (t.gp ga || t.gp gb))) ∧
  (∀ (p : BitVec 1) daz a b x y f, f = fpuFormat p → a < 2 ^ fpuWidth p → b < 2 ^ fpuWidth p → x = f.read daz a → y = f.read daz b →
    (x.isNaN = false → y.isNaN = false →
      (∃ r, (r = f.dazCode daz a ∨ r = f.dazCode daz b) ∧ fpMinMax false f daz a b = ⟨r, 0, false⟩ ∧
        belowVal x (f.decode r) = false ∧ belowVal y (f.decode r) = false) ∧
      (∃ r, (r = f.dazCode daz a ∨ r = f.dazCode daz b) ∧ fpMinMax true f daz a b = ⟨r, 0, false⟩ ∧
        belowVal (f.decode r) x = false ∧ belowVal (f.decode r) y = false) ∧
      fpCompare .eq f daz a b = (decide (cmpVal x y = 0), 0) ∧ fpCompare .lt f daz a b = (decide (cmpVal x y < 0), 0) ∧
      fpCompare .le f daz a b = (decide (cmpVal x y ≤ 0), 0)) ∧
    (x.isNaN = true → ∀ m, (fpMinMax m f daz a b).bits = (if y.isNaN then f.canonNaN else f.dazCode daz b) ∧
      (fpMinMax m f daz b a).bits = (if y.isNaN then f.canonNaN else f.dazCode daz b)) ∧
    (x.isNaN = true ∨ y.isNaN = true → ∀ c, (fpCompare c f daz a b).1 = false ∧
      (fpCompare c f daz a b).2 = (if c ≠ .eq ∨ x.isSig = true ∨ y.isSig = true then flNV else 0)) ∧
    (x.isNaN = false → fpSign true f daz a = ⟨f.dazCode daz a % 2 ^ (fpuWidth p - 1), 0, false⟩ ∧
      fpSign false f daz a = ⟨(f.dazCode daz a + 2 ^ (fpuWidth p - 1)) % 2 ^ fpuWidth p, 0, false⟩) ∧
    (x.isNaN = true → ∀ m, fpSign m f daz a = ⟨f.canonNaN, if x.isSig then flNV else 0, false⟩) ∧
    fpClass f daz a < 10 ∧
    (∀ rm rnd sg, (x.isNaN = true → fpToInt f daz rm 64 sg a rnd = ⟨0, flNV, false⟩) ∧
      (∀ n, x = .inf n → fpToInt f daz rm 64 sg a rnd =
        ⟨if sg then (if n then 2 ^ 63 else 2 ^ 63 - 1) else (if n then 0 else 2 ^ 64 - 1), flNV ||| flSAT, false⟩) ∧
      (∀ n e, x = .fin n 0 e → fpToInt f daz rm 64 sg a rnd = ⟨0, 0, false⟩)))

/-- R270, R272: the four instructions on an arrival object that they reach at once: `arrinit` sets TARGET and zeroes COUNT, FLAGS and
STATUS_CUR, keeping GEN; `arradd` arrives with the low 32 bits of gb; `arrwait` for another GEN than the object's retires; `arrpoll` reads GEN. An
address that is no multiple of 32 in the window raises ARRIVAL with DETAIL 0x20, of `arrpoll` as of the others; `arrinit` with a TARGET of 0 raises it with
DETAIL 0x21 and changes no byte of memory. The model's choice: `arrpoll` writes gd unpoisoned, and the TVAL of DETAIL 0x21 is free (log 46, log 39).
R270: an object with a TARGET completes (COUNT + amount) div TARGET phases and keeps the rest as COUNT; so two arrivals without status that do not
overflow COUNT leave the same COUNT, GEN and FLAGS as one of both amounts. An arrival is what the loop of R270 gives. -/
def Obligations.ArrivalResult : Prop :=
  (∀ s sn t ga gb, Runs s sn t → t.pend gb = false → t.gp gb = false →
    (∀ b, ArrReady s t ga b →
      (0 < (t.g gb).toNat % 2 ^ 32 → ∃ s', exec (.arrinit ga gb) s = .next s' ∧ ObjectIs s s' sn (t.retire 4) b (winOff (t.g ga).toNat)
        { s.mem.arrObj b (winOff (t.g ga).toNat) with target := (t.g gb).toNat % 2 ^ 32, count := 0, flags := 0, cur := 0 }) ∧
      (∃ s', exec (.arradd ga gb) s = .next s' ∧ ObjectIs s s' sn (t.retire 4) b (winOff (t.g ga).toNat)
        ((s.mem.arrObj b (winOff (t.g ga).toNat)).arrive ((t.g gb).toNat % 2 ^ 32) 0)) ∧
      ((s.mem.arrObj b (winOff (t.g ga).toNat)).gen ≠ (t.g gb).toNat % 2 ^ 16 → ∃ s', exec (.arrwait ga gb) s = .next s' ∧
        s'.strand? sn = some (t.retire 4) ∧ s'.mem = s.mem ∧ (s'.core (coreOfSn sn)).l1 = []) ∧
      (∀ gd, t.pend gd = false → ∃ s' t', exec (.arrpoll gd ga) s = .next s' ∧ s'.strand? sn = some t' ∧ s'.mem = s.mem ∧ RegsOnly t t' ∧
        Wrote t t' gd (BitVec.ofNat 64 (s.mem.arrObj b (winOff (t.g ga).toNat)).gen) false false ∧ t'.seq.pc = t.seq.pc + 4#64)) ∧
    (t.pend ga = false → t.gp ga = false → (inWindow (t.g ga).toNat = false ∨ (t.g ga).toNat % 32 ≠ 0) → Handles t →
      (∀ i ∈ [Instr.arrinit ga gb, Instr.arradd ga gb, Instr.arrwait ga gb], RaisesInto i s sn t 0x0A 0 0x20 (t.g ga).toNat) ∧
      ∀ gd, t.pend gd = false → RaisesInto (.arrpoll gd ga) s sn t 0x0A 0 0x20 (t.g ga).toNat) ∧
    (∀ b, ArrReady s t ga b → (t.g gb).toNat % 2 ^ 32 = 0 → Handles t → ∃ s' t' v, exec (.arrinit ga gb) s = .next s' ∧ s'.strand? sn = some t' ∧
      InHandler t t' 0x0A 0 0x21 v ∧ (∀ k, k ≠ sn → s'.strand? k = s.strand? k) ∧ { s'.mem with draws := s.mem.draws } = s.mem)) ∧
  (∀ (o : ArrObj) a b, 0 < o.target → o.target < 2 ^ 32 → o.count + a + b < 2 ^ 32 → o.gen < 2 ^ 16 →
    ((o.arrive a 0).arrive b 0).count = (o.arrive (a + b) 0).count ∧ ((o.arrive a 0).arrive b 0).gen = (o.arrive (a + b) 0).gen ∧
    ((o.arrive a 0).arrive b 0).flags = (o.arrive (a + b) 0).flags ∧
    (o.arrive a 0).count + o.target * ((o.arrive a 0).gen + 2 ^ 16 - o.gen) % (o.target * 2 ^ 16) = (o.count + a) % (o.target * 2 ^ 16)) ∧
  (∀ (o : ArrObj) amount status,
    (o.target = 0 → o.arrive amount status = { o with cur := stOr o.cur status, flags := stOr o.flags 2, count := min (o.count + amount) (2 ^ 32 - 1) }) ∧
    (0 < o.target → ∀ c, c = min (o.count + amount) (2 ^ 32 - 1) → o.arrive amount status =
      arrivePhases status c c { o with cur := stOr o.cur status, flags := if 2 ^ 32 - 1 < o.count + amount then stOr o.flags 1 else o.flags }))

/-- R189, R190: `ctxld` in IDLE of a block whose bytes it reads unpoisoned and accepts retires with the block in force: its control words, its
constants where KLD = 1, and its header; a poisoned byte raises POISON with DETAIL 2 and that byte's address. While a loop runs the block goes into the
shadow, or raises LOOP with DETAIL 4 and the PE whose flight check fails; a second `ctxld` waits while the shadow is full. A header that fails raises
ILLEGAL with DETAIL 2 and all ones, and a word that fails with its index.
The model's choice: how the flight check adds the results in flight of the two sets of words (log 46). -/
def Obligations.CtxldResult : Prop :=
  (∀ s sn t ga, Runs s sn t → t.pend ga = false → t.gp ga = false → t.arr.st ≠ .idle → t.arr.shadow ≠ none → exec (.ctxld ga) s = .next s) ∧
  ∀ s sn t ga h s1 data, Runs s sn t → t.pend ga = false → t.gp ga = false → (t.arr.st = .idle ∨ t.arr.shadow = none) →
    State.readRun sn t 1 s (t.g ga).toNat [] = .ok h s1 →
    State.readRun sn t ((if bitOf (pbNat h) 11 then 64 else 0) + 16 * (pbNat h % 64 + 1)) s1 ((t.g ga).toNat + 8) h = .ok data s1 → s1.strand? sn = some t →
    (pbPois data = false → t.hdrBad (CtxBlock.of (pbBytes data)).hdr = false →
      firstBad t.allot.nrg t.allot.tkn (hdrIi (CtxBlock.of (pbBytes data)).hdr) (CtxBlock.of (pbBytes data)).words = none →
      (t.arr.st = .idle → ∃ s', exec (.ctxld ga) s = .next s' ∧ OnlyStrand s1 s' sn ((t.applyBlock (CtxBlock.of (pbBytes data))).retire 4)) ∧
      (t.arr.st ≠ .idle → t.shadowPeak (CtxBlock.of (pbBytes data)) = none → ∃ s', exec (.ctxld ga) s = .next s' ∧
        OnlyStrand s1 s' sn (({ t with arr := { t.arr with shadow := some (CtxBlock.of (pbBytes data)) } } : Strand).retire 4)) ∧
      (∀ p, t.arr.st ≠ .idle → t.shadowPeak (CtxBlock.of (pbBytes data)) = some p → Handles t → ∃ s' t', exec (.ctxld ga) s = .next s' ∧
        OnlyStrand s1 s' sn t' ∧ InHandler t t' 0x0C 0 4 p)) ∧
    (pbPois data = false → t.hdrBad (CtxBlock.of (pbBytes data)).hdr = true → Handles t → ∃ s' t', exec (.ctxld ga) s = .next s' ∧
      OnlyStrand s1 s' sn t' ∧ InHandler t t' 0x01 0 2 (2 ^ 64 - 1)) ∧
    (∀ k, pbPois data = false → t.hdrBad (CtxBlock.of (pbBytes data)).hdr = false →
      firstBad t.allot.nrg t.allot.tkn (hdrIi (CtxBlock.of (pbBytes data)).hdr) (CtxBlock.of (pbBytes data)).words = some k → Handles t →
      ∃ s' t', exec (.ctxld ga) s = .next s' ∧ OnlyStrand s1 s' sn t' ∧ InHandler t t' 0x01 0 2 k) ∧
    (∀ k, (data.map (·.2)).idxOf? true = some k → Handles t → ∃ s' t', exec (.ctxld ga) s = .next s' ∧ OnlyStrand s1 s' sn t' ∧
      InHandler t t' 0x0D 0 2 (((t.g ga).toNat + k) % 2 ^ 64))

/-- R200, R205: `lpgo` whose channels the strand has and whose start checks pass starts the loop: RUN at row 0 of its header, the first
iteration valid in stage 0, and sets the token of channel SCH where SEN = 1; the first start check that fails, in the order of R200, raises LOOP: DETAIL 1
while a loop runs, 2 for a slot without a header, 5 for a reserved bit of an operand, 3 for a word whose STG is NSTG or more, 4 for a PE whose results in
flight exceed 8; a channel outside the allotment raises ILLEGAL; `lpstop` of a running loop sets EXIT; `lpstat` reads the
sequencer's state; `sqw` writes sq at once in IDLE and with the next wrap otherwise. -/
def Obligations.LoopResult : Prop :=
  ∀ s sn t ga gb, Runs s sn t → t.busy [ga, gb] = false →
    (∀ h, t.gp ga = false → t.gp gb = false → bitsOf (t.g gb).toNat 8 4 < t.allot.tkn →
      (bitOf (t.g gb).toNat 3 = true → bitsOf (t.g gb).toNat 4 4 < t.allot.tkn) →
      t.startBad (t.g ga).toNat (t.g gb).toNat = none → tblGet none t.arrx.hdrs (bitsOf (t.g gb).toNat 0 3) = some h →
      ∃ s' t', exec (.lpgo ga gb) s = .next s' ∧ OnlyStrand s s' sn t' ∧ RegsKept t t' ∧ t'.seq.pc = t.seq.pc + 4#64 ∧
        t'.seq.ctl = t.seq.ctl.counted ∧ t'.arr.st = .run ∧ t'.arr.row = 0 ∧ t'.arr.svm = 1 ∧ t'.arr.iter = 1 ∧ t'.arr.exit = false ∧
        t'.arr.trip = (t.g ga).toNat ∧ t'.arr.ii = bitsOf h 0 6 + 1 ∧ t'.arr.nstg = bitsOf h 8 3 + 1 ∧ t'.arr.ent = bitsOf h 16 6 ∧
        t'.arr.sen = bitOf (t.g gb).toNat 3 ∧ t'.arr.sch = bitsOf (t.g gb).toNat 4 4 ∧ t'.arr.fch = bitsOf (t.g gb).toNat 8 4 ∧
        t'.arr.frm = t.seq.ctl.rm ∧ (bitOf (t.g gb).toNat 3 = false → t'.tok = t.tok) ∧
        (bitOf (t.g gb).toNat 3 = true → t'.tok.testBit (bitsOf (t.g gb).toNat 4 4) = true ∧
          ∀ ch, ch ≠ bitsOf (t.g gb).toNat 4 4 → t'.tok.testBit ch = t.tok.testBit ch)) ∧
    (t.gp ga = false → t.gp gb = false → bitsOf (t.g gb).toNat 8 4 < t.allot.tkn →
      (bitOf (t.g gb).toNat 3 = true → bitsOf (t.g gb).toNat 4 4 < t.allot.tkn) → Handles t →
      (t.arr.st ≠ .idle → RaisesInto (.lpgo ga gb) s sn t 0x0C 0 1 0) ∧
      (t.arr.st = .idle → tblGet none t.arrx.hdrs (bitsOf (t.g gb).toNat 0 3) = none → RaisesInto (.lpgo ga gb) s sn t 0x0C 0 2 (bitsOf (t.g gb).toNat 0 3)) ∧
      (∀ h, t.arr.st = .idle → tblGet none t.arrx.hdrs (bitsOf (t.g gb).toNat 0 3) = some h →
        ((2 ^ 32 ≤ (t.g ga).toNat ∨ 2 ^ 12 ≤ (t.g gb).toNat) → RaisesInto (.lpgo ga gb) s sn t 0x0C 0 5 0) ∧
        ((t.g ga).toNat < 2 ^ 32 → (t.g gb).toNat < 2 ^ 12 →
          (∀ p e, p < 16 → e < bitsOf h 0 6 + 1 → bitsOf h 8 3 + 1 ≤ (t.cwAt p (bitsOf h 16 6 + e)).stg →
            (∀ q d, q < 16 → d < bitsOf h 0 6 + 1 → (q < p ∨ q = p ∧ d < e) → (t.cwAt q (bitsOf h 16 6 + d)).stg < bitsOf h 8 3 + 1) →
            RaisesInto (.lpgo ga gb) s sn t 0x0C 0 3 (64 * p + (bitsOf h 16 6 + e))) ∧
          ((∀ q d, q < 16 → d < bitsOf h 0 6 + 1 → (t.cwAt q (bitsOf h 16 6 + d)).stg < bitsOf h 8 3 + 1) → ∀ p, p < 16 →
            8 < inFlight (t.column p (bitsOf h 16 6) (bitsOf h 0 6 + 1)) →
            (∀ q, q < p → inFlight (t.column q (bitsOf h 16 6) (bitsOf h 0 6 + 1)) ≤ 8) → RaisesInto (.lpgo ga gb) s sn t 0x0C 0 4 p)))) ∧
    (t.gp ga = false → t.gp gb = false → Handles t → (t.allot.tkn ≤ bitsOf (t.g gb).toNat 8 4 ∨
        (bitOf (t.g gb).toNat 3 = true ∧ t.allot.tkn ≤ bitsOf (t.g gb).toNat 4 4)) → RaisesInto (.lpgo ga gb) s sn t 0x01 0 0 (Instr.lpgo ga gb).tval.toNat) ∧
    (∃ s' t', exec .lpstop s = .next s' ∧ OnlyStrand s s' sn t' ∧ RegsKept t t' ∧ t'.seq.pc = t.seq.pc + 4#64 ∧
      t'.arr.exit = (t.arr.exit || decide (t.arr.st = .run)) ∧ t'.arr.st = t.arr.st) ∧
    (∀ gd, t.pend gd = false → WritesAndRetires (.lpstat gd) s sn t gd (fun v => v = BitVec.ofNat 64 t.lpstat) false false) ∧
    (∃ s' t', exec (.sqw ga) s = .next s' ∧ OnlyStrand s s' sn t' ∧ RegsKept t t' ∧ t'.seq.pc = t.seq.pc + 4#64 ∧
      (t.arr.st = .idle → t'.arrx.sq = ⟨(t.g ga).setWidth 32, true, t.gp ga⟩ ∧ t'.arr = t.arr) ∧
      (t.arr.st ≠ .idle → t'.arr.sqp = some ⟨(t.g ga).setWidth 32, true, t.gp ga⟩ ∧ t'.arrx = t.arrx))

/-- R206, R207: `toksend` to a position of the footprint and `tokbc` to a subgroup send one token to each target and retire; `tokwait`
consumes the channel's token and retires; `tokpoll` reads and consumes it. A channel that the strand does not have raises ILLEGAL.
TOKEN_ARRIVE sets the channel of the target. -/
def Obligations.TokenResult : Prop :=
  (∀ s sn t ga (ch : BitVec 4), Runs s sn t → t.pend ga = false → t.gp ga = false → ch.toNat < t.allot.tkn →
    ((t.g ga).toNat < 2 ^ 16 → (t.g ga).toNat % 256 < (s.instOf t.kinst).w → (t.g ga).toNat / 256 < (s.instOf t.kinst).h →
      ∃ s', exec (.toksend ga ch) s = .next s' ∧ s'.strand? sn = some (t.retire 4) ∧
        s'.toks = s.toks ++ [⟨t.kinst, t.lin, (t.g ga).toNat / 256 * (s.instOf t.kinst).w + (t.g ga).toNat % 256, ch.toNat⟩] ∧ s'.mem = s.mem) ∧
    (∀ ls, Nat.land (t.g ga).toNat (2 ^ 64 - 1 - 0x7F37) = 0 →
      (s.instOf t.kinst).subgroup (bitsOf (t.g ga).toNat 0 3) (bitsOf (t.g ga).toNat 4 2) (bitsOf (t.g ga).toNat 8 7) = some ls →
      ∃ s', exec (.tokbc ga ch) s = .next s' ∧ s'.strand? sn = some (t.retire 4) ∧
        s'.toks = s.toks ++ ls.map (fun l => ⟨t.kinst, t.lin, l, ch.toNat⟩) ∧ s'.mem = s.mem) ∧
    (t.tok.testBit ch.toNat = true → ∃ s' t', exec (.tokwait ch) s = .next s' ∧ OnlyStrand s s' sn t' ∧ RegsKept t t' ∧
      t'.seq.pc = t.seq.pc + 4#64 ∧ t'.tok = t.tok - 2 ^ ch.toNat ∧ t'.seq.ctl = t.seq.ctl.counted) ∧
    (∀ gd, t.pend gd = false → ∃ s' t', exec (.tokpoll gd ch) s = .next s' ∧ OnlyStrand s s' sn t' ∧ t'.seq.pc = t.seq.pc + 4#64 ∧
      t'.tok = (if t.tok.testBit ch.toNat then t.tok - 2 ^ ch.toNat else t.tok) ∧
      Wrote t t' gd (if t.tok.testBit ch.toNat then 1 else 0) false false)) ∧
  (∀ s sn t gd ga (ch : BitVec 4), Runs s sn t → t.allot.tkn ≤ ch.toNat → Handles t →
    ∀ i ∈ [Instr.toksend ga ch, .tokbc ga ch, .tokwait ch, .tokpoll gd ch], RaisesInto i s sn t 0x01 0 0 i.tval.toNat) ∧
  (∀ s x tn u, s.toks[s.agent.a]? = some x → (∀ y ∈ s.toks.take s.agent.a, y ≠ x) → s.snOf x.kinst x.tlin = some tn → s.strand? tn = some u →
    x.ch < u.allot.tkn → ∃ s' u', exec .tokenArrive s = .next s' ∧ s'.strand? tn = some u' ∧ u'.tok.testBit x.ch = true ∧
      s'.toks = s.toks.eraseIdx s.agent.a ∧ u'.seq = u.seq)

/-- R265: `bl1` of a scratch slot and `bscr` of an L1 slot, attached, unlocked and named by no live ring, start the drain; when it is over BANK_MODE_SET
sets the mode, `bscr` zeroing the bank, and empties the core's L1; BSCR_ZERO_DONE ends the zeroing. A slot already in the mode retires at once. -/
def Obligations.BankModeResult : Prop :=
  ∀ s sn t, Runs s sn t →
    (∀ n : BitVec 4, t.seq.wait = .none → t.slotFixed s.mem n.toNat = false → (t.slot n.toNat).zero = false → n.toNat < t.allot.nsl →
      t.seq.slots.length = 16 →
      ((t.slot n.toNat).l1 = true → RetiresTo (.bl1 n) s sn t (t.seq.pc + 4#64) ∧
        ∃ s' t', exec (.bscr n) s = .next s' ∧ OnlyStrand s s' sn t' ∧ t'.seq.wait = .drain n.toNat 2 ∧ (t'.slot n.toNat).draining = true ∧ RegsKept t t') ∧
      ((t.slot n.toNat).l1 = false → RetiresTo (.bscr n) s sn t (t.seq.pc + 4#64) ∧
        ∃ s' t', exec (.bl1 n) s = .next s' ∧ OnlyStrand s s' sn t' ∧ t'.seq.wait = .drain n.toNat 1 ∧ (t'.slot n.toNat).draining = true ∧ RegsKept t t')) ∧
    (∀ i c b, t.seq.wait = .drain i c → t.run = .running → t.drained i = true → i < t.allot.nsl → t.seq.slots.length = 16 → i < 16 →
      (t.slot i).bank = some b → (c = 1 ∨ c = 2) →
      ∃ s' t', exec .bankModeSet s = .next s' ∧ s'.strand? sn = some t' ∧ (t'.slot i).l1 = decide (c = 1) ∧ (t'.slot i).bank = some b ∧
        t'.seq.pc = t.seq.pc + 4#64 ∧ RegsKept t t' ∧ (s'.core (coreOfSn sn)).l1 = [] ∧
        (c = 2 → (∀ o, o < 65536 → s'.mem.bankByte b o = (0, false))) ∧ (∀ d o, o < 65536 → d ≠ b → s'.mem.bankByte d o = s.mem.bankByte d o)) ∧
    ((t.slot s.agent.b).zero = true → s.agent.b < 16 → t.seq.slots.length = 16 → ∃ s' t', exec .bscrZeroDone s = .next s' ∧ OnlyStrand s s' sn t' ∧
      (t'.slot s.agent.b).zero = false ∧ (t'.slot s.agent.b).draining = false ∧ RegsKept t t' ∧ t'.seq.pc = t.seq.pc)

/-- R266, R267: a `give` of an attached, unlocked scratch bank that no live ring names, to a core of the footprint, starts its drain; when that and its
release are over, GIVE_ATTACH moves the bank to the target's empty slot, leaves the giver's slot empty, retires the `give`, and arrives with
65,536 at the object. An empty slot raises DETACHED. -/
def Obligations.GiveResult : Prop :=
  (∀ s sn t ga gb, Runs s sn t → t.busy [ga, gb] = false → t.gp ga = false → t.gp gb = false → t.seq.wait = .none → bitsOf (t.g ga).toNat 12 52 = 0 →
    arrAligned (t.g gb).toNat = true →
    (t.slotFixed s.mem (bitsOf (t.g ga).toNat 0 4) = false → (t.slot (bitsOf (t.g ga).toNat 0 4)).l1 = false →
      (t.slot (bitsOf (t.g ga).toNat 0 4)).zero = false → ((s.instOf t.kinst).linOf (giveCore sn (t.g ga).toNat)).isSome = true →
      ∃ s' t', exec (.give ga gb) s = .next s' ∧ OnlyStrand s s' sn t' ∧ RegsKept t t' ∧ t'.seq.wait = .drain (bitsOf (t.g ga).toNat 0 4) 0 ∧
        t'.seq.pc = t.seq.pc) ∧
    ((t.slot (bitsOf (t.g ga).toNat 0 4)).bank = none → Handles t →
      RaisesInto (.give ga gb) s sn t 0x03 0 0 (slotAddr (bitsOf (t.g ga).toNat 0 4)))) ∧
  (∀ s sn t i q ga gb lin tn u b c, Runs s sn t → t.seq.wait = .attach i q ga gb → t.run = .running → s.relDone sn q = true →
    (s.instOf t.kinst).linOf (giveCore sn ga) = some lin → s.snOf t.kinst lin = some tn → tn ≠ sn → s.strand? tn = some u → u.run = .running →
    bitsOf ga 8 4 < u.allot.nsl → u.seq.slots.length = 16 → t.seq.slots.length = 16 → i < t.allot.nsl → i < 16 → (u.slot (bitsOf ga 8 4)).bank = none →
    (t.slot i).bank = some b →
    (if winSlot gb = bitsOf ga 8 4 then c = b ∧ s.mem.bankLocked b = false else s.mem.openSlot u (winSlot gb) = some c) →
    ∃ s' t' u', exec .giveAttach s = .next s' ∧ s'.strand? sn = some t' ∧ s'.strand? tn = some u' ∧ (t'.slot i).bank = none ∧
      (u'.slot (bitsOf ga 8 4)).bank = some b ∧ t'.seq.pc = t.seq.pc + 4#64 ∧ RegsKept t t' ∧ RegsKept u u' ∧
      s'.mem.banks = (s.mem.arrive c (winOff gb) 65536 0).banks)

/-- R273, R275, R276: the ring instructions on a ring of the strand: `rgpush` reserves and lands the next tile, `rgpop` moves HEAD past one, `rgoff` turns the
ring off, `rgstat` reads its tiles; a ring that is not live raises RING with DETAIL 2, a full push or an empty pop with DETAIL 4, and a ring
number outside the allotment ILLEGAL.
R276, R277: `rgld` of 16 unpoisoned bytes that R277 accepts puts that descriptor in the ring; a value it does not accept raises RING with
DETAIL 3; `rgsv` to a window address that one slot serves enters the descriptor's 16 bytes in the store buffer. -/
def Obligations.RingResult : Prop :=
  (∀ s sn t (n : BitVec 4), Runs s sn t →
    (n.toNat < t.allot.nrg →
      ((t.ring n.toNat).live = true → t.windowStores = false → (t.ring n.toNat).full = false →
        ∃ s' t', exec (.rgpush n) s = .next s' ∧ OnlyStrand s s' sn t' ∧ RegsKept t t' ∧ t'.seq.pc = t.seq.pc + 4#64 ∧
          ((t.ring n.toNat).resv = [] → t'.ring n.toNat = { t.ring n.toNat with tail := ((t.ring n.toNat).tail + 1) % 2 ^ ((t.ring n.toNat).logn + 1) }) ∧
          ∀ k, k ≠ n.toNat → t'.ring k = t.ring k) ∧
      ((t.ring n.toNat).live = true → t.loadsUndone = false → (t.ring n.toNat).held ≠ 0 →
        ∃ s' t', exec (.rgpop n) s = .next s' ∧ OnlyStrand s s' sn t' ∧ RegsKept t t' ∧ t'.seq.pc = t.seq.pc + 4#64 ∧
          t'.ring n.toNat = { t.ring n.toNat with head := ((t.ring n.toNat).head + 1) % 2 ^ ((t.ring n.toNat).logn + 1), cur := 0 } ∧
          ∀ k, k ≠ n.toNat → t'.ring k = t.ring k) ∧
      (s.ringUsed sn t n.toNat = false → ∃ s' t', exec (.rgoff n) s = .next s' ∧ OnlyStrand s s' sn t' ∧ RegsKept t t' ∧
        t'.seq.pc = t.seq.pc + 4#64 ∧ (t'.ring n.toNat).live = false ∧ ∀ k, k ≠ n.toNat → t'.ring k = t.ring k) ∧
      (∀ gd, t.pend gd = false → WritesAndRetires (.rgstat gd n) s sn t gd (fun v => v = BitVec.ofNat 64 ((t.ring n.toNat).held +
        (t.ring n.toNat).head * 2 ^ 16 + (t.ring n.toNat).tail * 2 ^ 32 + (if (t.ring n.toNat).live then 2 ^ 63 else 0))) false false) ∧
      (Handles t → ((t.ring n.toNat).live = false → RaisesInto (.rgpush n) s sn t 0x09 0 2 n.toNat ∧ RaisesInto (.rgpop n) s sn t 0x09 0 2 n.toNat) ∧
        ((t.ring n.toNat).live = true → t.windowStores = false → (t.ring n.toNat).full = true → RaisesInto (.rgpush n) s sn t 0x09 0 4 n.toNat) ∧
        ((t.ring n.toNat).live = true → t.loadsUndone = false → (t.ring n.toNat).held = 0 → RaisesInto (.rgpop n) s sn t 0x09 0 4 n.toNat))) ∧
    (t.allot.nrg ≤ n.toNat → Handles t → ∀ gd ga, ∀ i ∈ [Instr.rgld ga n, .rgsv ga n, .rgoff n, .rgpush n, .rgpop n, .rgstat gd n],
      RaisesInto i s sn t 0x01 0 0 i.tval.toNat)) ∧
  (∀ s sn t ga (n : BitVec 4), Runs s sn t → n.toNat < t.allot.nrg → t.pend ga = false → t.gp ga = false → s.ringUsed sn t n.toNat = false →
    (∀ data s1, State.readRun sn t 2 s (t.g ga).toNat [] = .ok data s1 → s1.strand? sn = some t → pbPois data = false →
      (ringAccepts t.allot.nrg n.toNat (pbNat data) = true → ∃ s' t', exec (.rgld ga n) s = .next s' ∧ OnlyStrand s1 s' sn t' ∧ RegsKept t t' ∧
        t'.seq.pc = t.seq.pc + 4#64 ∧ t'.ring n.toNat = Ring.ofWord (pbNat data) ∧ ∀ k, k ≠ n.toNat → t'.ring k = t.ring k) ∧
      (ringAccepts t.allot.nrg n.toNat (pbNat data) = false → Handles t → ∃ s' t', exec (.rgld ga n) s = .next s' ∧ OnlyStrand s1 s' sn t' ∧
        InHandler t t' 0x09 0 3 n.toNat)) ∧
    (∀ b, t.seq.stores.countP (fun x => !x.arr) < 15 → t.seq.ctl.ackcnt ≤ 1024 → inWindow (t.g ga).toNat = true → winOff (t.g ga).toNat + 16 ≤ 65536 →
      Serves s.mem t (winSlot (t.g ga).toNat) b →
      ∃ s' t' x, exec (.rgsv ga n) s = .next s' ∧ OnlyStrand s s' sn t' ∧ RegsKept t t' ∧ t'.seq.pc = t.seq.pc + 4#64 ∧
        t'.seq.stores = t.seq.stores ++ [x] ∧ pbNat (partBytes x.parts) = (t.ring n.toNat).word % 2 ^ 128))

/-- R109, R332-R335: `l1inv` empties the core's L1 and retires; `discard` and `wback` of an empty range retire, and of a range that is no whole number of
lines raise ATOM_ALIGN with its address; `pin` and `unpin` of a page that translates enter the load table with gd pending, and with code 3 at
once when the page is not eligible.
R333, R334: `discard` of a range whose pages translate, nothing holding it back, completes: no line of the range remains, in a slice or in L1, and, with
the edge caches empty, none is written back and none added; `wback` of such a range completes and leaves the dirty lines of its backed parts in place,
clean, with their bytes in device memory. A page that is unbacked has its backed parts named in a range of one page.
The model's choice: a range is dropped or written back in one step (log 8). -/
def Obligations.CacheResult : Prop :=
  (∀ s sn t ga gb, Runs s sn t →
    (∃ s', exec .l1inv s = .next s' ∧ s'.strand? sn = some (t.retire 4) ∧ s'.mem = s.mem ∧ (s'.core (coreOfSn sn)).l1 = [] ∧
      ∀ k, k ≠ coreOfSn sn → s'.core k = s.core k) ∧
    (t.busy [ga, gb] = false → t.gp ga = false → t.gp gb = false → ∀ i ∈ [Instr.discard ga gb, Instr.wback ga gb],
      ((t.g gb).toNat = 0 → RetiresTo i s sn t (t.seq.pc + 4#64)) ∧
      (Handles t → (t.g gb).toNat ≠ 0 → ((t.g ga).toNat % 128 ≠ 0 ∨ (t.g gb).toNat % 128 ≠ 0) → RaisesInto i s sn t 0x12 0 0 (t.g ga).toNat)) ∧
    (∀ gd l m, t.busy [gd, ga] = false → t.gp ga = false → inWindow (t.g ga).toNat = false → t.loadFull = false →
      s.mem.page (coreOfSn sn) (partOfSn sn) (t.g ga).toNat .r = (.ok l, m) → ∀ u,
      ∃ s' t' x, exec (if u then .unpin gd ga else .pin gd ga) s = .next s' ∧ OnlyStrand (s.setMem m) s' sn t' ∧
        t'.seq.loads = t.seq.loads ++ [x] ∧ x.dest = gd.toNat ∧ x.id = t.seq.nextId ∧
        (l.rc = false → t'.seq.pc = t.seq.pc + 4#64 ∧ (∀ r : Reg, t'.g r = t.g r ∧ t'.pend r = (decide (r = gd ∧ r ≠ 0) || t.pend r)) ∧
          (l.pinEl = false → x.kind = .pin u true (some 3))) ∧
        (l.rc = true → RegsKept t t' ∧ t'.seq.pc = t.seq.pc ∧ t'.seq.wait = .check x.id) ∧
        (l.pinEl = true → l.ub = false → l.loc = 0 → x.kind = .pin u false none))) ∧
  (∀ s sn t ga gb ls m, Runs s sn t → t.busy [ga, gb] = false → t.gp ga = false → t.gp gb = false → (t.g gb).toNat ≠ 0 →
    rangeOk (t.g ga).toNat (t.g gb).toNat = true → t.barred (dieOfSn sn) t.seq.seq 3 = false → s.admits (partOfSn sn) = true → t.atBehind ls = false →
    m.rangeHeld (partOfSn sn) ls = false → ∀ fs, fs = ls.filterMap (fun x => (m.frameOf (partOfSn sn) x.1 x.2.1).map (fun pa => (pa, x.2.2))) →
    (Mem.rangeCheck (coreOfSn sn) (partOfSn sn) .w false (t.g ga).toNat s.mem (rangePages (t.g ga).toNat (t.g gb).toNat) = (.ok ls, m) →
      m.framesHeld false fs = false →
      ∃ s', exec (.discard ga gb) s = .next s' ∧ s'.strand? sn = some (t.retire 4) ∧ s'.mem.banks = m.banks ∧
        (m.edge = [] → s'.mem.dram = m.dram ∧ ∀ l ∈ s'.mem.lines, l ∈ m.lines) ∧
        (∀ x ∈ ls, (∀ pa, m.frameOf (partOfSn sn) x.1 x.2.1 = some pa →
            (∀ y ∈ (s'.core (coreOfSn sn)).l1, 128 * y.name < pa ∨ pa + x.2.2 ≤ 128 * y.name) ∧
            (x.1.ub = false ∨ ls = [x] → ∀ k ∈ s'.mem.lines, k.unb = false → 128 * k.name < pa ∨ pa + x.2.2 ≤ 128 * k.name)) ∧
          (x.1.ub = true → ∀ k ∈ s'.mem.lines, k.unb = true → k.part = partOfSn sn → k.vpart = bitsOf x.2.1 12 36 →
            k.name < bitsOf x.2.1 7 32 ∨ bitsOf x.2.1 7 32 + x.2.2 / 128 ≤ k.name))) ∧
    (Mem.rangeCheck (coreOfSn sn) (partOfSn sn) .r true (t.g ga).toNat s.mem (rangePages (t.g ga).toNat (t.g gb).toNat) = (.ok ls, m) →
      m.framesHeld true fs = false →
      ∃ s', exec (.wback ga gb) s = .next s' ∧ s'.strand? sn = some (t.retire 4) ∧ s'.mem.banks = m.banks ∧
        ∀ x ∈ ls, x.1.ub = false ∨ ls = [x] → ∀ pa, m.frameOf (partOfSn sn) x.1 x.2.1 = some pa →
          (∀ k ∈ s'.mem.lines, k.unb = false → pa ≤ 128 * k.name → 128 * k.name < pa + x.2.2 → k.dirty = false) ∧
          (LineWays m → m.edge = [] → (∀ j ∈ m.lines, j.data.length = 128) → ∀ k ∈ m.lines, k.unb = false → k.dirty = true → pa ≤ 128 * k.name → 128 * k.name < pa + x.2.2 →
            (∀ j ∈ m.lines, j.unb = false → j.name = k.name → j = k) → (∀ h, h < 2 → m.offline (128 * k.name + 64 * h) = false ∧
              m.keysAt (128 * k.name + 64 * h) = []) →
            (∃ c ∈ s'.mem.lines, { c with dirty := k.dirty, stamp := k.stamp } = k ∧ c.dirty = false) ∧ ∀ i, i < 128 → tblGet 0 s'.mem.dram (128 * k.name + i) = (k.data.getD i (0, false)).1)))

/-- R297: `unpost` writes 1 and drops the receive whose handle it names, or writes 0; `post` of legal values with no matching overflow entry and a
free entry of the core writes a handle below 32 that no receive of the strand has, and registers the receive; illegal values raise ILLEGAL. -/
def Obligations.PostResult : Prop :=
  ∀ s sn t gd ga gb, Runs s sn t → t.busy [gd, ga, gb] = false → t.gp ga = false → t.gp gb = false →
    ((t.g ga).toNat < 32 → ∃ s' t', exec (.unpost gd ga) s = .next s' ∧ OnlyStrand s s' sn t' ∧ t'.seq.pc = t.seq.pc + 4#64 ∧
      Wrote t t' gd (if ∃ r ∈ t.str.posts, r.handle = (t.g ga).toNat then 1 else 0) false false ∧
      t'.str.posts = t.str.posts.filter (fun r => decide (r.handle ≠ (t.g ga).toNat)) ∧ t'.str.ovfs = t.str.ovfs) ∧
    (32 ≤ (t.g ga).toNat → Handles t → RaisesInto (.unpost gd ga) s sn t 0x01 0 0 (Instr.unpost gd ga).tval.toNat) ∧
    (recvOf (t.g ga).toNat (t.g gb).toNat = none → Handles t → RaisesInto (.post gd ga gb) s sn t 0x01 0 0 (Instr.post gd ga gb).tval.toNat) ∧
    (∀ r, recvOf (t.g ga).toNat (t.g gb).toNat = some r → (∀ o ∈ t.str.ovfs, r.matches o.sx o.sy o.tag = false) →
      ((s.onCore (coreOfSn sn)).map (fun v => v.str.posts.length)).sum < 32 →
      ∃ s' t' h, exec (.post gd ga gb) s = .next s' ∧ OnlyStrand s s' sn t' ∧ t'.seq.pc = t.seq.pc + 4#64 ∧ Wrote t t' gd (BitVec.ofNat 64 h) false false ∧
        t'.str.posts = t.str.posts ++ [{ r with handle := h }] ∧ (t.str.posts.length < 32 → h < 32 ∧ ∀ x ∈ t.str.posts, x.handle ≠ h))

/-- R268, R294, R296, R298: a chunk that is first of its sender to a running target whose slots are open lands with exactly its bytes and leaves the
way; a message to a running strand with no matching receive, and room in the core's overflow queue, is queued there and answered.
R296: the answer takes one off the answers that the sender's `send` awaits, and adds POISON to its status when the payload was poisoned.
R294, R296, R327: a refused chunk of a running sender or redirected value whose 256 ck have passed is tried again, and not before; when every target of a `send` has
answered, gd takes the gathered status and the entry is free.
The model's choice: a chunk, message or value on its way is an entry of the state that lands in a step of its own (log 2). -/
def Obligations.ArrivalsFromOthers : Prop :=
  ((∀ s (c : Chunk) tn u b, s.chunks[s.agent.a]? = some c → c.retry = none → chunkFirst s.chunks s.agent.a c = true → s.snOf c.kinst c.tlin = some tn →
    s.strand? tn = some u → u.run = .running → (u.slot (c.off / 65536)).draining = false → c.obj = 0 → s.mem.openSlot u (c.off / 65536) = some b →
    c.off % 65536 + c.data.length ≤ 65536 →
    ∃ s', exec .deliveryChunk s = .next s' ∧ s'.chunks = s.chunks.eraseIdx s.agent.a ∧
      (∀ d q, q < 65536 → s'.mem.bankByte d q =
        if d = b ∧ c.off % 65536 ≤ q ∧ q < c.off % 65536 + c.data.length then c.data.getD (q - c.off % 65536) (0, false) else s.mem.bankByte d q) ∧
      (∀ pa, s'.mem.peekByte pa = s.mem.peekByte pa)) ∧
  (∀ s (x : Msg) tn u, s.msgs[s.agent.a]? = some x → x.retry = none → msgFirst s.msgs s.agent.a x = true → s.snOf x.kinst x.tlin = some tn →
    s.strand? tn = some u → u.run = .running →
    (∀ r ∈ u.str.posts, r.matches (x.slin % (s.instOf x.kinst).w) (x.slin / (s.instOf x.kinst).w) x.tag = false) →
    ((s.onCore (coreOfSn tn)).map (fun v => v.str.ovfs.length)).sum < 32 →
    ∃ s' u' o, exec .messageArrive s = .next s' ∧ s'.msgs = s.msgs.eraseIdx s.agent.a ∧ s'.strand? tn = some u' ∧ u'.str.ovfs = u.str.ovfs ++ [o] ∧
      o.sx = x.slin % (s.instOf x.kinst).w ∧ o.sy = x.slin / (s.instOf x.kinst).w ∧ o.tag = x.tag ∧ o.data = x.data ∧ s'.mem = s.mem ∧
      (∀ vn v a n st, s.snOf x.kinst x.slin = some vn → s.strand? vn = some v → v.seq.loads.find? (fun y => decide (y.id = x.acc)) = some a →
        a.kind = .send (n + 1) st → ∃ v', s'.strand? vn = some v' ∧
          v'.seq.loads.find? (fun y => decide (y.id = x.acc)) = some { a with kind := .send n (stOr st (if x.data.any (·.2) then 1 else 0)) }))) ∧
  ((∀ s (c : Chunk) k vn v, s.chunks[s.agent.a]? = some c → c.retry = some k → s.snOf c.kinst c.slin = some vn → s.strand? vn = some v → v.run = .running →
    ∃ s', exec .deliveryRetry s = .next s' ∧ s'.chunks[s.agent.a]? = some { c with retry := if k ≤ s.clock then none else some k } ∧
      s'.chunks.length = s.chunks.length ∧ s'.mem = s.mem ∧ s'.strands = s.strands) ∧
  (∀ s (r : Redir) k, s.redirs[s.agent.a]? = some r → r.retry = some k →
    ∃ s', exec .redirectRetry s = .next s' ∧ s'.redirs[s.agent.a]? = some { r with retry := if k ≤ s.clock then none else some k } ∧
      s'.redirs.length = s.redirs.length ∧ s'.mem = s.mem ∧ s'.strands = s.strands) ∧
  (∀ s sn t a st, Runs s sn t → t.seq.loads.find? (fun x => decide (x.id = s.agent.b)) = some a → a.kind = .send 0 st →
    tblGet 0 t.seq.glat (BitVec.ofNat 5 a.dest).toNat = 0 →
    ∃ s' t', exec .sendCompletion s = .next s' ∧ OnlyStrand s s' sn t' ∧ Wrote t t' (BitVec.ofNat 5 a.dest) (BitVec.ofNat 64 st) false false ∧
      t'.seq.loads = t.seq.loads.filter (fun x => decide (x.id ≠ a.id)) ∧ t'.seq.pc = t.seq.pc))

/-- R327: a redirected value, first from its slice to a running target whose slots for it and its object are attached, unlocked and not draining,
writes its bytes there, arrives with 1 at the object and leaves the way; it is refused for 256 ck where the target is not running.
R73, R329: the completion of a host atomic frees its tag and records the old value, with its poison, for the reply; one that failed, or that never came, records a
poisoned zero and is reported to the front end. -/
def Obligations.RedirectHostAtomic : Prop :=
  (∀ s (r : Redir) tn u, s.redirs[s.agent.a]? = some r → r.retry = none → redirFirst s.redirs s.agent.a r = true → (s.inst? r.kinst).isSome = true →
    s.snOf r.kinst r.tlin = some tn → s.strand? tn = some u →
    (u.run = .running → ∀ b c, Serves s.mem u (r.dst / 65536) b → Serves s.mem u (r.obj / 65536) c → (u.slot (r.dst / 65536)).zero = false →
      (u.slot (r.obj / 65536)).zero = false →
      ∃ s', exec .redirectLand s = .next s' ∧ s'.redirs = s.redirs.eraseIdx s.agent.a ∧
        s'.mem = (s.mem.bankWrite b (r.dst % 65536) (pbOf (r.w / 8) r.val r.pois)).arrive c (r.obj % 65536) 1 r.status) ∧
    (u.run ≠ .running → ∃ s', exec .redirectLand s = .next s' ∧ s'.redirs[s.agent.a]? = some { r with retry := some (s.clock + 256) } ∧
      s'.mem = s.mem ∧ s'.strands = s.strands)) ∧
  (∀ s k (h : HostOp) t x a fl p, s.hostOps[k]? = some h → s.strand? h.sn = some t → t.findAny h.acc = some x → x.kind = .atom a false 0 false fl false →
    a.redir = none → x.parts = [p] →
    (∀ (old : BitVec 64) op, ∃ s' t', exec (.hostAtomicCompletion k true (old, op)) s = .next s' ∧ s'.hostOps = s.hostOps.eraseIdx k ∧ s'.strand? h.sn = some t' ∧
      RegsKept t t' ∧ (∀ y ∈ t'.seq.loads, y.id = x.id →
        y.kind = .atom a true (old.toNat % 2 ^ a.w) op (atomFlags a.op (old.toNat % 2 ^ a.w) a.b) false) ∧ s'.mem = s.mem) ∧
    (∀ old, ∃ s' t', exec (.hostAtomicCompletion k false old) s = .next s' ∧ s'.hostOps = s.hostOps.eraseIdx k ∧ s'.strand? h.sn = some t' ∧
      (∀ y ∈ t'.seq.loads, y.id = x.id → y.kind = .atom a true 0 true 0 true) ∧ Report.portalError h.sn ∈ s'.mem.reports) ∧
    (s.agent.a = k → ∃ s' t', exec .completionTimeout s = .next s' ∧ s'.hostOps = s.hostOps.eraseIdx k ∧ s'.strand? h.sn = some t' ∧
      (∀ y ∈ t'.seq.loads, y.id = x.id → y.kind = .atom a true 0 true 0 true) ∧ Report.portalError h.sn ∈ s'.mem.reports))

/-- R355, R359: `shq` of v below 2^16 writes S(n0 + v) with the kind in bits 63 and 62, else raises ILLEGAL; `shspan` writes the ck until the drain of
the next shutter; `shwait` fixes the next shutter at issue and retires once that shutter has ended.
R355, R356, R357: the course of shutter n0: its drain from 252 ck before S(n0) stops device-memory requests; it begins at S(n0) once drained; at its
nominal end it ends and the next is to come, itself overrun and reported when its own nominal end has passed, or, work undone, it overruns, which is
reported once. Before these times nothing happens. -/
def Obligations.ShutterResult : Prop :=
  (∀ s sn t gd ga, Runs s sn t → t.busy [gd, ga] = false →
    (t.gp ga = false → (t.g ga).toNat < 2 ^ 16 → WritesAndRetires (.shq gd ga) s sn t gd (fun v => v = BitVec.ofNat 64
      (8190 * (s.mem.shut.n0 + (t.g ga).toNat) + 2 ^ 62 * (if (s.mem.shut.n0 + (t.g ga).toNat) % 256 = 0 then 1
        else if (s.mem.shut.n0 + (t.g ga).toNat) % 25600 = 128 then 2 else 0))) false false) ∧
    (t.gp ga = false → 2 ^ 16 ≤ (t.g ga).toNat → Handles t → RaisesInto (.shq gd ga) s sn t 0x01 0 0 (Instr.shq gd ga).tval.toNat) ∧
    WritesAndRetires (.shspan gd) s sn t gd (fun v => v = BitVec.ofNat 64 (8190 * s.mem.shut.n0 - 252 - s.clock)) false false ∧
    (t.seq.wait = .none → ∃ s', exec .shwait s = .next s' ∧ OnlyStrand s s' sn (t.setWait (.shutter s.mem.shut.n0))) ∧
    (∀ n, t.seq.wait = .shutter n → (n < s.mem.shut.n0 → RetiresTo .shwait s sn t (t.seq.pc + 4#64)) ∧
      (s.mem.shut.n0 ≤ n → exec .shwait s = .next s))) ∧
  (∀ s : State,
    (8190 * s.mem.shut.n0 ≤ s.clock + 252 → ∃ s', exec .shutterDrain s = .next s' ∧ s'.mem.shut = { s.mem.shut with drained := true } ∧
      (∀ pa, s'.mem.devOpen pa = false) ∧ s'.strands = s.strands) ∧
    (s.clock + 252 < 8190 * s.mem.shut.n0 → exec .shutterDrain s = .next s) ∧
    (8190 * s.mem.shut.n0 ≤ s.clock → s.mem.shut.drained = true → ∃ s', exec .shutterBegin s = .next s' ∧
      s'.mem.shut = { s.mem.shut with begun := true } ∧ s'.strands = s.strands) ∧
    (s.clock < 8190 * s.mem.shut.n0 → exec .shutterBegin s = .next s) ∧
    (s.clock < shutterStart s.mem.shut.n0 + shutterLen s.mem.shut.n0 → exec .shutterEnd s = .next s ∧ exec .shutterOverrun s = .next s) ∧
    (s.mem.shut.begun = true → shutterStart s.mem.shut.n0 + shutterLen s.mem.shut.n0 ≤ s.clock →
      (∃ s', exec .shutterEnd s = .next s' ∧ s'.mem.shut.n0 = s.mem.shut.n0 + 1 ∧
        s'.mem.shut.overrun = decide (8190 * (s.mem.shut.n0 + 1) + shutterLen (s.mem.shut.n0 + 1) ≤ s.clock) ∧
        (s'.mem.shut.overrun = true → Report.shutterOverrun (s.mem.shut.n0 + 1) ∈ s'.mem.reports) ∧
        s'.mem.shut.begun = decide (8190 * (s.mem.shut.n0 + 1) ≤ s.clock + 252) ∧ s'.strands = s.strands) ∧
      (s.mem.shut.overrun = false → ∃ s', exec .shutterOverrun s = .next s' ∧ s'.mem.shut = { s.mem.shut with overrun := true } ∧
        s'.mem.reports = s.mem.reports ++ [.shutterOverrun s.mem.shut.n0] ∧ s'.strands = s.strands)))

/-- R29, R34, R36: the entry in force is (t div 32) mod 48; a load that is asked for comes at the first period boundary at least 1,536 ck ahead, and then the
staged codes become the schedule; the store that asks for it is M mode's (R391); a written wheel takes effect at a clock that 32 divides. -/
def Obligations.ScheduleCourse : Prop :=
  ∀ s : State,
    (∃ s', exec .scheduleEntry s = .next s' ∧ s'.mem.entry = s.clock / 32 % 48 ∧ { s' with mem := { s'.mem with entry := s.mem.entry } } = s) ∧
    StoreFaults .pschedldGo s 3 offPschedld ∧
    (Firmware s 3 → s.schedLoad = none → ∃ s' c, exec .pschedldGo s = .next s' ∧ s'.schedLoad = some c ∧ c % 1536 = 0 ∧ s.clock + 1536 ≤ c ∧ c < s.clock + 3072 ∧
      s'.mem.sched = s.mem.sched) ∧
    (∀ c, s.schedLoad = some c → (Firmware s 3 → exec .pschedldGo s = .next s) ∧
      (c ≤ s.clock → ∃ s', exec .pschedLoad s = .next s' ∧ s'.schedLoad = none ∧ s'.mem.sched.length = 48 ∧
        ∀ e, e < 48 → s'.mem.sched.getD e 0 = bitsOf (cfgGet s.mem.cfg (offPsched (e / 8))) (4 * (e % 8)) 4) ∧
      (s.clock < c → exec .pschedLoad s = .next s)) ∧
    (s.clock % 32 ≠ 0 → exec .wheelTakeEffect s = .next s) ∧
    (∀ al en, (s.core s.agent.a).pend = some (al, en) → s.clock % 32 = 0 → ∃ s', exec .wheelTakeEffect s = .next s' ∧
      s'.core s.agent.a = { s.core s.agent.a with alloc := al, ent := en, pend := none } ∧ (∀ k, k ≠ s.agent.a → s'.core k = s.core k) ∧
      s'.strands = s.strands ∧ s'.mem = s.mem)

/-- R280, R281, R282: `agcfg` of legal values on a stopped tile that no command uses configures it, `agrun` of a configured, bound, stopped tile with channels
the strand has starts it (waiting for its token with SEN = 1), and `agstop` stops a running one; a tile outside the allotment raises ILLEGAL. -/
def Obligations.AgResult : Prop :=
  ∀ s sn t ga gb (ag : BitVec 2), Runs s sn t →
    (ag.toNat < t.allot.nag → t.busy [ga, gb] = false → t.gp ga = false → t.gp gb = false → (t.ag ag.toNat).run = .stopped → t.agUsed ag.toNat = false →
      (∀ g, agMode (t.g ga).toNat (t.g gb).toNat = some g → ∃ s' t', exec (.agcfg ga gb 4 ag) s = .next s' ∧ OnlyStrand s s' sn t' ∧ RegsKept t t' ∧
        t'.ag ag.toNat = g ∧ t'.seq.pc = t.seq.pc + 8#64) ∧
      (∀ (ctr : BitVec 3) g, ctr.toNat < 4 → (t.ag ag.toNat).counterSet ctr.toNat (t.g ga).toNat (t.g gb).toNat = some g →
        ∃ s' t', exec (.agcfg ga gb ctr ag) s = .next s' ∧ OnlyStrand s s' sn t' ∧ RegsKept t t' ∧ t'.ag ag.toNat = g ∧ t'.seq.pc = t.seq.pc + 8#64)) ∧
    (∀ (fch sch : BitVec 4) (fen sen : BitVec 1), ag.toNat < t.allot.nag → fch.toNat < t.allot.tkn → sch.toNat < t.allot.tkn →
      (t.ag ag.toNat).conf = true → (t.ag ag.toNat).bind = true → (t.ag ag.toNat).run = .stopped →
      ∃ s' t', exec (.agrun fch fen sch sen ag) s = .next s' ∧ OnlyStrand s s' sn t' ∧ RegsKept t t' ∧ t'.seq.pc = t.seq.pc + 8#64 ∧
        (t'.ag ag.toNat).run = (if sen = 1 then .token else .running) ∧ (t'.ag ag.toNat).pos = 0 ∧ (t'.ag ag.toNat).fen = decide (fen = 1) ∧
        ∀ k, k ≠ ag.toNat → t'.ag k = t.ag k) ∧
    (ag.toNat < t.allot.nag → (t.ag ag.toNat).run ≠ .stopped → ∃ s' t', exec (.agstop ag) s = .next s' ∧ OnlyStrand s s' sn t' ∧ RegsKept t t' ∧
      (t'.ag ag.toNat).run = .stopped ∧ t'.seq.pc = t.seq.pc + 8#64 ∧ ∀ k, k ≠ ag.toNat → t'.ag k = t.ag k) ∧
    (t.allot.nag ≤ ag.toNat → Handles t → ∀ ctr fch fen sch sen, ∀ i ∈ [Instr.agcfg ga gb ctr ag, .agrun fch fen sch sen ag, .agstop ag],
      RaisesInto i s sn t 0x01 0 0 i.tval.toNat)

/-- R288, R290, R291, R293, R294: with no register pending or poisoned, a legal arrival address, and room in the queue, the stream commands enter it with
their register values and retire; `copy` of 2^32 bytes or more raises ILLEGAL.
R285, R288, R292, R296: `ringld` and `ringst` of a live ring, with a stopped, configured, unbound tile that no command runs where
AGE = 1, and `tsload`, enter the queue; `send`
of a legal descriptor enters it with one answer awaited from each target, and leaves gd pending.
The model's choice: a field that another one switches off may hold any value: OR of a `cvcopy` with ORE = 0, AG of a `ringld` or `ringst` with AGE = 0 (log 46). -/
def Obligations.StreamIssues : Prop :=
  (∀ s sn t ga gb gc gd, Runs s sn t → t.busy [ga, gb, gc, gd] = false → t.anyPois [ga, gb, gc, gd] = false → t.str.queue.length < 16 →
    (ArrOk s t (t.g gc).toNat → (t.g gd).toNat < 2 ^ 32 → EntersStream (.copy ga gb gc gd) s sn t (.copy (t.g ga).toNat (t.g gb).toNat (t.g gd).toNat) (t.g gc).toNat 8) ∧
    (ArrOk s t (t.g gc).toNat → 2 ^ 32 ≤ (t.g gd).toNat → Handles t → RaisesInto (.copy ga gb gc gd) s sn t 0x01 0 0 (Instr.copy ga gb gc gd).tval.toNat) ∧
    (∀ (les : BitVec 3) (cnt : BitVec 16), ArrOk s t (t.g gc).toNat → gathLegal les cnt = true → windowRange (t.g gd).toNat (4 * cnt.toNat) = true →
      EntersStream (.gath ga gb gc gd les cnt) s sn t (.gath (t.g ga).toNat (t.g gb).toNat (t.g gd).toNat cnt.toNat les.toNat) (t.g gc).toNat 8 ∧
      EntersStream (.scat ga gb gc gd les cnt) s sn t (.scat (t.g ga).toNat (t.g gb).toNat (t.g gd).toNat cnt.toNat les.toNat) (t.g gc).toNat 8) ∧
    (∀ (orn df sf : BitVec 4), ArrOk s t (t.g gc).toNat → cvcopyLegal 0 df sf = true →
      EntersStream (.cvcopy ga gb gc gd 0 orn df sf) s sn t (.cvcopy (t.g ga).toNat (t.g gb).toNat (t.g gd).toNat sf.toNat df.toNat none) (t.g gc).toNat 8) ∧
    (∀ (orn df sf : BitVec 4), ArrOk s t (t.g gc).toNat → cvcopyLegal 1 df sf = true → orn.toNat < t.allot.nrg → (t.ring orn.toNat).live = true →
      EntersStream (.cvcopy ga gb gc gd 1 orn df sf) s sn t (.cvcopy (t.g ga).toNat (t.g gb).toNat (t.g gd).toNat sf.toNat df.toNat (some orn.toNat))
        (t.g gc).toNat 8) ∧
    (∀ dst : BitVec 20, (t.g gd).toNat ≤ 65536 → (t.g ga).toNat < 2 ^ 16 → (t.g ga).toNat % 256 < (s.instOf t.kinst).w →
      (t.g ga).toNat / 256 < (s.instOf t.kinst).h → dst.toNat % 65536 + (t.g gd).toNat ≤ 65536 →
      ((t.g gc).toNat = 0 ∨ arrAligned (t.g gc).toNat = true) → ((t.g gd).toNat = 0 ∨ windowRange (t.g gb).toNat (t.g gd).toNat = true) →
      EntersStream (.deliv ga gb gc gd dst) s sn t (.deliv ((t.g ga).toNat / 256 * (s.instOf t.kinst).w + (t.g ga).toNat % 256) (t.g gb).toNat
        (t.g gd).toNat dst.toNat) (t.g gc).toNat 8)) ∧
  (∀ s sn t ga, Runs s sn t → t.pend ga = false → t.gp ga = false → t.str.queue.length < 16 →
    (∀ (ag : BitVec 2) (age : BitVec 1) (n : BitVec 9) (rg : BitVec 4), rg.toNat < t.allot.nrg → ringldLegal ga age n = true → (t.ring rg.toNat).live = true →
      (age = 1 → ag.toNat < t.allot.nag ∧ (t.ag ag.toNat).conf = true ∧ (t.ag ag.toNat).bind = false ∧ (t.ag ag.toNat).run = .stopped ∧
        t.agRunning ag.toNat = false) →
      EntersStream (.ringld ga ag age n rg) s sn t (.ringld (t.g ga).toNat rg.toNat n.toNat (if age = 1 then some ag.toNat else none)) 0 8 ∧
      EntersStream (.ringst ga ag age n rg) s sn t (.ringst (t.g ga).toNat rg.toNat n.toNat (if age = 1 then some ag.toNat else none)) 0 8) ∧
    (∀ slot : BitVec 6, EntersStream (.tsload ga slot) s sn t (.tsload (t.g ga).toNat slot.toNat) 0 8) ∧
    (∀ gd gb ls, t.busy [gd, gb] = false → t.gp gb = false → (s.instOf t.kinst).sendTargets (t.g gb).toNat = some ls →
      (bitsOf (t.g gb).toNat 32 10 = 0 ∨ windowRange (t.g ga).toNat (bitsOf (t.g gb).toNat 32 10) = true) →
      ∃ s' t' e a, exec (.send gd ga gb) s = .next s' ∧ OnlyStrand s s' sn t' ∧ t'.seq.pc = t.seq.pc + 4#64 ∧
        (∀ r : Reg, t'.g r = t.g r ∧ t'.pend r = (decide (r = gd ∧ r ≠ 0) || t.pend r)) ∧
        t'.str.queue = t.str.queue ++ [e] ∧ t'.seq.loads = t.seq.loads ++ [a] ∧ a.dest = gd.toNat ∧ a.kind = .send ls.length 0 ∧
        e.cmd = .send a.id (t.g ga).toNat (bitsOf (t.g gb).toNat 32 10) (bitsOf (t.g gb).toNat 16 16) ls))

/-- R79, R406: every SEC instruction of a strand without security privilege raises PRIV, before any register is read; with it, a ga that names no key slot
raises ILLEGAL.
R400, R403, R407: with privilege and a slot number, `kset` of an IDLE slot from 64 unpoisoned window bytes loads it, zeroing the bytes, and writes 0;
`kzero` of a LOADED slot makes it ZEROED and writes 0; `scrgo` of a ZEROED slot that no live strand stands in starts its scrub, or ends it at once
when it has no unit, and writes 0. Everywhere else each changes no state of the slot and writes its code: `kset` 1 when LOADED, 2 when ZEROED or
SCRUBBING, 3 for poisoned bytes; `kzero` 1 when ZEROED or SCRUBBING, 2 when IDLE; `scrgo` 1 when SCRUBBING, 2 when LOADED, 3 when IDLE, 4 for a ZEROED slot
in whose footprint a live strand stands. `scrq` writes SCRPROG. A `kset` whose gb is no window address or not a multiple of 64 raises ALIGN with DETAIL 2. -/
def Obligations.SecResult : Prop :=
  (∀ s sn t gd ga gb, Runs s sn t → Handles t → ∀ i ∈ [Instr.kset gd ga gb, .kzero gd ga, .scrgo gd ga, .scrq gd ga],
    (t.secp = false → RaisesInto i s sn t 0x02 0 0 i.tval.toNat) ∧
    (t.secp = true → t.busy [gd, ga, gb] = false → t.gp ga = false → t.gp gb = false → 32 ≤ (t.g ga).toNat →
      RaisesInto i s sn t 0x01 0 0 i.tval.toNat)) ∧
  (∀ s sn t gd ga, Runs s sn t → t.secp = true → t.busy [gd, ga] = false → t.gp ga = false → (t.g ga).toNat < 32 →
    let k := (t.g ga).toNat
    (∀ gb b, t.pend gb = false → t.gp gb = false → inWindow (t.g gb).toNat = true → (t.g gb).toNat % 64 = 0 → Serves s.mem t (winSlot (t.g gb).toNat) b →
      t.blocked t.seq.seq false (winPart t (t.g gb).toNat 64 []) = false →
      (s.mem.kst k = 0 → pbPois (s.mem.bankRead b (winOff (t.g gb).toNat) 64) = false →
        ∃ s' t', exec (.kset gd ga gb) s = .next s' ∧ s'.strand? sn = some t' ∧ Wrote t t' gd 0 false false ∧ t'.seq.pc = t.seq.pc + 4#64 ∧
          s'.mem.kst k = 1 ∧ (∀ c q, q < 65536 → s'.mem.bankByte c q =
            if c = b ∧ winOff (t.g gb).toNat ≤ q ∧ q < winOff (t.g gb).toNat + 64 then (0, false) else s.mem.bankByte c q)) ∧
      (s.mem.kst k = 0 → pbPois (s.mem.bankRead b (winOff (t.g gb).toNat) 64) = true → WritesAndRetires (.kset gd ga gb) s sn t gd (fun v => v = 3) false false) ∧
      (s.mem.kst k = 1 → WritesAndRetires (.kset gd ga gb) s sn t gd (fun v => v = 1) false false) ∧
      (2 ≤ s.mem.kst k → WritesAndRetires (.kset gd ga gb) s sn t gd (fun v => v = 2) false false)) ∧
    (∀ gb, t.pend gb = false → t.gp gb = false → Handles t → (inWindow (t.g gb).toNat = false ∨ (t.g gb).toNat % 64 ≠ 0) →
      RaisesInto (.kset gd ga gb) s sn t 0x04 0 2 (t.g gb).toNat) ∧
    (s.mem.kst k = 1 → ∃ s' t', exec (.kzero gd ga) s = .next s' ∧ s'.strand? sn = some t' ∧ Wrote t t' gd 0 false false ∧
      t'.seq.pc = t.seq.pc + 4#64 ∧ s'.mem.kst k = 2 ∧ tblFind s'.mem.keys k = none ∧ s'.mem.banks = s.mem.banks ∧ s'.mem.dram = s.mem.dram) ∧
    (s.mem.kst k = 0 → WritesAndRetires (.kzero gd ga) s sn t gd (fun v => v = 2) false false ∧
      WritesAndRetires (.scrgo gd ga) s sn t gd (fun v => v = 3) false false) ∧
    (2 ≤ s.mem.kst k → WritesAndRetires (.kzero gd ga) s sn t gd (fun v => v = 1) false false) ∧
    (s.mem.kst k = 1 → WritesAndRetires (.scrgo gd ga) s sn t gd (fun v => v = 2) false false) ∧
    (s.mem.kst k = 3 → WritesAndRetires (.scrgo gd ga) s sn t gd (fun v => v = 1) false false) ∧
    (s.mem.kst k = 2 → (∃ e ∈ s.strands, s.mem.keyCore k (coreOfSn e.1) = true) → WritesAndRetires (.scrgo gd ga) s sn t gd (fun v => v = 4) false false) ∧
    (s.mem.kst k = 2 → (∀ e ∈ s.strands, s.mem.keyCore k (coreOfSn e.1) = false) → s.mem.scrubUnits k = [] →
      ∃ s' t', exec (.scrgo gd ga) s = .next s' ∧ s'.strand? sn = some t' ∧ Wrote t t' gd 0 false false ∧ t'.seq.pc = t.seq.pc + 4#64 ∧
        s'.mem.kst k = 0 ∧ s'.mem.banks = s.mem.banks ∧ s'.mem.dram = s.mem.dram) ∧
    (s.mem.kst k = 2 → (∀ e ∈ s.strands, s.mem.keyCore k (coreOfSn e.1) = false) → s.mem.scrubUnits k ≠ [] →
      ∃ s' t', exec (.scrgo gd ga) s = .next s' ∧ s'.strand? sn = some t' ∧ Wrote t t' gd 0 false false ∧ t'.seq.pc = t.seq.pc + 4#64 ∧
        s'.mem.kst k = 3 ∧ s'.mem.scrubs = s.mem.scrubs ++ [k] ∧ s'.mem.banks = s.mem.banks ∧ s'.mem.dram = s.mem.dram) ∧
    WritesAndRetires (.scrq gd ga) s sn t gd (fun v => v = BitVec.ofNat 64 (s.mem.scrprog k)) false false)

/-- R241, R246, R247, R248, R249, R251: with its checks passed and room in the sub-queue each matrix instruction enters it with its register values and retires;
`mxsync` retires once the sub-queue is empty, with the core's L1 empty, and until then does nothing; a range outside the accumulators raises ILLEGAL, a ring-state condition MXRING.
The model's choice: OR of an `mxst` with ORE = 0 may hold any value (log 46). -/
def Obligations.MatrixIssues : Prop :=
  ∀ s sn t, Runs s sn t →
    (t.mx.queue.length < 16 →
      (∀ nm1 acb : BitVec 3, accRangeLegal false acb nm1 = true → EntersMatrix (.mxzero nm1 acb) s sn t (.zero acb.toNat (nm1.toNat + 1)) 0) ∧
      (∀ (tr : BitVec 1) (dst src : BitVec 3), EntersMatrix (.mxmov tr dst src) s sn t (.mov src.toNat dst.toNat (decide (tr = 1))) 0) ∧
      (∀ gc (lf : BitVec 2) (nm1 acb : BitVec 3) (rs : BitVec 4), rs.toNat < t.allot.nrg → accRangeLegal (decide (lf = 3)) acb nm1 = true →
        t.pend gc = false → t.gp gc = false → ArrOk s t (t.g gc).toNat → (t.ring rs.toNat).live = true → 32 * lfBits lf.toNat ≤ (t.ring rs.toNat).bytes →
        EntersMatrix (.mxld gc lf nm1 acb rs) s sn t (.ld rs.toNat acb.toNat (nm1.toNat + 1) lf.toNat) (t.g gc).toNat) ∧
      (∀ ga gb gc (ts : BitVec 2) (orn : BitVec 4) (ore : BitVec 1) (dfmt : BitVec 4) (ak : BitVec 2) (nm1 acb : BitVec 3) (rd : BitVec 4) cmd,
        rd.toNat < t.allot.nrg → (ore = 1 → orn.toNat < t.allot.nrg) → mxstLegal ts ore dfmt ak nm1 acb = true → mxstRegsLegal ts ga gb = true →
        t.busy [ga, gb, gc] = false → t.gp gc = false → ArrOk s t (t.g gc).toNat →
        cmd = .st rd.toNat acb.toNat (nm1.toNat + 1) ak.toNat dfmt.toNat ts.toNat (if ore = 1 then some orn.toNat else none)
          ((t.g ga).toNat % 2 ^ (if ts = 1 then 32 else 16)) ((t.g gb).toNat % 2 ^ (if ts = 1 then 32 else 16))
          (decide (ts ≠ 0) && (t.gp ga || t.gp gb)) t.seq.ctl.rm t.seq.ctl.ftz t.seq.ctl.daz → t.mxRing cmd = none →
        EntersMatrix (.mxst ga gb gc ts orn ore dfmt ak nm1 acb rd) s sn t cmd (t.g gc).toNat) ∧
      (∀ ga gc (fresh : BitVec 1) (sfmt blk : BitVec 2) (pb pa : BitVec 3) (shape : BitVec 2) (acnm1 acb : BitVec 3) (rnb rna fmt : BitVec 4) cmd,
        rna.toNat < t.allot.nrg → rnb.toNat < t.allot.nrg → mxstepLegal sfmt blk acnm1 acb rnb rna fmt = true → t.busy [ga, gc] = false →
        t.anyPois [ga, gc] = false → 1 ≤ (t.g ga).toNat → (t.g ga).toNat < 65536 → ArrOk s t (t.g gc).toNat →
        cmd = .step fmt.toNat rna.toNat rnb.toNat acb.toNat (acnm1.toNat + 1) shape.toNat pa.toNat pb.toNat blk.toNat sfmt.toNat (decide (fresh = 1))
          (t.g ga).toNat t.seq.ctl.isat → t.mxRing cmd = none →
        EntersMatrix (.mxstep ga gc fresh sfmt blk pb pa shape acnm1 acb rnb rna fmt) s sn t cmd (t.g gc).toNat)) ∧
    (t.mx.queue = [] → ∃ s', exec .mxsync s = .next s' ∧ s'.strand? sn = some (t.retire 8) ∧ (∀ k, k ≠ sn → s'.strand? k = s.strand? k) ∧ s'.mem = s.mem ∧
      (s'.core (coreOfSn sn)).l1 = [] ∧ ∀ k, k ≠ coreOfSn sn → s'.core k = s.core k) ∧
    (t.mx.queue ≠ [] → exec .mxsync s = .next s) ∧
    (Handles t →
      (∀ nm1 acb : BitVec 3, 8 < acb.toNat + nm1.toNat + 1 → RaisesInto (.mxzero nm1 acb) s sn t 0x01 0 0 (Instr.mxzero nm1 acb).tval.toNat) ∧
      (∀ gc (lf : BitVec 2) (nm1 acb : BitVec 3) (rs : BitVec 4), rs.toNat < t.allot.nrg → accRangeLegal (decide (lf = 3)) acb nm1 = true →
        t.pend gc = false → t.gp gc = false → ArrOk s t (t.g gc).toNat → (t.ring rs.toNat).live = false →
        RaisesInto (.mxld gc lf nm1 acb rs) s sn t 0x09 0 0x02 rs.toNat))

/-- R242, R247, R248, R250: a unit of the head command. A tile unit of `mxzero` makes its tile zeros; one of `mxmov` copies or transposes its tile, with each
element's poison; a transfer unit of a raw `mxld` puts 32 words of the head tile into 32 elements; an interval adds the products of its panels to each element
of its tile; no other element changes, and the command leaves the queue with its last unit.
The model's choice: a step works one unit (log 31). -/
def Obligations.MatrixWorks : Prop :=
  ∀ s sn t x q, MatrixAt s sn t x q → x.arr = 0 →
    (∀ acb n, x.cmd = .zero acb n → x.done < n → ∃ s' t', exec .mxTileUnit s = .next s' ∧ OnlyStrand s s' sn t' ∧ RegsKept t t' ∧
      (∀ c i j, i < 16 → j < 16 → t'.mx.el c i j = if c = acb + x.done then .zero else t.mx.el c i j) ∧
      t'.mx.queue = (if x.done + 1 = n then q else { x with done := x.done + 1 } :: q)) ∧
    (∀ src dst tr, x.cmd = .mov src dst tr → x.done = 0 → ∃ s' t', exec .mxTileUnit s = .next s' ∧ OnlyStrand s s' sn t' ∧ RegsKept t t' ∧
      (∀ c i j, i < 16 → j < 16 → t'.mx.el c i j = if c = dst then
        (let y := if tr then t.mx.el src j i else t.mx.el src i j; ⟨y.v, y.p || y.bad, false⟩) else t.mx.el c i j) ∧ t'.mx.queue = q) ∧
    (∀ rs acb n, x.cmd = .ld rs acb n 0 → x.done + 1 < n * 8 → s.mem.ringsReach t [rs] = none → ∃ s' t', exec .mxTransferUnit s = .next s' ∧
      OnlyStrand (s.setMem { s.mem with becc := s'.mem.becc }) s' sn t' ∧ RegsKept t t' ∧
      (∀ c i j, i < 16 → j < 16 → t'.mx.el c i j = if c = acb + x.done / 8 ∧ (16 * i + j) / 32 = x.done % 8 then
        (let b := s.mem.bankRead (t.ringBank (t.ring rs)) ((t.ring rs).tileOff (t.ring rs).head + 4 * (16 * i + j)) 4
         ⟨BitVec.ofNat 32 (pbNat b), pbPois b, false⟩) else t.mx.el c i j) ∧
      t'.ring rs = (if x.done % 8 = 7 then (t.ring rs).pop else t.ring rs)) ∧
    (∀ fmt rna rnb acb acn shape pa pb blk sfmt fresh rep isat e, x.cmd = .step fmt rna rnb acb acn shape pa pb blk sfmt fresh rep isat →
      e = MxStep.of fmt rna rnb acb acn shape pa pb blk sfmt fresh rep isat → x.done + 1 < rep → e.pair = false → 1 ≤ acn →
      s.mem.ringsReach t ([rna] ++ (t.scaleRing e e.a).toList ++ [rnb] ++ (t.scaleRing e e.b).toList) = none →
      ∃ s' t', exec .mxInterval s = .next s' ∧ OnlyStrand (s.setMem { s.mem with becc := s'.mem.becc }) s' sn t' ∧ RegsKept t t' ∧
        (∀ c i j, i < 16 → j < 16 → t'.mx.el c i j = if c = acb + x.done % acn ∧ i < mxRows shape ∧ j < mxCols shape then
          (let y := t.mx.el c i j
           let base := if fresh = true ∧ x.done < acn then ((0 : Nat), false) else (y.v.toNat, y.p || y.bad)
           let z := e.element (s.mem.mxPanel t e e.a x.done) (s.mem.mxPanel t e e.b x.done) i j base.1 base.2
           ⟨BitVec.ofNat 32 z.1, z.2.1, false⟩) else t.mx.el c i j) ∧
        (∀ r, r ∉ [rna, rnb] → r ∉ t.scaleRing e e.a → r ∉ t.scaleRing e e.b → t'.ring r = t.ring r) ∧
        ∃ x', t'.mx.queue = x' :: q ∧ x'.done = x.done + 1)

/-- R360, R361: `nrun` of an aligned window block whose rows pass R94, to a node with room, retires with gd pending, and the node's queue takes the
request; a block not aligned, or no node's number, raises ILLEGAL. `pcq` writes 2^63 for a window byte, and for a byte of a local frame its stack and pseudo-channel. An idle node starts its oldest request at row 0; a busy one starts none.
The model's choice: poisoned rows and arguments do not keep a block from being queued (log 23). -/
def Obligations.NodeInstrResult : Prop :=
  (∀ s sn t gd ga, Runs s sn t → t.busy [gd, ga] = false → t.gp ga = false →
    (∀ gb b, t.pend gb = false → t.gp gb = false → (t.g ga).toNat % 256 = 0 → (t.g gb).toNat < 128 → inWindow (t.g ga).toNat = true →
      Serves s.mem t (winSlot (t.g ga).toNat) b → (∀ p ∈ winParts t (t.g ga).toNat 256 [], t.blocked t.seq.seq false p = false) →
      ∀ rows, rows = rowsOf ((pbBytes (s.mem.bankRead b (winOff (t.g ga).toNat) 256)).drop 128) → badRow rows 0 false = none →
      (∀ r ∈ rowRings (liveRows rows), r < t.allot.nrg) → t.loadFull = false → (s.node (t.g gb).toNat).queue.length < 16 →
      ∃ s' t' r, exec (.nrun gd ga gb) s = .next s' ∧ s'.strand? sn = some t' ∧ (∀ k, k ≠ sn → s'.strand? k = s.strand? k) ∧ s'.mem = s.mem ∧
        t'.seq.pc = t.seq.pc + 4#64 ∧ (∀ y : Reg, t'.g y = t.g y ∧ t'.pend y = (decide (y = gd ∧ y ≠ 0) || t.pend y)) ∧
        (s'.node (t.g gb).toNat) = { s.node (t.g gb).toNat with queue := (s.node (t.g gb).toNat).queue ++ [r] } ∧ r.sn = sn ∧ r.part = partOfSn sn ∧
        r.rows = liveRows rows ∧ (∀ k, k < 16 → r.args.getD k (0, false) =
          (pbNat (s.mem.bankRead b (winOff (t.g ga).toNat + 8 * k) 8), pbPois (s.mem.bankRead b (winOff (t.g ga).toNat + 8 * k) 8))) ∧
        ∃ a, t'.seq.loads = t.seq.loads ++ [a] ∧ a.id = r.acc ∧ a.dest = gd.toNat) ∧
    (∀ gb, t.pend gb = false → t.gp gb = false → Handles t → ((t.g ga).toNat % 256 ≠ 0 ∨ 128 ≤ (t.g gb).toNat) →
      RaisesInto (.nrun gd ga gb) s sn t 0x01 0 0 (Instr.nrun gd ga gb).tval.toNat) ∧
    (∀ b, inWindow (t.g ga).toNat = true → Serves s.mem t (winSlot (t.g ga).toNat) b →
      WritesAndRetires (.pcq gd ga) s sn t gd (fun v => v = BitVec.ofNat 64 (2 ^ 63)) false false) ∧
    (∀ l m pa, inWindow (t.g ga).toNat = false → s.mem.page (coreOfSn sn) (partOfSn sn) (t.g ga).toNat .r = (.ok l, m) →
      m.frameOf (partOfSn sn) l (t.g ga).toNat = some pa → (∀ r ∈ m.rewrites, r.stack ≠ stackOf pa) →
      ∃ s' t', exec (.pcq gd ga) s = .next s' ∧ s' = { s with strands := s'.strands, mem := m } ∧ s'.strand? sn = some t' ∧
        (∀ k, k ≠ sn → s'.strand? k = s.strand? k) ∧ Wrote t t' gd (BitVec.ofNat 64 (m.pcOf pa + 256 * stackOf pa)) false false ∧
        t'.seq.pc = t.seq.pc + 4#64)) ∧
  (∀ (s : State) k, 16 * s.agent.a + s.agent.b = k →
    (∀ r rs, (s.node k).prog = none → (s.node k).queue = r :: rs → ∃ s' x, exec .nodeRequestStart s = .next s' ∧ { s' with nodes := s.nodes } = s ∧
      s'.node k = ⟨rs, some x⟩ ∧ x.req = r ∧ x.row = 0 ∧ x.pos = 0 ∧ x.streams = [] ∧ x.fill = [] ∧ x.count = 0 ∧ x.status = 0 ∧ x.ended = none ∧
      ∀ j, j ≠ k → s'.node j = s.node j) ∧
    (((s.node k).prog ≠ none ∨ (s.node k).queue = []) → ∃ s', exec .nodeRequestStart s = .next s' ∧ { s' with nodes := s.nodes } = s ∧ ∀ j, s'.node j = s.node j))

/-- R352, R353: a node's rows that compute: `nfilt`, `ncmpk`, `nsum`, `nmin`, `nmax` and `ncnt` write their stream with what the rule says, with the poison
of the elements and arguments, and the program goes on to its next row; a source of another element width ends it with INVALID in the completion word.
R71, R352: the NV and OF of a row on floating elements stand in the status and in FPSTAT of the strand that issued the program.
The model's choice: rows go element by element, and the points the spec leaves open are read as log 21 says. -/
def Obligations.NodeComputes : Prop :=
  ∀ s k r t, OnNode s k r t → ∀ (ty ds sa : BitVec 3), ty ≠ 7#3 →
    ((r.stream sa).fits (ntyEb ty) = true →
      (∀ (sb cmp : BitVec 3) (sel : BitVec 1) (imm : BitVec 4) ys es fl, (sel = 0 → (r.stream sb).fits (ntyEb ty) = true) →
        ys = (if sel = 1 then (r.stream sa).elems.map (fun _ => (r.arg imm.toNat % 2 ^ (8 * ntyEb ty), r.argP imm.toNat)) else (r.stream sb).elems) →
        es = ((r.stream sa).elems.zip ys).map (fun e => ((if (nodeCmp ty cmp e.1.1 e.2.1).1 then 1 else 0 : Nat), e.1.2 || e.2.2)) →
        fl = (((r.stream sa).elems.zip ys).map (fun e => (nodeCmp ty cmp e.1.1 e.2.1).2)).foldl (· ||| ·) 0 →
        RowWrites (.nfilt ty ds sa sb cmp sel imm) s k r t ds ⟨4, false, es⟩ (stOr (nodeStatus fl) (stIf (es.any (·.2)) stPOISON)) fl) ∧
      (∀ sb : BitVec 3, (r.stream sb).fits (ntyEb ty) = true → ∃ es, RowWrites (.ncmpk ty ds sa sb) s k r t ds ⟨ntyEb ty, ntySigned ty, es⟩
          (stIf (es.any (·.2)) stPOISON) 0 ∧
        es = (((r.stream sa).elems.zip (r.stream sb).elems).filter (fun e => decide (e.2.1 ≠ 0))).map (fun e => (e.1.1, e.1.2 || e.2.2))) ∧
      (∀ p, p = (r.stream sa).elems.any (·.2) → RowWrites (.ncnt ty ds sa) s k r t ds ⟨8, false, [((r.stream sa).elems.length, p)]⟩ (stIf p stPOISON) 0) ∧
      (∀ p, p = (r.stream sa).elems.any (·.2) →
        (ntyFmt ty = none →
          RowWrites (.nsum ty ds sa) s k r t ds ⟨ntyEb ty, ntySigned ty, [(((r.stream sa).elems.map (·.1)).sum % 2 ^ (8 * ntyEb ty), p)]⟩ (stIf p stPOISON) 0) ∧
        (∀ v fl, (v, fl) = nodeSum ty ((r.stream sa).elems.map (·.1)) → RowWrites (.nsum ty ds sa) s k r t ds
          ⟨if ty = 6#3 then 4 else ntyEb ty, ntySigned ty, [(v, p)]⟩ (stOr (nodeStatus fl) (stIf p stPOISON)) fl) ∧
        (∀ v fl, nodeExtreme false ty ((r.stream sa).elems.map (·.1)) = some (v, fl) → RowWrites (.nmin ty ds sa) s k r t ds
          ⟨ntyEb ty, ntySigned ty, [(v, p)]⟩ (stOr (nodeStatus fl) (stIf p stPOISON)) fl) ∧
        (∀ v fl, nodeExtreme true ty ((r.stream sa).elems.map (·.1)) = some (v, fl) → RowWrites (.nmax ty ds sa) s k r t ds
          ⟨ntyEb ty, ntySigned ty, [(v, p)]⟩ (stOr (nodeStatus fl) (stIf p stPOISON)) fl) ∧
        ((r.stream sa).elems = [] → RowWrites (.nmin ty ds sa) s k r t ds ⟨ntyEb ty, ntySigned ty, []⟩ 0 0 ∧
          RowWrites (.nmax ty ds sa) s k r t ds ⟨ntyEb ty, ntySigned ty, []⟩ 0 0) ∧
        ((r.stream sa).elems ≠ [] → ntyFmt ty = none →
          (∃ v, RowWrites (.nmin ty ds sa) s k r t ds ⟨ntyEb ty, ntySigned ty, [(v, p)]⟩ (stIf p stPOISON) 0 ∧ v ∈ (r.stream sa).elems.map (·.1) ∧
            ∀ y ∈ (r.stream sa).elems, ntyVal ty v ≤ ntyVal ty y.1) ∧
          (∃ v, RowWrites (.nmax ty ds sa) s k r t ds ⟨ntyEb ty, ntySigned ty, [(v, p)]⟩ (stIf p stPOISON) 0 ∧ v ∈ (r.stream sa).elems.map (·.1) ∧
            ∀ y ∈ (r.stream sa).elems, ntyVal ty y.1 ≤ ntyVal ty v)))) ∧
    ((r.stream sa).fits (ntyEb ty) = false → r.fill = [] → ∀ (sb cmp : BitVec 3) (sel : BitVec 1) (imm : BitVec 4),
      ∀ i ∈ [Instr.nsum ty ds sa, .nmin ty ds sa, .nmax ty ds sa, .ncnt ty ds sa, .nfilt ty ds sa sb cmp sel imm, .ncmpk ty ds sa sb, .ngath ty ds sa imm],
      RowEnds i s k r t 64 s.mem)

/-- R137, R138, R352, R354: a node's rows that move data: `nscan` and `ngath` read one element in a step, which waits behind a barrier of path NM, and which a failed read ends with XLATE and an illegal argument with
INVALID, and write their stream at the end; `nemit` packs one element in a step into a tile, which it pushes when full, the bytes that do not fit beginning
the next tile; `nend` completes and pushes a partly filled tile, waiting while its ring is full, and writes the completion word.
The model's choice: one element in a step, and the points the spec leaves open are read as log 21 says. -/
def Obligations.NodeMoves : Prop :=
  ∀ s k r t, OnNode s k r t → ∀ ty : BitVec 3, ty ≠ 7#3 →
    (r.fill = [] → RowEnds .nend s k r t 0 s.mem) ∧
    (∀ n bytes c b, r.fill = [(n, bytes, c)] → (t.ring n).live = true → s.mem.ringAns t (t.ring n) false = .bank b →
      ((t.ring n).full = true → ∃ s' r', exec .nend s = .next s' ∧ (s'.node k).prog = some r' ∧ r'.fill = r.fill ∧ r'.count = r.count ∧ r'.ended = some 0 ∧
        s'.mem = s.mem) ∧
      ((t.ring n).full = false → ∀ a, t.seq.loads.find? (fun x => decide (x.id = r.req.acc)) = some a →
        tblGet 0 t.seq.glat (BitVec.ofNat 5 a.dest).toNat = 0 → ∃ s' t', exec .nend s = .next s' ∧ (s'.node k).prog = none ∧
          s'.strand? r.req.sn = some t' ∧ t'.ring n = (t.ring n).reserve.land (t.ring n).nextTile ∧
          s'.mem = s.mem.bankWrite b ((t.ring n).tileOff (t.ring n).nextTile)
            (bytes.take (t.ring n).bytes ++ List.replicate ((t.ring n).bytes - bytes.length) (0, false)) ∧
          Wrote t t' (BitVec.ofNat 5 a.dest) (BitVec.ofNat 64 (r.status + (r.count + c) % 2 ^ 32 * 2 ^ 32)) false false)) ∧
    (∀ n bytes c, r.fill = [(n, bytes, c)] → (t.ring n).live = false → RowEnds .nend s k r t 64 s.mem) ∧
    (∀ (ds : BitVec 3) (imm : BitVec 4),
      ((r.arg imm.toNat % ntyEb ty ≠ 0 ∨ 2 ^ 32 ≤ r.arg (imm.toNat + 1)) → r.fill = [] → RowEnds (.nscan ty ds imm) s k r t 64 s.mem) ∧
      (r.arg imm.toNat % ntyEb ty = 0 → r.arg (imm.toNat + 1) < 2 ^ 32 →
        (r.arg (imm.toNat + 1) ≤ r.pos → RowWrites (.nscan ty ds imm) s k r t ds ⟨ntyEb ty, ntySigned ty, r.part⟩ 0 0) ∧
        (r.pos < r.arg (imm.toNat + 1) → s.nodeBarred r = true → exec (.nscan ty ds imm) s = .next s) ∧
        (r.pos < r.arg (imm.toNat + 1) → s.nodeBarred r = false →
          (∀ v p c m, s.mem.nodeRead k r.req.part ((r.arg imm.toNat + r.pos * ntyEb ty) % 2 ^ 64) (ntyEb ty) = .ok (v, p) c m →
            ∃ s' r', exec (.nscan ty ds imm) s = .next s' ∧ s'.mem = m ∧ s'.strands = s.strands ∧ (s'.node k).prog = some r' ∧ r'.pos = r.pos + 1 ∧
              r'.part = r.part ++ [(v, p || (r.argP imm.toNat || r.argP (imm.toNat + 1)))] ∧ r'.row = r.row ∧ r'.streams = r.streams) ∧
          (∀ m, s.mem.nodeRead k r.req.part ((r.arg imm.toNat + r.pos * ntyEb ty) % 2 ^ 64) (ntyEb ty) = .fail m → r.fill = [] →
            RowEnds (.nscan ty ds imm) s k r t 512 m)))) ∧
    (∀ (ds sa : BitVec 3) (imm : BitVec 4), r.arg imm.toNat % ntyEb ty = 0 → (r.stream sa).fits (ntyEb ty) = true →
      ((r.stream sa).elems.length ≤ r.pos → RowWrites (.ngath ty ds sa imm) s k r t ds ⟨ntyEb ty, ntySigned ty, r.part⟩ 0 0) ∧
      (∀ e, (r.stream sa).elems[r.pos]? = some e → s.nodeBarred r = true → exec (.ngath ty ds sa imm) s = .next s) ∧
      (∀ e v p c m, (r.stream sa).elems[r.pos]? = some e → s.nodeBarred r = false →
        s.mem.nodeRead k r.req.part (((r.arg imm.toNat : Int) + (if (r.stream sa).signed then (e.1 : Int).bmod (2 ^ (8 * ntyEb ty)) else e.1) * ntyEb ty) % 2 ^ 64).toNat
          (ntyEb ty) = .ok (v, p) c m →
        ∃ s' r', exec (.ngath ty ds sa imm) s = .next s' ∧ s'.mem = m ∧ s'.strands = s.strands ∧ (s'.node k).prog = some r' ∧ r'.pos = r.pos + 1 ∧
          r'.part = r.part ++ [(v, p || (e.2 || r.argP imm.toNat))] ∧ r'.row = r.row ∧ r'.streams = r.streams)) ∧
    (∀ (sa : BitVec 3) (imm : BitVec 4), ((r.stream sa).fits (ntyEb ty) = false ∨ (t.ring imm.toNat).live = false) → r.fill = [] →
      RowEnds (.nemit ty sa imm) s k r t 64 s.mem) ∧
    (∀ (sa : BitVec 3) (imm : BitVec 4) b, (r.stream sa).fits (ntyEb ty) = true → (t.ring imm.toNat).live = true →
      s.mem.ringAns t (t.ring imm.toNat) false = .bank b →
      ((r.stream sa).elems.length ≤ r.pos → ∃ s' r', exec (.nemit ty sa imm) s = .next s' ∧ (s'.node k).prog = some r' ∧ r'.row = r.row + 1 ∧ r'.pos = 0 ∧
        r'.fill = r.fill ∧ r'.count = r.count ∧ s'.mem = s.mem) ∧
      (∀ e old tile rest, (r.stream sa).elems[r.pos]? = some e → old = tblGet ([], 0) r.fill imm.toNat → tile = old.1 ++ pbOf (ntyEb ty) e.1 e.2 →
        rest = tile.drop (t.ring imm.toNat).bytes →
        (tile.length < (t.ring imm.toNat).bytes → ∃ s' r', exec (.nemit ty sa imm) s = .next s' ∧ (s'.node k).prog = some r' ∧ r'.pos = r.pos + 1 ∧
          r'.count = r.count ∧ tblGet ([], 0) r'.fill imm.toNat = (tile, old.2 + 1) ∧ s'.mem = s.mem ∧ s'.strands = s.strands) ∧
        ((t.ring imm.toNat).bytes ≤ tile.length → (t.ring imm.toNat).full = false → ∃ s' r' t', exec (.nemit ty sa imm) s = .next s' ∧
          (s'.node k).prog = some r' ∧ r'.pos = r.pos + 1 ∧ r'.count = r.count + (if rest = [] then old.2 + 1 else old.2) ∧
          tblGet ([], 0) r'.fill imm.toNat = (rest, if rest = [] then 0 else 1) ∧
          s'.mem = s.mem.bankWrite b ((t.ring imm.toNat).tileOff (t.ring imm.toNat).nextTile) (tile.take (t.ring imm.toNat).bytes) ∧
          s'.strand? r.req.sn = some t' ∧ t'.ring imm.toNat = (t.ring imm.toNat).reserve.land (t.ring imm.toNat).nextTile) ∧
        ((t.ring imm.toNat).bytes ≤ tile.length → (t.ring imm.toNat).full = true → exec (.nemit ty sa imm) s = .next s)))

/-- R186, R192, R194, R213, R214: ARRAY_STEP of a row in which one PE computes, with latency 1 and valid unpoisoned operands, and the others pass: the PE's latch and its
destination take the result, no other register and no other latch changes, and the loop goes on to its next row. -/
def Obligations.ArrayStepResult : Prop :=
  ∀ e ∈ arrTable, ∀ s sn t p, Runs s sn t → t.engineOn 1 = true → (t.arr.st = .run ∨ t.arr.st = .drain) → t.arrx.await = false → t.arrx.parked = none →
    t.arr.row + 1 < t.arr.ii → t.arrx.pes.length = 16 → p < 16 → (∀ x ∈ t.arrx.pes, x.flight = []) → (∀ q, q < 16 → q ≠ p → (t.cwNow q).fn = 0) →
    ∀ w va vb, w = t.cwNow p → w.fn = e.1 → w.ty = 0 → w.ma = 0 → w.mb = 0 → w.hld = false → w.d < 48 → w.a ≠ 60 → w.b ≠ 60 →
      t.src p w.a w.stg = ⟨va, true, false⟩ → t.src p w.b w.stg = ⟨vb, true, false⟩ →
      ∃ s' t' v, exec .arrayStep s = .next s' ∧ OnlyStrand s s' sn t' ∧ RegsKept t t' ∧ v = (⟨BitVec.ofNat 32 (e.2 va.toNat vb.toNat), true, false⟩ : AV) ∧
        (∀ q n, q < 16 → tblGet .zero (t'.pe q).regs n =
          if q = p ∧ n = (if w.d < 16 then w.d else rotKey t.arr.rb (w.d - 16)) then v else tblGet .zero (t.pe q).regs n) ∧
        (∀ q, q < 16 → (t'.pe q).latch = if q = p then v else (t.pe q).latch) ∧ t'.arr = { t.arr with row := t.arr.row + 1 } ∧
        t'.seq.ctl.fpstat = t.seq.ctl.fpstat

/-- R193, R196, R199: LOAD_QUEUE_FILL of an entry of one bank part that no earlier access holds back gives it Zext of the bytes; ARRAY_FLUSH_SLOT of a flushed loop with
nothing left makes it IDLE, empties the load queues and sets the finish token; while a store queue holds an entry, the loop stays in FLUSH; the answer to a
step's checks that pass performs the step's accesses and commits the step (R133). -/
def Obligations.ArrayEvents : Prop :=
  ∀ s sn t, Runs s sn t →
    (∀ x p b o, s.agent.b < t.arrx.pes.length → (t.pe s.agent.b).lq[s.agent.c]? = some x → x.filled = false → x.cp = false → x.parts = [p] → p.done = false →
      p.place = .bank b o → t.blocked x.seq true p = false →
      ∃ s' t' y, exec .loadQueueFill s = .next s' ∧ OnlyStrand (s.setMem { s.mem with becc := s'.mem.becc }) s' sn t' ∧ RegsKept t t' ∧ (t'.pe s.agent.b).lq[s.agent.c]? = some y ∧ y.filled = true ∧
        y.val = ⟨BitVec.ofNat 32 (pbNat (s.mem.bankRead b o p.n)), true, pbPois (s.mem.bankRead b o p.n)⟩ ∧
        (∀ k, k ≠ s.agent.c → (t'.pe s.agent.b).lq[k]? = (t.pe s.agent.b).lq[k]?) ∧ (∀ q, q ≠ s.agent.b → t'.pe q = t.pe q)) ∧
    (t.engineOn 1 = true → t.arr.st = .flush → (∀ x ∈ t.arrx.pes, x.flight = []) →
      ((∀ x ∈ t.arrx.pes, x.sq = [] ∧ ∀ y ∈ x.lq, y.filled = true) → t.arrx.outl = [] → t.outlBehind = false → t.arr.shadow = none →
        ∃ s' t', exec .arrayFlushSlot s = .next s' ∧ OnlyStrand s s' sn t' ∧ RegsKept t t' ∧ t'.arr = { t.arr with st := .idle } ∧
          t'.token t.arr.fch = true ∧ (∀ x ∈ t'.arrx.pes, x.lq = []) ∧ ∀ q, (t'.pe q).regs = (t.pe q).regs) ∧
      ((∃ x ∈ t.arrx.pes, x.sq ≠ []) → ∃ s' t', exec .arrayFlushSlot s = .next s' ∧ OnlyStrand s s' sn t' ∧ t'.arr = t.arr ∧ t'.arrx.pes = t.arrx.pes ∧
        t'.tok = t.tok)) ∧
    (∀ f s1 l s2, t.arrx.await = true → t.engineOn 1 = true → t.holds peIds t = false →
      StepFx.words sn t ⟨t, s.mem, 0, [], [], [], [], [], [], none, [], []⟩ peIds = .ok f →
      t.seq.ctl.ackcnt + (f.stores.map (fun x => x.parts.countP (fun p => p.place.remote (dieOfSn sn)))).sum ≤ 1024 →
      (f.accs.flatMap (fun x => x.2.2)).any (·.rc) = true →
      State.checkParts sn t (s.setMem f.m) (f.accs.flatMap (fun x => x.2.2.map (fun p => (x.2.1, p)))) = .pass s1 →
      State.performAccs sn t s1 f.accs = .ok (l, s2) → (s2.strand? sn).isSome = true →
      ∃ s' t', exec .arrayChecksAnswered s = .next s' ∧ s'.strand? sn = some t' ∧ s'.mem = s2.mem ∧ t'.arrx.await = false ∧
        t'.arrx.pes = ((f.performed l).commit sn s.clock).arrx.pes ∧ t'.arr = ((f.performed l).commit sn s.clock).arr)

/-- R275, R281, R289, R290: an element of a `copy` between served slots moves the bytes up to the next row edge, read before any is written, and no other byte of a bank
changes; an element of a running load tile enters the PE's load queue; a tile with its start token runs; the oldest written tile of a ring lands, and TAIL passes it only when no older reserved tile is before it.
The model's choice: an element in a step, in an order that is free (log 2). -/
def Obligations.StreamWorks : Prop :=
  ∀ s sn t, Runs s sn t →
    (∀ e q dst src len b c ra wa n, t.str.queue = e :: q → e.cmd = .copy dst src len → s.cmdReady sn t e = true → e.done < len → e.arr = 0 → e.flying = 0 →
      ra = src + e.done → wa = dst + e.done → inWindow ra = true → inWindow wa = true → ra < 2 ^ 64 → wa < 2 ^ 64 → Serves s.mem t (winSlot ra) b →
      Serves s.mem t (winSlot wa) c → (t.slot (winSlot ra)).zero = false → (t.slot (winSlot wa)).zero = false → n = min (min (len - e.done) 64) (min (64 - ra % 64) (64 - wa % 64)) →
      ∃ s' t', exec .streamElementStep s = .next s' ∧ s'.strand? sn = some t' ∧ (∀ k, k ≠ sn → s'.strand? k = s.strand? k) ∧ RegsKept t t' ∧
        (∀ d o, o < 65536 → s'.mem.bankByte d o =
          if d = c ∧ winOff wa ≤ o ∧ o < winOff wa + n then s.mem.bankByte b (winOff ra + (o - winOff wa)) else s.mem.bankByte d o) ∧
        s'.mem.dram = s.mem.dram ∧
        (e.done + n < len → ∃ e', t'.str.queue = e' :: q ∧ e'.done = e.done + n ∧ e'.cmd = e.cmd) ∧ (e.done + n = len → t'.str.queue = q)) ∧
    (∀ a, s.agent.b = a → t.engineOn 3 = true → t.barred (dieOfSn sn) (t.ag a).seq 1 = false → (t.ag a).parked = none →
      ((t.ag a).run = .token → t.token (t.ag a).sch = true → ∃ s' t', exec .agElement s = .next s' ∧ OnlyStrand s s' sn t' ∧ RegsKept t t' ∧
        t'.ag a = { t.ag a with run := .running } ∧ t'.token (t.ag a).sch = false ∧ t'.str.queue = t.str.queue) ∧
      (∀ b va, (t.ag a).run = .running → (t.ag a).ten = false → (t.ag a).sq = false → (t.ag a).les = 2 → va = (t.ag a).address (t.ag a).pos → va % 4 = 0 →
        inWindow va = true → Serves s.mem t (winSlot va) b → (t.slot (winSlot va)).zero = false → (t.ag a).pe < t.arrx.pes.length → (t.pe (t.ag a).pe).lq.length < 8 →
        (t.ag a).pos + 1 < (t.ag a).total →
        ∃ s' t' y, exec .agElement s = .next s' ∧ OnlyStrand (s.setMem { s.mem with becc := s'.mem.becc }) s' sn t' ∧ RegsKept t t' ∧ (t'.pe (t.ag a).pe).lq = (t.pe (t.ag a).pe).lq ++ [y] ∧ y.filled = true ∧
          y.val = ⟨BitVec.ofNat 32 (pbNat (s.mem.bankRead b (winOff va) 4)), true, pbPois (s.mem.bankRead b (winOff va) 4)⟩ ∧
          t'.ag a = { t.ag a with pos := (t.ag a).pos + 1 })) ∧
    (∀ r tile rest, t.ring s.agent.b = r → r.resv = ⟨tile, true, false⟩ :: rest → (∀ x ∈ rest, x.tile ≠ tile ∧ x.landed = false) →
      ∃ s' t', exec .ringTileLanded s = .next s' ∧ OnlyStrand s s' sn t' ∧ RegsKept t t' ∧
        t'.ring s.agent.b = { r with tail := (r.tail + 1) % 2 ^ (r.logn + 1), resv := rest } ∧ ∀ k, k ≠ s.agent.b → t'.ring k = t.ring k) ∧
    (∀ r t0 t1 rest, t.ring s.agent.b = r → r.resv = ⟨t0, false, false⟩ :: ⟨t1, true, false⟩ :: rest → t0 ≠ t1 →
      ∃ s' t', exec .ringTileLanded s = .next s' ∧ OnlyStrand s s' sn t' ∧ (t'.ring s.agent.b).tail = r.tail ∧ (t'.ring s.agent.b).head = r.head ∧
        (t'.ring s.agent.b).held = r.held)

/-- R110, R125, R168, R416: a load is performed at its home slice, and a store on an RC page checked and performed there, which its instruction then waits to be
told; the reply lets it retire, or raises RACE and the store is gone; an acknowledgement takes one off ACKCNT, and that of a
stream command's write makes its arrival (R271); a fetch from the window raises PERM.
The model's choice: the steps into which an access is cut (log 8). -/
def Obligations.AccessReplies : Prop :=
  ∀ s sn t, Runs s sn t →
    (∀ x u, t.seq.acks[s.agent.b]? = some x → u = { t with
        prog := true
        seq := { t.seq with acks := t.seq.acks.eraseIdx s.agent.b, ctl := { t.seq.ctl with ackcnt := t.seq.ctl.ackcnt - 1 } } } →
      ((∀ sco arr n, x ≠ .cp sco true arr n) → ∃ s', exec .ackReturn s = .next s' ∧ OnlyStrand s s' sn u) ∧
      (∀ sco arr n e q, x = .cp sco true arr n → t.str.queue = e :: q →
        (arr = 0 → ∃ s', exec .ackReturn s = .next s' ∧ OnlyStrand s s' sn { u with str := { u.str with queue := { e with flying := e.flying - 1 } :: q } }) ∧
        (∀ b, arr ≠ 0 → Serves s.mem t (winSlot arr) b → (t.slot (winSlot arr)).zero = false → ∃ s', exec .ackReturn s = .next s' ∧
          OnlyStrand (s.setMem (s.mem.arrive b (winOff arr) n (e.status % 2 ^ 32))) s' sn { u with str := { u.str with queue := { e with flying := e.flying - 1 } :: q } }))) ∧
    (t.seq.acks[s.agent.b]? = none → exec .ackReturn s = .next s) ∧
    (∀ a n sg p pa r m, t.seq.loads.find? (fun x => decide (x.id = s.agent.b)) = some a → a.kind = .load n sg → a.parts = [p] → p.place = .frame pa →
      p.done = false → p.ro = false → p.l1 = false → t.blocked a.seq false p = false → s.homeRead (coreOfSn sn) (t.who sn 0 a.rc a.id) p = .ok r m → r.passed = none →
      ∃ s' t' y, exec .sliceAccess s = .next s' ∧ s'.strand? sn = some t' ∧ (∀ k, k ≠ sn → s'.strand? k = s.strand? k) ∧ s'.mem = m ∧ RegsKept t t' ∧
        t'.seq.pc = t.seq.pc ∧ t'.seq.loads.find? (fun x => decide (x.id = s.agent.b)) = some y ∧ allDone y.parts = true ∧ partBytes y.parts = r.old) ∧
    (∀ x p, t.seq.loads.find? (fun x => decide (x.id = s.agent.b)) = none → t.seq.stores.find? (fun x => decide (x.id = s.agent.b)) = some x → x.rc = true →
      t.seq.wait = .check x.id → x.parts = [p] → p.done = false → t.blocked x.seq false p = false →
      (∀ r m, s.mem.at s.clock (t.who sn 0 true x.id) .write p.place p.n (fun _ => p.data) = .ok r m → r.passed = none → ∃ s' t', exec .sliceAccess s = .next s' ∧
        s'.strand? sn = some t' ∧ s'.mem = m ∧ RegsKept t t' ∧ t'.seq.pc = t.seq.pc ∧ t'.seq.wait = .checked none) ∧
      (∀ c m, s.mem.at s.clock (t.who sn 0 true x.id) .write p.place p.n (fun _ => p.data) = .race c m → ∃ s' t', exec .sliceAccess s = .next s' ∧
        s'.strand? sn = some t' ∧ s'.mem = m ∧ RegsKept t t' ∧ t'.seq.pc = t.seq.pc ∧
        t'.seq.wait = .checked (some (c.osn, c.oseq, c.kind, c.oatom, c.gran)))) ∧
    (∀ x, t.seq.trap.raised = [] → t.seq.stores.find? (·.rc) = some x →
      (t.seq.wait = .checked none → ∃ s' t', exec .raceCheckReply s = .next s' ∧ OnlyStrand s s' sn t' ∧ RegsKept t t' ∧ t'.seq.pc = t.seq.pc + 4#64 ∧
        t'.seq.ctl = t.seq.ctl.counted ∧ t'.seq.wait = .none ∧ t'.seq.stores = t.seq.stores.filter (fun y => decide (y.id ≠ x.id))) ∧
      (∀ osn oseq kind oatom gran, t.seq.wait = .checked (some (osn, oseq, kind, oatom, gran)) → t.run = .running → Handles t →
        ∃ s' t', exec .raceCheckReply s = .next s' ∧ OnlyStrand s s' sn t' ∧ RegsKept t t' ∧ t'.seq.pc = t.seq.trap.tvec &&& ~~~3#64 ∧
          t'.seq.trap.tcause = 0x08#64 ∧ t'.seq.trap.tpc = t.seq.pc &&& ~~~3#64 ∧ t'.seq.trap.intrap = true ∧
          t'.seq.trap.tval = BitVec.ofNat 64 (max x.va (x.va / 128 * 128 + 32 * (gran % 4))) ∧ t'.seq.ctl.retired = t.seq.ctl.retired ∧
          t'.seq.ctl.raceinfo = raceInfoOf osn oseq kind oatom 0 gran ∧ t'.seq.stores = t.seq.stores.filter (fun y => decide (y.id ≠ x.id)))) ∧
    (inWindow t.seq.pc.toNat = true → Handles t → RaisesInto .fetchFault s sn t 0x07 0 0 t.seq.pc.toNat)

/-- R129, R130: a slice enters the sequence of the oldest broadcast of a strand number that has not reached it, and the broadcast ends with the last slice; a sweep
empties the entries of released regions on its slice's lines and keeps every other entry, every line and its data. -/
def Obligations.ReleaseWork : Prop :=
  ∀ s : State,
    (∀ pre r post, s.mem.rel = pre ++ r :: post → (∀ x ∈ pre, ¬ (x.sn = s.agent.a ∧ s.agent.b ∈ x.left)) → r.sn = s.agent.a → s.agent.b ∈ r.left →
      ∃ s', exec .rseqEntry s = .next s' ∧ s'.mem.rseqAt s.agent.b s.agent.a = r.seq ∧ s'.strands = s.strands ∧ s'.mem.lines = s.mem.lines ∧
        s'.mem.dram = s.mem.dram ∧ s'.mem.rel = pre ++ (if ∀ x ∈ r.left, x = s.agent.b then [] else [{ r with left := r.left.filter (fun x => decide (x ≠ s.agent.b)) }]) ++ post) ∧
    ∃ s', exec .raceSweep s = .next s' ∧ s'.strands = s.strands ∧ s'.mem.dram = s.mem.dram ∧ s'.mem.lines.length = s.mem.lines.length ∧
      ∀ (i : Nat) (l : Line), s.mem.lines[i]? = some l → ∃ l', s'.mem.lines[i]? = some l' ∧ (l.slice ≠ s.agent.a → l' = l) ∧ l'.data = l.data ∧ l'.name = l.name ∧
        l'.way = l.way ∧ l'.dirty = l.dirty ∧ (l.slice = s.agent.a → ∀ (k : Nat) (r : Race), l.races[k]? = some r → ∃ r', l'.races[k]? = some r' ∧ r'.ovf = r.ovf ∧
          (∀ w, r'.writer = some w ↔ r.writer = some w ∧ s.mem.released l.slice w.sn w.seq = false) ∧
          (∀ e, e ∈ r'.readers ↔ e ∈ r.readers ∧ s.mem.released l.slice e.1 e.2 = false))

/-- R307, R308, R309, R315, R317, R391: a part is backed at the frame its list gives, and none of its lines stays; while the list is empty each access held on it is
reported once, and one held for 210,000 ck escalates with cause 0x11. A mask change, which S mode commands, is checked before any slice; a set's lines leave the ways that the new masks do
not give; the last set of a slice writes its SLWAY; a wait of 210,000 ck for a frame ends it with ERR 4.
The model's choice: the entries of the mask change's walk (log 33). -/
def Obligations.SpillAndMask : Prop :=
  ∀ s : State,
    (∀ x, s.mem.spills[s.agent.a]? = some x → (∀ y ∈ s.mem.spills.take s.agent.a, ¬ (y.part = x.part ∧ y.die = x.die)) →
      (∀ f m n, s.mem.takeFrame x.part x.die = some (some f, m) → m.backAt x.part x.vpart x.entry f = some n → ∃ s', exec .backPart s = .next s' ∧
        s'.strands = s.strands ∧ s'.mem.spills = n.spills.eraseIdx s.agent.a ∧ s'.mem.dram = n.dram ∧
        ∀ l ∈ s'.mem.lines, ¬ (l.unb = true ∧ l.part = x.part ∧ l.vpart = x.vpart)) ∧
      (∀ m, s.mem.takeFrame x.part x.die = some (none, m) → m.spills[s.agent.a]? = some x → ∃ s', exec .backPart s = .next s' ∧ s'.strands = s.strands ∧
        s'.mem.lines = m.lines ∧ s'.mem.reports = m.reports ++ (x.held.filter (fun h => !h.reported)).map (fun h => Report.unbackedSpill h.sn h.path)) ∧
      (s.mem.takeFrame x.part x.die = none → exec .backPart s = .next s) ∧
      (∀ h t, s.mem.listEmpty x.part x.die = true → x.held = [h] → s.strand? h.sn = some t → t.run = .running →
        (h.since + 210000 ≤ s.clock → ∃ s' t', exec .spillTimeout s = .next s' ∧ s'.strand? h.sn = some t' ∧ t'.run = .halted .keep ∧ RegsKept t t' ∧
          t'.seq.pc = t.seq.pc ∧ t'.seq.trap.tcause = 0x11#64 ∧ Report.escalation h.sn ∈ s'.mem.reports) ∧
        (s.clock < h.since + 210000 → ∃ s', exec .spillTimeout s = .next s' ∧ s'.strands = s.strands))) ∧
    (∀ v : BitVec 64, Firmware s 1 → bitOf (cfgGet s.mem.cfg offSlwstat) 0 = false → v.getLsbD 63 = true →
      let sl := bitsOf v.toNat 48 8
      ((11 < bitsOf v.toNat 40 4 ∨ (192 ≤ sl ∧ sl < 255) ∨ (bitsOf v.toNat 16 16) &&& (bitsOf v.toNat 0 16) ≠ bitsOf v.toNat 16 16) →
        ∃ s', exec (.slwcmdGo v) s = .next s' ∧ s'.mem.mask = none ∧ s'.mem.lines = s.mem.lines ∧
          cfgGet s'.mem.cfg offSlwstat = (if sl = 255 then 0 else sl) * 256 + 2) ∧
      (bitsOf v.toNat 40 4 ≤ 11 → (sl < 192 ∨ sl = 255) → (bitsOf v.toNat 16 16) &&& (bitsOf v.toNat 0 16) = bitsOf v.toNat 16 16 →
        ∃ s', exec (.slwcmdGo v) s = .next s' ∧ s'.mem.lines = s.mem.lines ∧ bitOf (cfgGet s'.mem.cfg offSlwstat) 0 = true ∧
          s'.mem.mask = some ⟨bitsOf v.toNat 40 4, bitsOf v.toNat 0 16, bitsOf v.toNat 16 16, decide (sl = 255), if sl = 255 then 0 else sl, 0, none⟩)) ∧
    (∀ v : BitVec 64, (Firmware s 1 → (bitOf (cfgGet s.mem.cfg offSlwstat) 0 = true ∨ v.getLsbD 63 = false) → exec (.slwcmdGo v) s = .next s) ∧
      StoreFaults (.slwcmdGo v) s 1 offSlwcmd) ∧
    (∀ c, s.mem.mask = some c → c.wmask ≠ 0 → c.umask ≠ 0 → c.part < 12 → c.slice < 192 →
      (∀ l ∈ s.mem.lines, l.part = c.part → l.slice = c.slice → l.set = c.set → l.unb = false ∧ l.pinned = false) →
      (∀ l ∈ s.mem.lines, l.slice = c.slice → l.set = c.set → s.mem.devOpen (128 * l.name) = true) →
      ∃ s', exec .maskChangeSet s = .next s' ∧ s'.strands = s.strands ∧
        (∀ l ∈ s'.mem.lines, l ∈ s.mem.lines ∧ (l.part = c.part → l.slice = c.slice → l.set = c.set → bitOf c.wmask l.way = true)) ∧
        (c.set < 1023 → s'.mem.mask = some { c with set := c.set + 1, waitSince := none }) ∧
        (c.set = 1023 → c.all = false → s'.mem.mask = none ∧ cfgGet s'.mem.cfg (offSlway c.part c.slice) = c.umask * 65536 + c.wmask)) ∧
    (∀ c k, s.mem.mask = some c → c.waitSince = some k →
      (k + 210000 ≤ s.clock → s.mem.listEmpty c.part (c.slice / 48) = true → ∃ s', exec .maskChangeFrameTimeout s = .next s' ∧ s'.strands = s.strands ∧
        s'.mem.mask = none ∧ cfgGet s'.mem.cfg offSlwstat = c.slice * 256 + 8 ∧ s'.mem.lines = s.mem.lines) ∧
      (s.clock < k + 210000 → exec .maskChangeFrameTimeout s = .next s))

/-- R316, R330, R341, R346, R348, R391: a store by S mode has its effect, and one by U mode faults: TAIL takes the value written while its count fits the list, and HEAD stays; HOSTEN is refused, with REF, while an instance of the partition
uses an operator the portal cannot carry; an invalidation starts once, and completes by dropping every cached translation of its range when no access
of a page that it drops is still to be performed;
a flush advances GEN and discards the fault records that wait to be written; a failed copy of a remap table is used no more, and a second takes the pseudo-channel offline. -/
def Obligations.RegisterActs : Prop :=
  ∀ s : State,
    (∀ p d (v : BitVec 64) n, p < 12 → d < 4 → n = 2 ^ (ringLogn (cfgGet s.mem.cfg (offRsvcfg p d)) + 1) → Firmware s 1 → ∃ s', exec (.rsvptrTailWrite p d v) s = .next s' ∧
      s'.strands = s.strands ∧ s'.mem.lines = s.mem.lines ∧ s'.mem.dram = s.mem.dram ∧
      bitsOf (cfgGet s'.mem.cfg (offRsvptr p d)) 32 16 = bitsOf (cfgGet s.mem.cfg (offRsvptr p d)) 32 16 ∧
      bitsOf (cfgGet s'.mem.cfg (offRsvptr p d)) 0 16 =
        (if (bitsOf v.toNat 0 16 % n + n - bitsOf (cfgGet s.mem.cfg (offRsvptr p d)) 32 16 % n) % n ≤ n / 2 then bitsOf v.toNat 0 16
         else bitsOf (cfgGet s.mem.cfg (offRsvptr p d)) 0 16)) ∧
    (∀ p (v : BitVec 64), Firmware s 1 → ∃ s', exec (.portctlHostenWrite p v) s = .next s' ∧ s'.strands = s.strands ∧ s'.insts = s.insts ∧
      (v.getLsbD 0 = true → (∃ e ∈ s.insts, e.2.part = p ∧ aopForeign e.2.aopset = true) →
        bitOf (cfgGet s'.mem.cfg (offPortctl p)) 1 = true ∧ bitOf (cfgGet s'.mem.cfg (offPortctl p)) 0 = bitOf (cfgGet s.mem.cfg (offPortctl p)) 0) ∧
      ((v.getLsbD 0 = false ∨ ∀ e ∈ s.insts, e.2.part = p → aopForeign e.2.aopset = false) → cfgGet s'.mem.cfg (offPortctl p) = if v.getLsbD 0 then 1 else 0)) ∧
    (∀ p (v : BitVec 64), Firmware s 1 →
      (v.getLsbD 63 = true → bitOf (cfgGet s.mem.cfg (offXinv p)) 61 = false → ∃ s', exec (.xinvGo p v) s = .next s' ∧ s'.strands = s.strands ∧ s'.mem.tlb = s.mem.tlb ∧
        s'.mem.xinv = s.mem.xinv ++ [(p, bitsOf v.toNat 12 36, bitsOf v.toNat 0 2, v.getLsbD 62)] ∧ cfgGet s'.mem.cfg (offXinv p) = 2 ^ 61) ∧
      ((v.getLsbD 63 = false ∨ bitOf (cfgGet s.mem.cfg (offXinv p)) 61 = true) → exec (.xinvGo p v) s = .next s)) ∧
    (∀ p vpn sz all, s.agent.a = p → s.mem.xinv.find? (fun x => decide (x.1 = p)) = some (p, vpn, sz, all) →
      ((∀ e ∈ s.strands, partOfSn e.1 = p → e.2.usesPages (s.mem.dropsPage p vpn (xinvPages sz) all) = false) → ∃ s', exec .xinvComplete s = .next s' ∧ s'.strands = s.strands ∧
        cfgGet s'.mem.cfg (offXinv p) = 0 ∧ (∀ x ∈ s'.mem.xinv, x.1 ≠ p) ∧
        ∀ e, e ∈ s'.mem.tlb ↔ e ∈ s.mem.tlb ∧ ¬ (e.part = p ∧ (all = true ∨ e.covers vpn (xinvPages sz) = true))) ∧
      ((∃ e ∈ s.strands, partOfSn e.1 = p ∧ e.2.usesPages (s.mem.dropsPage p vpn (xinvPages sz) all) = true) → exec .xinvComplete s = .next s)) ∧
    (∀ p d v, StoreFaults (.rsvptrTailWrite p d v) s 1 (offRsvptr p d) ∧ StoreFaults (.portctlHostenWrite p v) s 1 (offPortctl p) ∧
      StoreFaults (.xinvGo p v) s 1 (offXinv p) ∧ StoreFaults (.fbctlFlush p) s 1 (offFbctl p)) ∧
    (∀ p, Firmware s 1 → ∃ s', exec (.fbctlFlush p) s = .next s' ∧ s'.mem.gen p = (s.mem.gen p + 1) % 2 ^ 32 ∧ s'.strands = s.strands ∧ s'.mem.tlb = s.mem.tlb ∧
      (∀ r ∈ s'.mem.recs, r.1 = p → r.2.1 = true) ∧ ∀ sn, partOfSn sn = p → s'.flushed sn (s.mem.gen p) = true) ∧
    (∀ st cp pc, st < 8 → pc < 128 →
      (2 * st + (cp + 1) % 2 ∉ s.mem.remapBad → ∃ s', exec (.remapTableError st cp pc) s = .next s' ∧ s'.mem.cfg = s.mem.cfg ∧ 2 * st + cp % 2 ∈ s'.mem.remapBad) ∧
      (2 * st + (cp + 1) % 2 ∈ s.mem.remapBad → ∃ s', exec (.remapTableError st cp pc) s = .next s' ∧
        bitOf (cfgGet s'.mem.cfg (offPcoff st (pc / 64))) (pc % 64) = true ∧ s'.mem.reports = s.mem.reports ++ [.remapCopies st pc]))

/-- R350, R391: each of the three writes of MGCTL by S mode with GO = 1 starts a job on an idle die, or ends at once with ERR 4 for a malformed one, and changes nothing while one
runs; a step copies one chunk, or waits
while an access of it must; a checkpoint read ends when every chunk is copied; a wait of 210,000 ck for a frame ends it with ERR 3.
The model's choice: the points of the walk the spec leaves open, as log 29 says. -/
def Obligations.MigrationWork : Prop :=
  ∀ s d (v : BitVec 64), ∀ i ∈ [Instr.mgctlMove d v, .mgctlCheckpointRead d v, .mgctlRehome d v],
    ((∀ j ∈ s.mem.migs, j.die ≠ d) → v.getLsbD 63 = true → Firmware s 1 →
      ((s.mem.mgJob d v.toNat).bad = false → ∃ s', exec i s = .next s' ∧ s'.mem.migs = s.mem.migs ++ [s.mem.mgJob d v.toNat] ∧
        cfgGet s'.mem.cfg (offMgctl d) = 2 ^ 62 ∧ s'.strands = s.strands ∧ s'.mem.lines = s.mem.lines ∧ s'.mem.dram = s.mem.dram) ∧
      ((s.mem.mgJob d v.toNat).bad = true → ∃ s', exec i s = .next s' ∧ s'.mem.migs = s.mem.migs ∧ cfgGet s'.mem.cfg (offMgctl d) = 4 ∧
        s'.strands = s.strands ∧ s'.mem.lines = s.mem.lines ∧ s'.mem.dram = s.mem.dram)) ∧
    (v.getLsbD 63 = true → (Firmware s 1 → (∃ j ∈ s.mem.migs, j.die = d) → exec i s = .next s) ∧ StoreFaults i s 1 (offMgctl d)) ∧
    (∀ j, v.getLsbD 63 = false → s.mem.migs = [j] → j.die = d → j.mode = 1 → j.dst ≠ 2 ^ 48 → j.queue = none →
      (∀ m, j.done < mgBytes j.size / 64 → s.mem.mgChunk j.part (j.src + 64 * j.done) (j.dst + 64 * j.done) = .ok (some m) → ∃ s', exec i s = .next s' ∧
        s'.strands = s.strands ∧ s'.mem.lines = m.lines ∧ s'.mem.dram = m.dram ∧ s'.mem.dpois = m.dpois ∧
        s'.mem.migs = m.migs.map (fun k => if k.die = d then { k with done := k.done + 1 } else k)) ∧
      (j.done < mgBytes j.size / 64 → s.mem.mgChunk j.part (j.src + 64 * j.done) (j.dst + 64 * j.done) = .ok none → exec i s = .next s) ∧
      (mgBytes j.size / 64 ≤ j.done → ∃ s', exec i s = .next s' ∧ s'.mem.migs = [] ∧ cfgGet s'.mem.cfg (offMgctl d) = 0 ∧ s'.mem.dram = s.mem.dram)) ∧
    (∀ j k, s.agent.a = d → s.mem.migs = [j] → j.die = d → j.waitSince = some k → j.queue = none →
      (k + 210000 ≤ s.clock → s.mem.listEmpty j.part j.ndie = true → ∃ s', exec .migrationFrameTimeout s = .next s' ∧ s'.mem.migs = [] ∧
        cfgGet s'.mem.cfg (offMgctl d) = 3 ∧ s'.mem.dram = s.mem.dram ∧ s'.strands = s.strands) ∧
      (s.clock < k + 210000 → exec .migrationFrameTimeout s = .next s))

/-- R328, R349, R413: a peer's atomic on a TICKET or segment of a group that its package is no member of is dropped and reported; another whose word can be reached is performed on the edge's copy, which is dirty then, and the old value goes back; one that cannot be reached
waits; a dirty entry is written to its word and stays, clean; the answer to a forwarded read fills the next part of its load, with poisoned zeros and a
report where it failed.
The model's choice: an atomic that is dropped has no reply, one that waits goes back to the inbox, and an update is one step (log 38); the answers to accesses of a
strand are numbered from 16 (log 12). -/
def Obligations.EdgeAndForward : Prop :=
  ∀ s : State,
    (∀ src pa op (b e : BitVec 64 × Bool) cas o w, peerAtom cas (op : BitVec 5).toNat = some (o, w) →
      (∀ d, s.edgeDrops src pa = some d → ∃ s', exec (.edgeAtomic src pa cas op b e) s = .next s' ∧ s'.mem = { s.mem with reports := s'.mem.reports } ∧
        Report.collectiveDrop d src ∈ s'.mem.reports ∧ s'.outs = s.outs ∧ s'.strands = s.strands) ∧
      (s.edgeDrops src pa = none → s.mem.edgeFetch (dieOfStack (stackOf pa)) (pa / 8 * 8) = none → ∃ s', exec (.edgeAtomic src pa cas op b e) s = .next s' ∧
        s'.mem = s.mem ∧ s'.outs = s.outs ∧ s'.inbox = s.inbox ++ [.event (.edgeAtomic src pa cas op b e) s.agent.a s.agent.b s.agent.c]) ∧
      (∀ x m, s.edgeDrops src pa = none → s.mem.edgeFetch (dieOfStack (stackOf pa)) (pa / 8 * 8) = some (x, m) →
        ∃ s' y, exec (.edgeAtomic src pa cas op b e) s = .next s' ∧ s'.strands = s.strands ∧
          s'.outs = s.outs ++ [.reply src (pbNat (slice x.word (pa % 8) (w / 8))) (pbPois (slice x.word (pa % 8) (w / 8)))] ∧
          y ∈ s'.mem.edge ∧ y.die = dieOfStack (stackOf pa) ∧ y.pa = pa / 8 * 8 ∧ y.dirty = true ∧ y.since = s.clock ∧
          y.word = splice x.word (pa % 8) ((⟨o, w, b.1.toNat % 2 ^ w, b.2, e.1.toNat % 2 ^ w, e.2, false, none, false, false⟩ : Atom).apply
            (slice x.word (pa % 8) (w / 8))) ∧
          s'.mem.lines = m.lines ∧ s'.mem.dram = m.dram)) ∧
    (∀ x, (s.mem.edge.filter (fun e => decide (e.die = s.agent.a)))[s.agent.b]? = some x →
      (x.dirty = true → ∀ m, Mem.ownWrite { s.mem with edge := [] } 12 x.pa x.word = some m → ∃ s', exec .edgeWriteback s = .next s' ∧ s'.strands = s.strands ∧
        s'.mem.edge = s.mem.edge.map (fun e => if e = x then { e with dirty := false } else e) ∧ s'.mem.dram = m.dram ∧ s'.mem.lines = m.lines) ∧
      ((x.dirty = false ∨ Mem.ownWrite { s.mem with edge := [] } 12 x.pa x.word = none) → exec .edgeWriteback s = .next s)) ∧
    (∀ sn id (ok : Bool) (data : List (BitVec 8 × Bool)) t a n sg p loc addr va, s.strand? sn = some t → 16 ≤ id →
      t.seq.loads.find? (fun x => decide (x.id = id)) = some a → a.kind = .load n sg → a.parts = [p] → p.done = false → p.place = .fwd loc addr va →
      t.blocked a.seq false p = false →
      ∃ s' t' y, exec (.forwardedAccess sn id ok data) s = .next s' ∧ s'.strand? sn = some t' ∧ RegsKept t t' ∧ t'.seq.pc = t.seq.pc ∧ t'.seq.ctl = t.seq.ctl ∧
        t'.seq.loads.find? (fun x => decide (x.id = id)) = some y ∧ allDone y.parts = true ∧
        partBytes y.parts = (if ok then (List.range p.n).map (fun k => data.getD k (0, false)) else List.replicate p.n (0, true)) ∧
        (ok = false → Report.linkError sn ∈ s'.mem.reports))

/-- R364, R365, R367, R368, R372, R376, R391, R398: the front end reads TAIL, and stops a queue that is overrun or whose next packet is malformed; FENCE passes with RIDX
after it; a WAIT passes once its test holds and stays until then; SIGNAL passes with its update; RUN lets a stopped queue go on, SKIP completes the packet at its HEAD
with an error, from firmware of S mode or a bound function; from others they have no effect.
The model's choice: one packet's start and its completion are steps of their own (log 28). -/
def Obligations.QueueWork : Prop :=
  (∀ s q l s1, s.qOn q = true → (s.queue q).pkts = [] → ((s.queue q).st = .idle ∨ (s.queue q).st = .active) → s.qGet q 0 8 = some (l, s1) → ∀ tail, tail = ofBytes l →
    (2 ^ s1.qLogn q < (tail + 2 ^ 64 - (s.queue q).ridx % 2 ^ 64) % 2 ^ 64 → ∃ s', exec (.queueTailNotice q) s = .next s' ∧
      s'.queue q = { s.queue q with tail := tail, st := .stopped, err := 0x0C } ∧ s'.mem = s1.mem ∧ s'.strands = s.strands) ∧
    ((tail + 2 ^ 64 - (s.queue q).ridx % 2 ^ 64) % 2 ^ 64 ≤ 2 ^ s1.qLogn q →
      (tail = (s.queue q).head → ∃ s', exec (.queueTailNotice q) s = .next s' ∧ s'.queue q = { s.queue q with tail := tail, st := .active } ∧
        s'.mem = s1.mem ∧ s'.strands = s.strands) ∧
      (∀ s2 b r, s2 = s1.setQueue q { s.queue q with tail := tail, st := .active } → s2.qReads q = true → s2.qTake q = some (b, r) → s2.qSkips q b = false →
        (pktOk b = true → exec (.queueTailNotice q) s = .next s2) ∧
        (pktOk b = false → ∃ s', exec (.queueTailNotice q) s = .next s' ∧
          s'.queue q = { s.queue q with tail := tail, st := .stopped, err := 0x01 } ∧ s'.strands = s.strands)))) ∧
  (∀ s q b r, PacketAt s q b 2 r → ∃ s', exec .fencePacket s = .next s' ∧ PacketGone s s' q ∧ (s'.queue q).ridx = ((s.queue q).head + 1) % 2 ^ 64 ∧
    (s'.queue q).done = [(s.queue q).head] ∧ s'.strands = s.strands ∧ s'.waiting = s.waiting) ∧
  (∀ s q b r v s1, PacketAt s q b 3 r → (s.queue q).parked = none → r.sigUse (r.qPart q) (fld b 8 8) false id = .ok v s1 → ∀ i ∈ [Instr.wait, .waitTest],
    (waitHolds (fld b 24 1) (fld b 16 8) v = true → ∃ s', exec i s = .next s' ∧ PacketGone s s' q ∧ s'.strands = s.strands) ∧
    (waitHolds (fld b 24 1) (fld b 16 8) v = false → ∃ s', exec i s = .next s' ∧ s'.queue q = s.queue q ∧ s'.mem = s1.mem)) ∧
  (∀ s q b r u s1 v s2, PacketAt s q b 4 r → u = r.qStart q (s.queue q).head 4 0 .started → u.qGet q (u.qOff q (s.queue q).head) 64 = some (b, s1) →
    s1.sigUse (u.qPart q) (fld b 8 8) true (sigOp (fld b 24 1) (fld b 16 6)) = .ok v s2 →
    ∃ s', exec .signal s = .next s' ∧ PacketGone s s' q ∧ s'.mem = s2.mem ∧ s'.strands = s.strands) ∧
  (∀ s q,
    (QctlMay s q →
      ((s.queue q).st = .stopped → ∃ s', exec (.qctlRun q) s = .next s' ∧ s'.queue q = { s.queue q with st := .active, parked := none } ∧ s'.mem = s.mem) ∧
      ((s.queue q).st ≠ .stopped → exec (.qctlSkip q) s = .next s ∧ ∃ s', exec (.qctlRun q) s = .next s' ∧ s'.queue q = s.queue q ∧ s'.mem = s.mem) ∧
      (∀ b r, (s.queue q).st = .stopped → (s.queue q).pkts = [] → (s.queue q).head ≠ (s.queue q).tail → s.qTake q = some (b, r) → fld b 56 8 = 0 →
        ∃ s', exec (.qctlSkip q) s = .next s' ∧ PacketGone s s' q ∧ s'.strands = s.strands) ∧
      ((s.queue q).st = .stopped → s.qTake q = none → exec (.qctlSkip q) s = .next (s.again (.qctlSkip q)))) ∧
    (s.agent.b = 0 → StoreFaults (.qctlRun q) s 1 (offQctl q) ∧ StoreFaults (.qctlSkip q) s 1 (offQctl q)) ∧
    (s.agent.b ≠ 0 → ¬ QctlMay s q → exec (.qctlRun q) s = .next s ∧ exec (.qctlSkip q) s = .next s))

/-- R340, R343, R367, R372, R415: MIGRATE of a page with a fitting leaf gives its die's engine the job, with a frame or waiting for one, and fails without a leaf; HASHSET from a queue
with authority begins a rewrite, whose rows take effect when it is done; MEMBER packets change the member's STATE and GENERATION where what they require holds; without authority HASHSET
and MEMBER complete at once with no effect. A packet one of whose reads waits stays.
The model's choice: the device's own reads leave no line (log 8). -/
def Obligations.ConfigPackets : Prop :=
  (∀ s q b r w m, PacketAt s q b 5 r → r.mem.doWalk (r.qPart q) (fld b 8 8) = (w, m) →
    (w.1 = .wait → exec .migrate s = .next r) ∧
    (w.1 ≠ .wait → m.leafAt (r.qPart q) (fld b 8 8) = none → ∃ s', exec .migrate s = .next s' ∧ PacketGone s s' q ∧ s'.mem.migs = s.mem.migs) ∧
    (∀ ent e lvl u, w.1 ≠ .wait → m.leafAt (r.qPart q) (fld b 8 8) = some (ent, e, lvl) → lvl = fld b 16 1 → (⟨e, lvl⟩ : Leaf).loc = 0 →
      (⟨e, lvl⟩ : Leaf).ub = false → fld b 17 1 = 0 → (∀ j ∈ s.mem.migs, j.die ≠ (⟨e, lvl⟩ : Leaf).home) →
      u = (r.setMem m).qStart q (s.queue q).head 5 0 .started →
      (u.mem.takeFrame (r.qPart q) (fld b 18 1) = none → exec .migrate s = .next r) ∧
      (∀ (x : Option Nat) (n : Mem) (job : MigJob), u.mem.takeFrame (r.qPart q) (fld b 18 1) = some (x, n) →
        job = ⟨(⟨e, lvl⟩ : Leaf).home, 0, lvl, fld b 18 1, r.qPart q, ent, bitsOf e 12 27 * 4096, x.getD (2 ^ 48), fld b 8 8, 0,
          if x.isSome then none else some s.clock, some (q, (s.queue q).head)⟩ → (x.isSome = true → job.bad = false) →
        ∃ s', exec .migrate s = .next s' ∧ PacketStarted s s' q 5 ∧ s'.mem.migs = n.migs ++ [job] ∧ s'.strands = s.strands))) ∧
  (∀ s q b r, PacketAt s q b 6 r →
    (r.qAuth q = true → ∃ s', exec .hashset s = .next s' ∧ PacketStarted s s' q 6 ∧
      s'.mem.rewrites = s.mem.rewrites ++ [⟨fld b 8 1, (List.range 7).map (fun i => fld b (16 + 4 * i) 4), q, (s.queue q).head⟩]) ∧
    (r.qAuth q = false → ∃ s', exec .hashset s = .next s' ∧ PacketGone s s' q ∧ s'.mem.rewrites = s.mem.rewrites)) ∧
  (∀ (s : State) r, s.mem.rewrites.find? (fun r => decide (r.stack = s.agent.a)) = some r → InProgress s r.queue r.idx 6 → ∃ s', exec .hashsetDone s = .next s' ∧
    (∀ i, i < 7 → s'.mem.hmrow r.stack i = r.rows.getD i 0) ∧ s'.mem.rewrites = s.mem.rewrites.erase r ∧ (s'.queue r.queue).pkts = [] ∧
    r.idx ∈ (s'.queue r.queue).done ∧ s'.strands = s.strands) ∧
  (∀ s q b d e l m, PacketAt s q b 7 s → s.qHost q = true → d = fld b 8 8 → e = d + 64 + 32 * fld b 16 2 → s.mem.ownOpen 12 d 64 = true → s.mem.ownOpen 12 e 32 = true →
    s.mem.ownReads 12 [(d, 64), (e, 32)] = some (l, m) →
    (s.qAuth q = true → fld b 18 1 = 0 → m.rd (e + 2) 1 = 1 → ∃ s', exec .memberRemove s = .next s' ∧ PacketGone s s' q ∧
      s'.mem = (m.wr (e + 2) 1 2).wr d 4 (((m.wr (e + 2) 1 2).rd d 4 + 1) % 2 ^ 32) ∧ d ∈ s'.groups) ∧
    (s.qAuth q = true → fld b 18 1 = 0 → m.rd (e + 2) 1 ≠ 1 → ∃ s', exec .memberRemove s = .next s' ∧ PacketGone s s' q ∧ s'.mem = m) ∧
    (s.qAuth q = true → fld b 18 1 = 1 → m.rd (e + 2) 1 = 2 → (m.rd (d + 56) 8 + 2 ^ 64 - m.rd (e + 24) 8) % 2 ^ 64 ≤ 4096 → ∃ s' g, exec .memberAdmit s = .next s' ∧
      PacketGone s s' q ∧ g = (m.rd d 4 + 1) % 2 ^ 32 ∧ s'.mem =
        ((((m.wr e 2 (m.rd (e + 16) 2)).wr (e + 2) 1 1).wr d 4 g).wr (e + 4) 4 g).wr (e + 8) 8 (g * 2 ^ 32 + (m.rd (d + 56) 8 + 2 ^ 64 - 1) % 2 ^ 32)) ∧
    (s.qAuth q = true → fld b 18 1 = 1 → (m.rd (e + 2) 1 ≠ 2 ∨ 4096 < (m.rd (d + 56) 8 + 2 ^ 64 - m.rd (e + 24) 8) % 2 ^ 64) →
      ∃ s', exec .memberAdmit s = .next s' ∧ PacketGone s s' q ∧ s'.mem = m) ∧
    (s.qAuth q = false → ∀ i ∈ [(Instr.memberRemove, 0), (.memberAdmit, 1)], fld b 18 1 = i.2 → ∃ s', exec i.1 s = .next s' ∧ PacketGone s s' q ∧ s'.mem = m))

/-- R37, R38, R203, R330, R371, R372, R380, R384: a LAUNCH whose image passes its checks waits for a candidate, and one that fails completes; the launch that is taken starts its instance at
the candidate's origin, and is refused if it needs an operator that a HOSTEN set since cannot carry; a launch is promoted after 2^20 ck at its level; a saved strand is restored as its
image slot gives it, in a new region. What needs an access that waits stays as it was.
The model's choice: an instance is privileged when its launch waited in a queue numbered 4096 and up (log 28), and a restored strand is what the image's
sections give, in the layout of log 10. -/
def Obligations.LaunchWork : Prop :=
  (∀ s q b r, PacketAt s q b 1 r →
    (r.touchHead (r.qPart q) (fld b 8 8) = none → exec .launch s = .next s) ∧
    (∀ u, r.touchHead (r.qPart q) (fld b 8 8) = some u →
      (u.launchError (r.qPart q) b = 0 → ∃ s', exec .launch s = .next s' ∧ PacketStarted s s' q 1 ∧ s'.strands = s.strands ∧
        s'.waiting = s.waiting ++ [⟨r.qPart q, q, (s.queue q).head, b, fld b 27 1, s.clock, none, false⟩]) ∧
      (u.launchError (r.qPart q) b ≠ 0 → ∃ s', exec .launch s = .next s' ∧ PacketGone s s' q ∧ s'.strands = s.strands ∧ s'.waiting = s.waiting))) ∧
  (∀ (s : State) p w ox oy, s.agent.a = p →
    (s.winner p = none → exec .launchPlace s = .next s) ∧
    (s.moving p = true → exec .launchPlace s = .next s) ∧
    (∀ im, s.winner p = some (w, (ox, oy)) → s.moving p = false → w.kinst = none → s.image w.part (fld w.pkt 8 8) = some im →
      (s.mem.hosten w.part && aopForeign im.aopset) = true → ∃ s', exec .launchPlace s = .next s' ∧ s'.waiting = s.waiting.erase w ∧
        s'.strands = s.strands ∧ s'.insts = s.insts) ∧
    (∀ im, s.winner p = some (w, (ox, oy)) → s.moving p = false → Quiet w.part s.mem → (∀ x ∈ s.mem.spills, x.part ≠ w.part) →
      (∀ v ∈ s.saved, v.part = w.part ∨ ∀ y ∈ v.banks, y.2.2 = none) → w.kinst = none → s.image w.part (fld w.pkt 8 8) = some im →
      (s.mem.hosten w.part && aopForeign im.aopset) = false → im.kind = 1 → ∃ s' k i, exec .launchPlace s = .next s' ∧ s'.waiting = s.waiting.erase w ∧
        s'.inst? k = some i ∧ i.ox = ox ∧ i.oy = oy ∧ i.part = w.part ∧ i.level = w.level ∧ i.logw = im.logw ∧ i.logh = im.logh ∧ i.start = s.clock ∧ i.give = bitOf im.flg 0 ∧ i.priv = decide (4096 ≤ w.queue) ∧
        i.pkt = some (w.queue, w.idx) ∧ (∀ j, j ≠ k → s'.inst? j = s.inst? j))) ∧
  (∀ (s : State) k i v ox oy, s.agent.a = k → s.inst? k = some i → i.move = true →
    (s.restoreSpot k = none → exec .restore s = .next s) ∧
    (s.restoreSpot k = some (ox, oy) → s.savedOf k = [v] → s.loadSaved v = none → exec .restore s = .next s) ∧
    (∀ t u, s.restoreSpot k = some (ox, oy) → s.savedOf k = [v] → v.banks = [] → s.loadSaved v = some (t, u) → (v.slot = none → t = v.strand) ∧ ∀ core sn, core = coreAt (ox + v.lin % 2 ^ i.logw) (oy + v.lin / 2 ^ i.logw) → sn = 4 * core + v.sidx →
      ∃ s' t', exec .restore s = .next s' ∧ s'.strand? sn = some t' ∧ t'.run = .running ∧ RegsKept t t' ∧ t'.seq.pc = t.seq.pc ∧
        t'.seq.trap = t.seq.trap ∧ t'.seq.ctl.cseq = (tblGet 0 s.rseqs sn + 1) % 256 ∧ t'.arrx = t.arrx ∧ t'.mx = t.mx ∧
        s'.inst? k = some { i with ox := ox, oy := oy, start := s.clock, count := 0, move := false })) ∧
  (∀ (s : State) w, s.waiting[s.agent.b]? = some w →
    (w.part = s.agent.a → 0 < w.level → w.since + 2 ^ 20 ≤ s.clock → ∃ s', exec .priorityPromotion s = .next s' ∧ { s' with waiting := s.waiting } = s ∧
      s'.waiting[s.agent.b]? = some { w with level := w.level - 1, since := s.clock } ∧ ∀ k, k ≠ s.agent.b → s'.waiting[k]? = s.waiting[k]?) ∧
    ((w.level = 0 ∨ s.clock < w.since + 2 ^ 20) → exec .priorityPromotion s = .next s))

/-- R39, R40, R42, R43, R374, R375, R384, R405: a strand that is pre-empted, and each of an instance that is moved, compacted or has run its quantum, halts with its registers and PC as
they were, if its instance is not privileged and image slots are free; its save ends its region, then, in an entry of the schedule that admits its partition (R34), takes it from its
core, its state in its record. An operation whose result is on its way is abandoned: registers, PC and control registers are as they were before it (R180).
The model's choice: the save waits for its release's broadcast (log 25). -/
def Obligations.PreemptWork : Prop :=
  (∀ s sn t, s.strand? sn = some t →
    (t.run = .running → t.secp = false → s.slotsFree (partOfSn sn) ≠ 0 → ∃ s' t', exec (.preemptRequest sn) s = .next s' ∧ s'.strand? sn = some t' ∧
      t'.run = .halted .save ∧ RegsKept t.rollback t' ∧ t'.seq.pc = t.rollback.seq.pc ∧ (∀ k, k ≠ sn → s'.strand? k = s.strand? k) ∧
      { s'.mem with spills := s.mem.spills } = s.mem ∧
      ∃ w ∈ s'.waiting, w.kinst = some t.kinst) ∧
    ((t.run ≠ .running ∨ t.secp = true ∨ s.slotsFree (partOfSn sn) = 0) → exec (.preemptRequest sn) s = .next s)) ∧
  (∀ (s : State) k i, s.inst? k = some i →
    (s.mayPreempt k i = true → s.moving i.part = false → ∃ s', exec (.placerMove k) s = .next s' ∧ HaltsInst s s' k ∧ s'.inst? k = some { i with move := true } ∧
      { s'.mem with spills := s.mem.spills } = s.mem) ∧
    ((s.mayPreempt k i = false ∨ s.moving i.part = true) → exec (.placerMove k) s = .next s) ∧
    (∀ w x ns, s.agent.a = i.part → s.moving i.part = false → s.stuck i.part = some w → s.wants w = some (x, ns) → s.suffices x ns = true →
      s.compactPick i.part w.level (tblGet 0 s.turns (passKey i.part)) = some (k, i) → ∃ s', exec .compactionPass s = .next s' ∧ HaltsInst s s' k ∧
        s'.inst? k = some { i with move := true } ∧ { s'.mem with spills := s.mem.spills } = s.mem) ∧
    (∀ quant, s.agent.a = k → quant = bitsOf (cfgGet s.mem.cfg (offWdcfg i.part)) 40 16 →
      (quant ≠ 0 → i.start + quant * 65536 ≤ s.clock → s.mayPreempt k i = true →
        (∃ w ∈ s.competing i.part, w.level ≤ i.level ∧ s.spotFor w = none) → ∃ s', exec .quantumExpiry s = .next s' ∧ HaltsInst s s' k ∧ { s'.mem with spills := s.mem.spills } = s.mem ∧
          ∃ w ∈ s'.waiting, w.kinst = some k) ∧
      ((quant = 0 ∨ s.clock < i.start + quant * 65536) → exec .quantumExpiry s = .next s))) ∧
  (∀ (s : State) p, s.agent.a = p →
    (s.unplaced p = none → exec .priorityPreempt s = .next s) ∧
    (∀ w k, s.moving p = false → (∀ e ∈ s.strands, partOfSn e.1 = p → e.2.run ≠ .halted .save) → s.unplaced p = some w →
      s.victims w (s.lowerInsts p w) = some [k] → (s.standing k).length ≤ s.slotsFree p → s.mayPreempt k (s.instOf k) = true →
      ∃ s', exec .priorityPreempt s = .next s' ∧ HaltsInst s s' k ∧ { s'.mem with spills := s.mem.spills } = s.mem ∧ ∃ w ∈ s'.waiting, w.kinst = some k)) ∧
  (∀ s sn t, Runs s sn t → t.run = .halted .save → t.seq.trap.raised = [] →
    (s.replyFree sn t = false → exec .saveComplete s = .next s) ∧
    (s.replyFree sn t = true → t.seq.wait = .none → s.canRelease sn t = true → ∃ s' t', exec .saveComplete s = .next s' ∧ s'.strand? sn = some t' ∧ RegsKept t t' ∧
      t'.seq.ctl = { t.seq.ctl with rseq := t.seq.ctl.cseq, cseq := (t.seq.ctl.cseq + 1) % 256 } ∧ t'.seq.wait = .release t.seq.ctl.cseq) ∧
    (∀ q, t.seq.wait = .release q → (s.relDone sn q = false ∨ s.admits (partOfSn sn) = false) → exec .saveComplete s = .next s) ∧
    (∀ q n, s.replyFree sn t = true → t.seq.wait = .release q → s.freeSlot (partOfSn sn) = some n → s.relDone sn q = true → s.admits (partOfSn sn) = true → Quiet (partOfSn sn) s.mem →
      (s.instOf t.kinst).evict = false → ∃ s' v, exec .saveComplete s = .next s' ∧ s'.strand? sn = none ∧ (∀ k, k ≠ sn → s'.strand? k = s.strand? k) ∧
        s'.saved = s.saved ++ [v] ∧ RegsKept t v.strand ∧ v.strand.seq = (t.setWait .none).seq ∧ v.strand.arrx = t.arrx ∧ v.strand.mx = t.mx ∧ v.kinst = t.kinst ∧ v.lin = t.lin ∧ v.slot = some n ∧ v.kept = false)) ∧
  (∀ (t : Strand) lat (gd : Reg) v p u x, gd ≠ 0 → 1 < lat → t.pend gd = false → u = t.doneIn lat 4 gd v p →
    x = (u.mapSeq (fun q => { q with undo := Undo.of t u })).rollback → RegsKept t x ∧ x.seq.pc = t.seq.pc ∧ x.seq.ctl = t.seq.ctl ∧ x.seq.undo = none)

/-- R31, R156, R175, R369, R382, R386, R387, R388, R389, R391: a halted strand leaves its core, and the last one ends its instance; so does an escalation once no reply is outstanding; a hang, an
uncontained fault and PRECTL.RST make a partition reset due, which takes every strand and instance of the partition, drops its unbacked lines, and replays each of its queues from RIDX, with a report to each; EVICT halts an instance's
strands; FREE gives up what is kept of it; a write of PRECTL from U mode faults.
The model's choice: FREE acts on what is kept of an instance, not on the slots of one that waits to be restored (log 45); a queue replays whether it is enabled or
not (log 26); the image of an escalating strand is written after its region has ended, in an entry of the schedule that admits its partition (log 25, log 43). -/
def Obligations.EndsAndResets : Prop :=
  (∀ s sn t, Runs s sn t →
    (t.run = .running → t.seq.wait = .halted →
      ((∃ k u, k ≠ sn ∧ s.strand? k = some u ∧ u.kinst = t.kinst) → ∃ s', exec .strandEnd s = .next s' ∧ s'.strand? sn = none ∧
        (∀ k, k ≠ sn → s'.strand? k = s.strand? k) ∧ s'.insts = s.insts) ∧
      (s.standing t.kinst = [(sn, t)] → s.savedOf t.kinst = [] → ∃ s', exec .strandEnd s = .next s' ∧ s'.strand? sn = none ∧ s'.inst? t.kinst = none ∧
        (∀ k, k ≠ sn → s'.strand? k = s.strand? k) ∧ ∀ q idx, (s.instOf t.kinst).pkt = some (q, idx) → InProgress s q idx 1 →
          (s'.queue q).pkts = [] ∧ idx ∈ (s'.queue q).done)) ∧
    ((t.run ≠ .running ∨ t.seq.wait ≠ .halted) → exec .strandEnd s = .next s) ∧
    (∀ p, p = (s.instOf t.kinst).part → t.run = .halted .keep → s.standing t.kinst = [(sn, t)] → s.replyFree sn t = true → s.admits p = true →
      (s.slotsFree p ≠ 0 → t.seq.wait = .none → s.canRelease sn t = true → ∃ s' t', exec .escalation s = .next s' ∧ s'.strand? sn = some t' ∧ RegsKept t t' ∧
        t'.seq.ctl = { t.seq.ctl with rseq := t.seq.ctl.cseq, cseq := (t.seq.ctl.cseq + 1) % 256 } ∧ t'.seq.wait = .release t.seq.ctl.cseq ∧ s'.insts = s.insts) ∧
      (s.slotsFree p ≠ 0 → t.seq.wait = .none → s.canRelease sn t = false → exec .escalation s = .next s) ∧
      (∀ q, s.slotsFree p ≠ 0 → t.seq.wait = .release q → s.relDone sn q = false → exec .escalation s = .next s) ∧
      ((s.slotsFree p = 0 ∨ ∃ q, t.seq.wait = .release q ∧ s.relDone sn q = true) → Quiet (partOfSn sn) s.mem →
        ∃ s', exec .escalation s = .next s' ∧ s'.strand? sn = none ∧ s'.inst? t.kinst = none ∧ ∀ k, k ≠ sn → s'.strand? k = s.strand? k)) ∧
    ((s.replyFree sn t = false ∨ s.admits (s.instOf t.kinst).part = false) → exec .escalation s = .next s) ∧
    (t.run ≠ .halted .keep → exec .escalation s = .next s)) ∧
  (∀ (s : State) k i, s.inst? k = some i →
    (∀ limit, limit = bitsOf (cfgGet s.mem.cfg (offWdcfg i.part)) 0 40 → s.agent.a = k →
      (limit ≠ 0 → limit ≤ i.count → ∃ s', exec .hang s = .next s' ∧ Move.event .partitionReset i.part 0 0 ∈ s'.agenda ∧ s'.strands = s.strands ∧
        s'.mem.reports = s.mem.reports ++ [.hang k]) ∧
      ((limit = 0 ∨ i.count < limit) → exec .hang s = .next s)) ∧
    (∀ v : BitVec 64, v.getLsbD 63 = true → v.getLsbD 61 = true → bitsOf v.toNat 0 16 = k → Firmware s 1 →
      ((i.priv = true ∨ i.evict = true) → exec (.prectlEvict v) s = .next s) ∧
      (i.priv = false → i.evict = false → i.esc = none → s.standing k ≠ [] → (s.standing k).countP (fun e => decide (e.2.run = .running)) ≤ s.slotsFree i.part →
        ∃ s', exec (.prectlEvict v) s = .next s' ∧ HaltsInst s s' k ∧ s'.inst? k = some { i with evict := true, move := false } ∧ { s'.mem with spills := s.mem.spills } = s.mem))) ∧
  (∀ s p (h : BitVec 64),
    (p < 12 → hopsBad 8 h.toNat false = true → ∃ s', exec (.uncontainedFault p h) s = .next s' ∧ Move.event .partitionReset p 0 0 ∈ s'.agenda ∧
      s'.strands = s.strands ∧ s'.mem.reports = s.mem.reports ++ [.uncontained p h.toNat]) ∧
    (hopsBad 8 h.toNat false = false → exec (.uncontainedFault p h) s = .next s)) ∧
  (∀ s (v : BitVec 64), StoreFaults (.prectlRst v) s 1 offPrectl ∧ StoreFaults (.prectlEvict v) s 1 offPrectl ∧ StoreFaults (.prectlFree v) s 1 offPrectl) ∧
  (∀ s (v : BitVec 64), Firmware s 1 →
    (v.getLsbD 63 = true → v.getLsbD 62 = true → bitsOf v.toNat 16 4 < 12 → ∃ s', exec (.prectlRst v) s = .next s' ∧
      Move.event .partitionReset (bitsOf v.toNat 16 4) 0 0 ∈ s'.agenda ∧ s'.strands = s.strands ∧ s'.mem = s.mem) ∧
    ((v.getLsbD 63 = false ∨ v.getLsbD 62 = false) → exec (.prectlRst v) s = .next s) ∧
    (v.getLsbD 63 = true → v.getLsbD 60 = true → ∃ s', exec (.prectlFree v) s = .next s' ∧ { s' with saved := s.saved } = s ∧
      (∀ x ∈ s'.saved, x.kinst = bitsOf v.toNat 0 16 → x.kept = true → x.slot = none ∧ ∀ y ∈ x.banks, y.2.2 = none) ∧
      (∀ x ∈ s.saved, (x.kinst ≠ bitsOf v.toNat 0 16 ∨ x.kept = false) → x ∈ s'.saved))) ∧
  (∀ (s : State) p, s.agent.a = p → ∃ s', exec .partitionReset s = .next s' ∧ (∀ sn, partOfSn sn = p → s'.strand? sn = none) ∧
    (∀ sn, partOfSn sn ≠ p → s'.strand? sn = s.strand? sn) ∧ (∀ e ∈ s'.insts, e.2.part ≠ p) ∧
    (∀ l ∈ s'.mem.lines, l.unb = true → l.part ≠ p) ∧
    (∀ q, q < 4096 → s.qPart q = p → Report.partitionReset p q ∈ s'.mem.reports ∧ (s'.queue q).head = (s.queue q).ridx ∧ (s'.queue q).pkts = [] ∧
      (s'.queue q).done = (s.queue q).done ∧ ((s'.queue q).st = .active ∨ (s'.queue q).st = .replay)) ∧
    (∀ q, q < 4096 → s.qPart q ≠ p → s'.queue q = s.queue q))

/-- R391, R392, R398, R399, R400, R401, R403, R405, R409: a firmware store to a plain register takes effect from its mode on, and changes no other register; one of another size than 8, from a lower mode, or to an offset that is not listed, faults with no effect; PWRLIM
takes at most 2,600; a function-level reset leaves
every unit of the function uncleared, and the clear engine zeroes them; a key slot's registers are written only while it is IDLE, else REF is set; a scrub zeroes a unit and counts it; a
privileged launch waits in its partition.
The model's choice: a privileged launch waits as the work of a queue numbered 4096 and up (log 28), and a unit of a scrub is zeroed whole, in one step at the
end of its time (log 37). -/
def Obligations.FirmwareActs : Prop :=
  ∀ s : State,
    (cfgMode offPwrlim = some 3 ∧ cfgMode offSeclaunch = some 3 ∧ (∀ v, v < 6 → cfgMode (offPsched v) = some 3) ∧ (∀ k, k < 32 → cfgMode (offPctx k) = some 3 ∧ cfgMode (offKstat k) = some 3) ∧
      ∀ p, p < 12 → cfgMode (offPshare p) = some 1 ∧ cfgMode (offPtbase p) = some 1 ∧ cfgMode (offUbctl p) = some 1) ∧
    (∀ mode off (v : List (BitVec 8)), s.boot.st = 1 →
      (cfgMode off = none → exec (.cfgRegisterWrite mode off v) s = .next { s with outs := s.outs ++ [.cfgFault true off] }) ∧
      (∀ least, cfgMode off = some least → (mode < least ∨ v.length ≠ 8) → ∃ s', exec (.cfgRegisterWrite mode off v) s = .next s' ∧ s'.outs = s.outs ++ [.cfgFault true off] ∧
        { s' with outs := s.outs, agent := s.agent } = s)) ∧
    (∀ mode off (v : List (BitVec 8)) least x mask, s.boot.st = 1 → v.length = 8 → cfgMode off = some least → plainReg off = some (x, mask) →
      (least ≤ mode → ∃ s', exec (.cfgRegisterWrite mode off v) s = .next s' ∧ (∀ o, o ≠ off → cfgGet s'.mem.cfg o = cfgGet s.mem.cfg o) ∧
        (off = offPwrlim → cfgGet s'.mem.cfg off = min (maskIn (cfgGet s.mem.cfg off) mask (ofBytes v)) 2600) ∧
        (∀ p, p < 12 → off = offPshare p → cfgGet s'.mem.cfg off = maskIn (cfgGet s.mem.cfg off) mask (ofBytes v)) ∧
        { s' with agent := s.agent, mem := { s'.mem with cfg := s.mem.cfg } } = s)) ∧
    (∀ v, 1 ≤ v → v ≤ 192 → ∃ s', exec (.vfFlr v) s = .next s' ∧ (∀ x, x ∈ s'.mem.unclr ↔ (x.1 ≠ v ∧ x ∈ s.mem.unclr) ∨ x ∈ s.mem.vfUnits v) ∧
      cfgGet s'.mem.cfg (offVfclr v) = 0 ∧ s'.strands = s.strands ∧ s'.mem.dram = s.mem.dram) ∧
    (∀ v u, s.mem.unclr.find? (fun x => decide (x.1 = s.agent.a)) = some (v, u) → s.mem.devOpen u = true → ∃ s', exec .vfClearUnit s = .next s' ∧
      (v, u) ∉ s'.mem.unclr ∧ (∀ x ∈ s.mem.unclr, x ≠ (v, u) → x ∈ s'.mem.unclr) ∧ s'.strands = s.strands ∧
      (s.mem.keysAt u = [] → ∀ pa, tblGet 0 s'.mem.dram pa = if u ≤ pa ∧ pa < u + 65536 then 0 else tblGet 0 s.mem.dram pa) ∧
      ((∀ pa, u ≤ pa → pa < u + 65536 → s.mem.keyShut pa = true) → s'.mem.dram = s.mem.dram) ∧
      ∀ l ∈ s'.mem.lines, l.unb = true ∨ 128 * l.name < u ∨ u + 65536 ≤ 128 * l.name) ∧
    (∀ k r (v : BitVec 64) off, k < 32 → r < 512 → keyReg r = true → off = 0x80000 + 512 * k + r → StoreFaults (.keySlotRegWrite off v) s 3 off ∧
      (Firmware s 3 → s.mem.kst k = 0 → ∃ s', exec (.keySlotRegWrite off v) s = .next s' ∧ cfgGet s'.mem.cfg off = v.toNat &&& keyRegMask r ∧ s'.mem.kst k = 0 ∧
        bitOf (cfgGet s'.mem.cfg (offKstat k)) 8 = false) ∧
      (Firmware s 3 → s.mem.kst k ≠ 0 → ∃ s', exec (.keySlotRegWrite off v) s = .next s' ∧ cfgGet s'.mem.cfg off = cfgGet s.mem.cfg off ∧ s'.mem.kst k = s.mem.kst k ∧
        bitOf (cfgGet s'.mem.cfg (offKstat k)) 8 = true)) ∧
    (∀ k ks n b, s.mem.scrubs = k :: ks → n = bitsOf (cfgGet s.mem.cfg (offScrprog k)) 0 24 → (s.mem.scrubUnits k)[n]? = some (.bank b) →
      (s.mem.scrubAt + 1024 ≤ s.clock → ∃ s', exec .scrubUnit s = .next s' ∧ s'.strands = s.strands ∧ s'.mem.dram = s.mem.dram ∧
        (∀ c o, o < 65536 → s'.mem.bankByte c o = if c = b then (0, false) else s.mem.bankByte c o) ∧
        (n + 1 < bitsOf (cfgGet s.mem.cfg (offScrprog k)) 32 24 → k < 32 → s'.mem.scrubs = s.mem.scrubs ∧ s'.mem.scrubAt = s.clock ∧
          bitsOf (cfgGet s'.mem.cfg (offScrprog k)) 0 24 = n + 1)) ∧
      (s.clock < s.mem.scrubAt + 1024 → exec .scrubUnit s = .next s)) ∧
    (∀ (v : BitVec 64) p l m b u, Firmware s 3 → v.getLsbD 63 = true → p = bitsOf v.toNat 0 4 → p < 12 → s.mem.ownRead p (bitsOf v.toNat 6 52 * 64) 64 = some (l, m) →
      b = pbBytes l → (s.setMem m).touchHead p (fld b 8 8) = some u → pktOk b = true → fld b 0 1 = 1 → u.launchError p b = 0 → ∃ s', exec (.seclaunchGo v) s = .next s' ∧ s'.strands = s.strands ∧
        s'.waiting = s.waiting ++ [⟨p, 4096 + p, s.kcount, b, fld b 27 1, s.clock, none, false⟩]) ∧
    (∀ v : BitVec 64, StoreFaults (.seclaunchGo v) s 3 offSeclaunch ∧ (Firmware s 3 → v.getLsbD 63 = false → exec (.seclaunchGo v) s = .next s))

/-- R5, R394, R395, R396, R397: a package reset starts M mode at the first word of the image's body when the flash's image passes every check, with the alias key derived from UDS and DIGEST, else
recovery with the first that failed, with no strand standing and device memory and banks as they stood; in recovery an accepted image is written over the flash, after which the package resets;
a reset that interrupts the write leaves an image that fails; a refused one leaves RMFAIL; the fuse command raises MINVER; a report goes to the owner or to a function that is bound to a partition, and to nobody else, with its nonce, signed with the alias key.
The model's choice: device memory and banks keep their bytes over a package reset (log 1), the write of the flash begins with its MAGIC (log 27), and the
layout of a report's body, with function 0's as the owner's (log 11). -/
def Obligations.BootWork : Prop :=
  ∀ s : State,
    (∃ s', exec .packageReset s = .next s' ∧ s'.strands = [] ∧ s'.insts = [] ∧ s'.mem.dram = s.mem.dram ∧ s'.mem.banks = s.mem.banks ∧ s'.mem.sched = State.reset.mem.sched ∧
      s'.boot.minver = s.boot.minver ∧
      (s.boot.rmstat ≠ 2 → bootCheck s.boot.flash s.boot.minver = 0 → s'.boot.st = 1 ∧ s'.boot.failed = 0 ∧ s'.boot.mstart = some 0 ∧
        (∀ k, k < fld (imgBytes s.boot.flash 0 256) 8 8 → tblGet 0 s'.boot.fw k = tblGet 0 s.boot.flash (256 + k)) ∧
        s'.boot.digest = sm3 (imgBytes s.boot.flash 256 (fld (imgBytes s.boot.flash 0 256) 8 8)) ∧
        s'.boot.aliasKey = Config.sm2Key (digestOf (hmacSm3 (digestBytes Config.uds) (digestBytes s'.boot.digest)))) ∧
      (s.boot.rmstat ≠ 2 → bootCheck s.boot.flash s.boot.minver ≠ 0 → s'.boot.st = 2 ∧ s'.boot.failed = bootCheck s.boot.flash s.boot.minver ∧ s'.boot.mstart = none) ∧
      (s.boot.rmstat = 2 → s'.boot.st = 2 ∧ s'.boot.failed = 1)) ∧
    ((s.boot.st ≠ 2 ∨ s.boot.rmstat = 2) → exec .rmcmdVerify s = .next s) ∧
    (s.boot.st = 2 → s.boot.rmstat ≠ 2 → ∃ s' f, exec .rmcmdVerify s = .next s' ∧ f = bootCheck s.boot.staging s.boot.minver ∧
      s'.boot = { s.boot with rmstat := if f = 0 then 2 else 3, rmfail := f } ∧ { s' with boot := s.boot } = s) ∧
    (∀ ms, s.agenda = .flashWrite :: ms → s.boot.st = 2 → s.boot.rmstat = 2 → ∃ s', step s = .next s' ∧ s'.boot.flash = s.boot.staging ∧ s'.strands = [] ∧
      (bootCheck s.boot.staging s.boot.minver = 0 → s'.boot.st = 1)) ∧
    (s.boot.st = 1 → s.boot.minver < s.boot.version → ∃ s', exec .fuseMinver s = .next s' ∧ s'.boot = { s.boot with minver := s.boot.version } ∧
      { s' with boot := s.boot } = s) ∧
    ((s.boot.st ≠ 1 ∨ s.boot.version ≤ s.boot.minver) → exec .fuseMinver s = .next s) ∧
    (∀ nonce : BitVec 256,
      (s.boot.st = 1 → s.owner ≠ 0 → ∃ s' body sig k, exec (.attestationReport 0 nonce) s = .next s' ∧
        s'.outs = s.outs ++ [.report 0 body (BitVec.ofNat 256 sig.1 ++ BitVec.ofNat 256 sig.2)] ∧ sig = sm2Sign s.boot.aliasKey k body ∧
        body.take 32 = toBytes 32 nonce.toNat ∧ (body.drop 32).take 32 = toBytes 32 s.boot.digest.toNat ∧ (body.drop 64).take 4 = toBytes 4 s.boot.version ∧
        { s' with outs := s.outs, mem := { s'.mem with draws := s.mem.draws } } = s) ∧
      ((s.boot.st ≠ 1 ∨ s.owner = 0) → exec (.attestationReport 0 nonce) s = .next s) ∧
      (∀ fn c, 1 ≤ fn → c = cfgGet s.mem.cfg (offVfcfg fn) →
        (s.boot.st = 1 → fn ≤ 192 → bitOf c 4 = true → bitsOf c 0 4 < 12 → ∃ s' body sig k, exec (.attestationReport fn nonce) s = .next s' ∧
          s'.outs = s.outs ++ [.report fn body (BitVec.ofNat 256 sig.1 ++ BitVec.ofNat 256 sig.2)] ∧ sig = sm2Sign s.boot.aliasKey k body ∧
          body.take 32 = toBytes 32 nonce.toNat ∧ { s' with outs := s.outs, mem := { s'.mem with draws := s.mem.draws } } = s) ∧
        ((s.boot.st ≠ 1 ∨ 192 < fn ∨ bitOf c 4 = false ∨ 12 ≤ bitsOf c 0 4) → exec (.attestationReport fn nonce) s = .next s)))

/-- R408, R409, R410: a claim of a master succeeds when nobody owns the package, or within a second of an offer to it, and changes nothing else; only the owner hands over or releases, or has a command taken, another is refused; an offer not taken in a
second is withdrawn; a period grants each core with a live strand 525 to 2,100 ck, 525 and by the weights of the partitions a part of a pool whose predicted power and currents stay within PWRLIM
and DIELIM, the cores of a partition equally; the measured power of the period that ended stayed within the limit in force; a die over its limit is gated.
The model's choice: the grants within the bounds that the spec gives (log 13); the owner's own claim, which has no effect, the commands that need an owner,
and that the owner's command acts with the rights of M mode (log 35). -/
def Obligations.OwnershipAndPower : Prop :=
  (∀ (s : State) m i ms, s.agenda = .command m i :: ms → s.boot.st = 1 → commandOf i = true →
    ((m = 0 ∨ s.owner ≠ m) → step s = .next { s with agenda := ms, outs := s.outs ++ [.notOwner m] }) ∧
    (m ≠ 0 → s.owner = m → step s = exec i { s with agenda := ms, agent := ⟨8, 0, 3⟩ })) ∧
  (∀ (s : State) m t, s.boot.st ≠ 1 → exec (.claim m) s = .next s ∧ exec (.handover m t) s = .next s ∧ exec (.release m) s = .next s) ∧
  (∀ (s : State) m, s.boot.st = 1 → 1 ≤ m → m ≤ 3 →
    (s.owner = 0 → ∃ s', exec (.claim m) s = .next s' ∧ s'.owner = m ∧ s'.strands = s.strands) ∧
    (s.offerPend = true → s.offer = m → s.clock < s.offered + 2100000000 → ∃ s', exec (.claim m) s = .next s' ∧ s'.owner = m ∧ s'.offerPend = false) ∧
    (s.owner ≠ 0 → (s.offerPend = false ∨ s.offer ≠ m ∨ s.offered + 2100000000 ≤ s.clock) → exec (.claim m) s = .next s) ∧
    (s.owner = m → ∀ t, 1 ≤ t → t ≤ 3 → ∃ s', exec (.handover m t) s = .next s' ∧ s'.owner = m ∧ s'.offer = t ∧ s'.offerPend = true ∧ s'.offered = s.clock) ∧
    (s.owner = m → ∃ s', exec (.release m) s = .next s' ∧ s'.owner = 0 ∧ s'.strands = s.strands) ∧
    (s.owner ≠ m → (∀ t, exec (.handover m t) s = .next { s with outs := s.outs ++ [.notOwner m] }) ∧
      exec (.release m) s = .next { s with outs := s.outs ++ [.notOwner m] })) ∧
  (∀ s : State,
    (s.offerPend = true → s.offered + 2100000000 ≤ s.clock → ∃ s', exec .handoverTimeout s = .next s' ∧ s'.offerPend = false ∧ s'.owner = s.owner) ∧
    ((s.offerPend = false ∨ s.clock < s.offered + 2100000000) → exec .handoverTimeout s = .next s) ∧
    (∀ die, ∃ s', exec (.currentGate die) s = .next s' ∧ die ∈ s'.gated ∧ (∀ d ∈ s.gated, d ∈ s'.gated) ∧ { s' with gated := s.gated } = s) ∧
    ∃ s' pool n, exec .grantPeriod s = .next s' ∧ s'.strands = s.strands ∧ cfgGet s'.mem.cfg offPwrstat / 2 ^ 32 ≤ s.limw ∧ s'.limw = cfgGet s.mem.cfg offPwrlim ∧
      (pool = 0 ∨ (Config.predictedPower n pool ≤ cfgGet s.mem.cfg offPwrlim ∧ ∀ d, d < 4 → Config.predictedCurrent n d pool ≤ cfgGet s.mem.cfg (offDielim d))) ∧
      (∀ p c, p < 12 → c ∈ s.livesOf p → (s'.core c).grant = min 2100 (525 + pool * cfgGet s.mem.cfg (offPshare p) /
        ((List.range 12).map (fun q => if s.livesOf q = [] then 0 else cfgGet s.mem.cfg (offPshare q))).sum / (s.livesOf p).length)) ∧
      (∀ p sn t, p < 12 → s.strand? sn = some t → coreOfSn sn ∈ coresOfPart p → 525 ≤ (s'.core (coreOfSn sn)).grant ∧ (s'.core (coreOfSn sn)).grant ≤ 2100 ∧
        ∀ sn2 t2, s.strand? sn2 = some t2 → coreOfSn sn2 ∈ coresOfPart p → (s'.core (coreOfSn sn2)).grant = (s'.core (coreOfSn sn)).grant))

/-- R412, R413, R414: a write to a present member's segment or TICKET is made, one from another package is dropped and reported; a record is performed when every
present member's TICKET names it, and DSEQ then names the next; until then nothing happens.
The model's choice: a record is performed in one step (log 32). -/
def Obligations.CollectiveWork : Prop :=
  (∀ s d pkg i (ticket : Bool) off (data : List (BitVec 8 × Bool)) e, i < 64 → e = d + 64 + 32 * i → off + data.length ≤ (if ticket then 8 else s.mem.rd (d + 24) 8) →
    (∀ a, s.mem.rd (e + 2) 1 = 1 → s.mem.rd e 2 = pkg → a = (if ticket then e + 8 + off else s.mem.rd (d + 16) 8 + i * s.mem.rd (d + 24) 8 + off) →
      (∀ m, s.mem.ownWrite 12 a data = some m → ∃ s', exec (.ticketWrite d pkg i ticket off data) s = .next s' ∧ d ∈ s'.groups ∧
        s'.strands = s.strands ∧ s'.mem = m) ∧
      (s.mem.ownWrite 12 a data = none → exec (.ticketWrite d pkg i ticket off data) s = .next (s.again (.ticketWrite d pkg i ticket off data)))) ∧
    ((s.mem.rd (e + 2) 1 ≠ 1 ∨ s.mem.rd e 2 ≠ pkg) → ∃ s', exec (.ticketWrite d pkg i ticket off data) s = .next s' ∧ s'.strands = s.strands ∧
      s'.mem.dram = s.mem.dram ∧ s'.mem.lines = s.mem.lines ∧ s'.mem.reports = s.mem.reports ++ [.collectiveDrop d pkg])) ∧
  (∀ (s : State) d q n, s.agent.a = d → q = s.mem.rd (d + 56) 8 → n = min (s.mem.rd (d + 4) 1) 64 →
    ((∃ i, i < n ∧ s.mem.rd (d + 64 + 32 * i + 2) 1 = 1 ∧ s.mem.rd (d + 64 + 32 * i + 8) 4 ≠ q % 2 ^ 32) → exec .performRecord s = .next s) ∧
    ((∀ i, i < n → s.mem.rd (d + 64 + 32 * i + 2) 1 ≠ 1) → exec .performRecord s = .next s) ∧
    (s.mem.lines = [] → s.mem.unclr = [] → s.mem.edge = [] → Quiet 12 s.mem → (∃ i, i < n ∧ s.mem.rd (d + 64 + 32 * i + 2) 1 = 1) →
      (∀ i, i < n → s.mem.rd (d + 64 + 32 * i + 2) 1 = 1 → s.mem.rd (d + 64 + 32 * i + 8) 4 = q % 2 ^ 32 ∧
        s.mem.rd (d + 64 + 32 * i + 4) 4 ≤ s.mem.rd (d + 64 + 32 * i + 12) 4) →
      (∀ k, s.mem.keysAt k = []) → (∀ k, s.mem.offline k = false) →
      ∃ s', exec .performRecord s = .next s' ∧ s'.strands = s.strands ∧ s'.mem.banks = s.mem.banks ∧ s'.mem.rd (d + 56) 8 = (q + 1) % 2 ^ 64))

/-- R17, R79: a step whose move is an issue opportunity of a running strand without a waiting cause, and whose fetch gives words `w` and `f`, keeps the words
as those of the instruction in hand and is exec of the instruction they decode to; words that do not decode raise ILLEGAL, and SEC words of a strand
without the privilege PRIV. After exec the core's other issue opportunities of this ck are gone where the strand has moved, and nothing else
is added, but that what a pre-emption needs to abandon the instruction is noted while its result is on its way (R180). A step whose move is an event or a row is exec of it for its agent. A step with no move due is the next ck, whose moves are laid out after what the clock brings (R29, R34). A one-word instruction is fetched from the frame that its page gives.
The model's choice: the order of the moves of a ck, as the agenda lays them out (log 2). -/
def Obligations.StepRunsDecoded : Prop :=
  (∀ (s : State) sn ms (t : Strand) w f s1 s2, s.agenda = .issue sn :: ms → s.strand? sn = some t → t.run = .running → t.seq.wait = .none → t.seq.trap.raised = [] →
    ({ s with agenda := ms, agent := ⟨sn, 0, 0⟩ } : State).fetch sn t = (.ok w f, s1) → s1.strand? sn = some t →
    s2 = s1.setStrand sn (t.mapSeq (fun q => { q with ir := (w, f) })) →
    (∀ i, (fOp w = 0x36#6 → t.secp = true) → decodeWords w f = .ok i → ∀ s3, exec i s2 = .next s3 →
      ∃ s4, step s = .next s4 ∧ { s4 with cores := s3.cores, agenda := s3.agenda, strands := s3.strands } = s3 ∧
        (∀ k, k ≠ sn → s4.strand? k = s3.strand? k) ∧
        (∀ u, s3.strand? sn = some u → s2.stalled s3 sn = false →
          s4.strand? sn = some (if (Undo.of t u).isSome then u.mapSeq (fun q => { q with undo := Undo.of t u }) else u)) ∧
        (s2.stalled s3 sn = true → s4 = s3) ∧
        (s2.stalled s3 sn = false → (∀ x ∈ s4.agenda, x ∈ s3.agenda ∧ ∀ k, x = .issue k → coreOfSn k ≠ coreOfSn sn) ∧
          ∀ c, s4.core c = if c = coreOfSn sn then { s3.core c with rr := sidxOf sn } else s3.core c)) ∧
    (∀ e, (fOp w = 0x36#6 → t.secp = true) → decodeWords w f = .error e → Handles t → ∃ s4 t', step s = .next s4 ∧ s4.strand? sn = some t' ∧
      InHandler (t.mapSeq (fun q => { q with ir := (w, f) })) t' 0x01 0 0 (wordsTval w f).toNat) ∧
    (fOp w = 0x36#6 → t.secp = false → Handles t → ∃ s4 t', step s = .next s4 ∧ s4.strand? sn = some t' ∧
      InHandler (t.mapSeq (fun q => { q with ir := (w, f) })) t' 0x02 0 0 (wordsTval w f).toNat)) ∧
  (∀ (s : State) i a b c ms, s.agenda = .event i a b c :: ms → step s = exec i { s with agenda := ms, agent := ⟨a, b, c⟩ }) ∧
  (∀ (s : State) k i ms, s.agenda = .row k :: ms → s.nodeRow k = some i → step s = exec i { s with agenda := ms, agent := ⟨k / 16, k % 16, 0⟩ }) ∧
  (∀ s : State, s.agenda = [] → ∃ s', step s = .next s' ∧ s'.clock = s.clock + 1 ∧ s'.gated = [] ∧ s'.agenda.getLast? = some .lay) ∧
  (∀ (s : State) sn (t : Strand) (l : Leaf) (m : Mem) pa r m', s.strand? sn = some t → inWindow t.seq.pc.toNat = false → s.mem.page (coreOfSn sn) (partOfSn sn) t.seq.pc.toNat .x = (.ok l, m) →
    (∀ x ∈ (s.core (coreOfSn sn)).ic, x.part = partOfSn sn → x.va ≠ t.seq.pc.toNat) → l.place t.seq.pc.toNat = .frame pa →
    s.admits (partOfSn sn) = true → m.at s.clock ⟨partOfSn sn, sn, 5, 0, false, false, 0⟩ .read (.frame pa) 4 id = .ok r m' → pbPois r.old = false →
    isLong (BitVec.ofNat 32 (pbNat r.old)) = false →
    ∃ s1, s.fetch sn t = (.ok (BitVec.ofNat 32 (pbNat r.old)) 0, s1) ∧ s1.mem = m' ∧ s1.strands = s.strands ∧ ∀ c, c ≠ coreOfSn sn → s1.core c = s.core c)

/-- R76, R82, R84, R92: words worked out bit by bit from the formats, of a register, an immediate, a system and a long form and of a node row, decode to the
instructions they stand for. -/
def Obligations.WordsDecode : Prop :=
  decodeWords 0x04642800#32 0#32 = .ok (.add 3 4 5) ∧ decodeWords 0x4464FFF8#32 0#32 = .ok (.ldh 3 4 0xFFF8) ∧
  decodeWords 0xA0000000#32 0#32 = .ok .nop ∧ decodeWords 0xA0002011#32 0#32 = .ok (.trapi 0x11) ∧
  decodeWords 0xB4642BC0#32 0#32 = .ok (.fadd 3 4 5 1 7) ∧ decodeWords 0xF82000A0#32 0x00000534#32 = .ok (.mxld 5 1 2 3 4) ∧
  decodeRow 0x1929C000#32 = .ok (.nfilt 1 1 2 3 4 0 0) ∧
  (∃ i, decodeWords 0x00000000#32 0#32 = .ok i ∧ i = .unassignedOpcode 0#32)

/-- R76-R95: decoding is the inverse of encoding. For every well-formed instruction of the sequencer, the words that `encode` gives decode to it; for
every row of a node program, the row's word does; an event has no words. And words that decode are the words that `encode` gives for what
they decode to. -/
def Obligations.DecodeEncodeAgree : Prop :=
  (∀ i : Instr, i.wf = true →
    (i.isRow = false → (∀ w, encode i = [w] → decodeWords w 0#32 = .ok i) ∧ (∀ w f, encode i = [w, f] → decodeWords w f = .ok i)) ∧
    (i.isRow = true → ∃ w, encode i = [w] ∧ decodeRow w = .ok i) ∧ (encode i).length ≤ 2) ∧
  (∀ w f i, decodeWords w f = .ok i → encode i = if isLong w then [w, f] else [w]) ∧
  (∀ w i, decodeRow w = .ok i → encode i = [w] ∧ i.isRow = true)

/-- R34, R36, R394: every step that goes on keeps the live schedule, the entry in force and the boot state legal. -/
def Obligations.StepKeepsScheduleLegal : Prop :=
  ∀ s s', ScheduleLegal s → step s = .next s' → ScheduleLegal s'

/-- R34, R36, R394: the machine after reset: the schedule is legal, entry e belongs to partition e mod 12, and no load of it is due; no strand, instance, packet
or cached line stands; the clock is 0; memory has its canonical form, with nothing listed.
The model's choice: memory that lists nothing reads as zero (log 1), and the boot state after reset is M mode (log 5). -/
def Obligations.ResetState : Prop :=
  ScheduleLegal State.reset ∧ (∀ e, e < 48 → State.reset.mem.sched.getD e 0 = e % 12) ∧ State.reset.schedLoad = none ∧ State.reset.clock = 0 ∧
  (∀ sn, State.reset.strand? sn = none) ∧ (∀ k, State.reset.inst? k = none) ∧ State.reset.mem.lines = [] ∧ State.reset.waiting = [] ∧
  Memory.wf State.reset.mem = true ∧ State.reset.mem.dram = [] ∧ State.reset.mem.banks = [] ∧
  (∀ v : BitVec 3, v.toNat < 6 → cfgGet State.reset.mem.cfg (offPsched v.toNat) =
    if v.toNat % 3 = 0 then 0x76543210 else if v.toNat % 3 = 1 then 0x3210BA98 else 0xBA987654)
end

