-- ==== Sys2Proof/Laws/Tbl.lean ====
section
/-! SUPPORT. What the operations on sparse tables do: what is read after a write, and that each keeps the canonical form. -/
namespace Sys2Proof.Machine

/-! ### Reading after a write -/

@[simp] theorem tblFind_nil {α : Type} (k : Nat) : tblFind ([] : Tbl α) k = none := rfl
@[simp] theorem tblGet_nil {α : Type} (d : α) (k : Nat) : tblGet d ([] : Tbl α) k = d := rfl

theorem tblFind_insert {α : Type} (t : Tbl α) (k : Nat) (v : α) (j : Nat) :
    tblFind (tblInsert t k v) j = if j = k then some v else tblFind t j := by
  induction t with
  | nil => simp [tblInsert, tblFind, eq_comm]
  | cons e t ih =>
    obtain ⟨i, u⟩ := e
    grind [tblInsert, tblFind]

@[simp] theorem tblFind_insert_same {α : Type} (t : Tbl α) (k : Nat) (v : α) : tblFind (tblInsert t k v) k = some v := by
  simp [tblFind_insert]

theorem tblFind_insert_ne {α : Type} (t : Tbl α) {k j : Nat} (v : α) (h : j ≠ k) : tblFind (tblInsert t k v) j = tblFind t j := by
  simp [tblFind_insert, h]

theorem tblFind_erase {α : Type} (t : Tbl α) (k j : Nat) :
    tblFind (tblErase t k) j = if j = k then none else tblFind t j := by
  induction t with
  | nil => simp [tblErase, tblFind]
  | cons e t ih =>
    obtain ⟨i, u⟩ := e
    grind [tblErase, tblFind]

/-- A table reads back what was written at a key, and elsewhere what it held. -/
theorem tblGet_put {α : Type} [DecidableEq α] (d : α) (t : Tbl α) (k : Nat) (v : α) (j : Nat) :
    tblGet d (tblPut d t k v) j = if j = k then v else tblGet d t j := by
  unfold tblGet tblPut
  split
  · rw [tblFind_erase]; split <;> simp_all
  · rw [tblFind_insert]; split <;> simp_all

@[simp] theorem tblGet_put_same {α : Type} [DecidableEq α] (d : α) (t : Tbl α) (k : Nat) (v : α) : tblGet d (tblPut d t k v) k = v := by
  simp [tblGet_put]

theorem tblGet_put_ne {α : Type} [DecidableEq α] (d : α) (t : Tbl α) {k j : Nat} (v : α) (h : j ≠ k) :
    tblGet d (tblPut d t k v) j = tblGet d t j := by
  simp [tblGet_put, h]

/-- After consecutive writes, a key in the range reads its value and every other key reads as before. -/
theorem tblGet_putAll {α : Type} [DecidableEq α] (d : α) (vs : List α) (t : Tbl α) (k j : Nat) :
    tblGet d (tblPutAll d t k vs) j = if k ≤ j ∧ j < k + vs.length then vs.getD (j - k) d else tblGet d t j := by
  induction vs generalizing t k with
  | nil =>
    simp only [tblPutAll, List.length_nil, Nat.add_zero]
    rw [if_neg (by omega)]
  | cons v vs ih =>
    simp only [tblPutAll, ih, List.length_cons]
    by_cases h : k + 1 ≤ j ∧ j < k + 1 + vs.length
    · have h1 : k ≤ j ∧ j < k + (vs.length + 1) := by omega
      have h2 : j - k = (j - (k + 1)) + 1 := by omega
      rw [if_pos h, if_pos h1, h2]; simp
    · rw [if_neg h, tblGet_put]
      by_cases hj : j = k
      · subst hj; simp
      · rw [if_neg hj, if_neg (by omega)]

theorem tblFind_clear {α : Type} (t : Tbl α) (lo hi j : Nat) :
    tblFind (tblClear t lo hi) j = if lo ≤ j ∧ j < hi then none else tblFind t j := by
  induction t with
  | nil => simp [tblClear, tblFind]
  | cons e t ih =>
    obtain ⟨i, u⟩ := e
    unfold tblClear at ih ⊢
    grind [List.filter_cons, tblFind]

/-- After a range of keys is cleared, a key in it reads the default and every other key reads as before. -/
theorem tblGet_clear {α : Type} (d : α) (t : Tbl α) (lo hi j : Nat) :
    tblGet d (tblClear t lo hi) j = if lo ≤ j ∧ j < hi then d else tblGet d t j := by
  unfold tblGet
  rw [tblFind_clear]
  split <;> simp

/-! ### The canonical form -/

theorem tblSortedFrom_mono {α : Type} {t : Tbl α} {a b : Nat} (h : tblSortedFrom b t = true) (hab : a ≤ b) : tblSortedFrom a t = true := by
  cases t with
  | nil => rfl
  | cons e t =>
    obtain ⟨i, u⟩ := e
    simp only [tblSortedFrom, Bool.and_eq_true, decide_eq_true_eq] at h ⊢
    exact ⟨by omega, h.2⟩

theorem tblSorted_erase {α : Type} (t : Tbl α) (k lo : Nat) (h : tblSortedFrom lo t = true) : tblSortedFrom lo (tblErase t k) = true := by
  induction t generalizing lo with
  | nil => rfl
  | cons e t ih =>
    obtain ⟨i, u⟩ := e
    simp only [tblSortedFrom, Bool.and_eq_true, decide_eq_true_eq] at h
    simp only [tblErase]
    split
    · exact ih lo (tblSortedFrom_mono h.2 (by omega))
    · simp only [tblSortedFrom, Bool.and_eq_true, decide_eq_true_eq]
      exact ⟨h.1, ih (i + 1) h.2⟩

theorem tblSorted_insert {α : Type} (t : Tbl α) (k lo : Nat) (v : α) (h : tblSortedFrom lo t = true) (hk : lo ≤ k) :
    tblSortedFrom lo (tblInsert t k v) = true := by
  induction t generalizing lo with
  | nil => simp [tblInsert, tblSortedFrom, hk]
  | cons e t ih =>
    obtain ⟨i, u⟩ := e
    simp only [tblSortedFrom, Bool.and_eq_true, decide_eq_true_eq] at h
    simp only [tblInsert]
    split
    · simp only [tblSortedFrom, Bool.and_eq_true, decide_eq_true_eq]
      exact ⟨hk, by omega, h.2⟩
    · split
      · simp only [tblSortedFrom, Bool.and_eq_true, decide_eq_true_eq]
        exact ⟨hk, by simpa [‹k = i›] using h.2⟩
      · simp only [tblSortedFrom, Bool.and_eq_true, decide_eq_true_eq]
        exact ⟨h.1, ih (i + 1) h.2 (by omega)⟩

theorem tblSorted_filter {α : Type} (t : Tbl α) (p : Nat × α → Bool) (lo : Nat) (h : tblSortedFrom lo t = true) :
    tblSortedFrom lo (t.filter p) = true := by
  induction t generalizing lo with
  | nil => rfl
  | cons e t ih =>
    obtain ⟨i, u⟩ := e
    simp only [tblSortedFrom, Bool.and_eq_true, decide_eq_true_eq] at h
    by_cases hp : p (i, u) = true
    · rw [List.filter_cons_of_pos hp]
      simp only [tblSortedFrom, Bool.and_eq_true, decide_eq_true_eq]
      exact ⟨h.1, ih (i + 1) h.2⟩
    · rw [List.filter_cons_of_neg hp]
      exact ih lo (tblSortedFrom_mono h.2 (by omega))

theorem tblErase_subset {α : Type} (t : Tbl α) (k : Nat) (e : Nat × α) (h : e ∈ tblErase t k) : e ∈ t := by
  induction t with
  | nil => simp [tblErase] at h
  | cons x t ih =>
    obtain ⟨i, u⟩ := x
    simp only [tblErase] at h
    split at h
    · exact List.mem_cons_of_mem _ (ih h)
    · rcases List.mem_cons.mp h with rfl | h
      · exact List.mem_cons_self
      · exact List.mem_cons_of_mem _ (ih h)

theorem tblInsert_subset {α : Type} (t : Tbl α) (k : Nat) (v : α) (e : Nat × α) (h : e ∈ tblInsert t k v) : e = (k, v) ∨ e ∈ t := by
  induction t with
  | nil => simpa [tblInsert] using h
  | cons x t ih =>
    obtain ⟨i, u⟩ := x
    simp only [tblInsert] at h
    split at h
    · simpa using h
    · split at h
      · rcases List.mem_cons.mp h with rfl | h
        · exact .inl rfl
        · exact .inr (List.mem_cons_of_mem _ h)
      · rcases List.mem_cons.mp h with rfl | h
        · exact .inr List.mem_cons_self
        · rcases ih h with rfl | h
          · exact .inl rfl
          · exact .inr (List.mem_cons_of_mem _ h)

theorem tblWf_nil {α : Type} [DecidableEq α] (d : α) : tblWf d ([] : Tbl α) = true := rfl

/-- A write keeps the canonical form. -/
theorem tblWf_put {α : Type} [DecidableEq α] (d : α) (t : Tbl α) (k : Nat) (v : α) (h : tblWf d t = true) : tblWf d (tblPut d t k v) = true := by
  simp only [tblWf, Bool.and_eq_true, List.all_eq_true, decide_eq_true_eq] at h ⊢
  unfold tblPut
  split
  · exact ⟨tblSorted_erase t k 0 h.1, fun e he => h.2 e (tblErase_subset t k e he)⟩
  · refine ⟨tblSorted_insert t k 0 v h.1 (Nat.zero_le k), fun e he => ?_⟩
    rcases tblInsert_subset t k v e he with rfl | he
    · assumption
    · exact h.2 e he

/-- Consecutive writes keep the canonical form. -/
theorem tblWf_putAll {α : Type} [DecidableEq α] (d : α) (vs : List α) (t : Tbl α) (k : Nat) (h : tblWf d t = true) :
    tblWf d (tblPutAll d t k vs) = true := by
  induction vs generalizing t k with
  | nil => exact h
  | cons v vs ih => exact ih _ _ (tblWf_put d t k v h)

/-- Clearing a range keeps the canonical form. -/
theorem tblWf_clear {α : Type} [DecidableEq α] (d : α) (t : Tbl α) (lo hi : Nat) (h : tblWf d t = true) : tblWf d (tblClear t lo hi) = true := by
  simp only [tblWf, Bool.and_eq_true, List.all_eq_true, decide_eq_true_eq] at h ⊢
  exact ⟨tblSorted_filter t _ 0 h.1, fun e he => h.2 e (List.mem_filter.mp he).1⟩

end Sys2Proof.Machine
end

