-- ==== Sys2Proof/Laws/Mem.lean ====
section
/-! SUPPORT. What the operations over memory do: what a bank reads after a write, and that each writer of bytes keeps the canonical form
(R107, R108, R337, R399). -/
namespace Sys2Proof.Machine

/-! ### The canonical form -/

/-- The canonical form is that of the four tables of bytes and poison marks. -/
theorem Memory.wf_iff (m : Mem) :
    Memory.wf m = true ↔ tblWf 0 m.dram = true ∧ tblWf false m.dpois = true ∧ tblWf 0 m.banks = true ∧ tblWf false m.bpois = true := by
  simp [Memory.wf, and_assoc]

/-- Only the four tables of bytes decide the form. -/
theorem Memory.wf_congr {m n : Mem} (h1 : n.dram = m.dram) (h2 : n.dpois = m.dpois) (h3 : n.banks = m.banks) (h4 : n.bpois = m.bpois) :
    Memory.wf n = Memory.wf m := by
  simp [Memory.wf, h1, h2, h3, h4]

theorem Memory.wf_reset : Memory.wf State.reset.mem = true := rfl

theorem Memory.wf_bankWrite (m : Mem) (b o : Nat) (l : List PB) (h : Memory.wf m = true) : Memory.wf (m.bankWrite b o l) = true := by
  rw [Memory.wf_iff] at h ⊢
  exact ⟨h.1, h.2.1, tblWf_putAll _ _ _ _ h.2.2.1, tblWf_putAll _ _ _ _ h.2.2.2⟩

theorem Memory.wf_bankZero (m : Mem) (b : Nat) (h : Memory.wf m = true) : Memory.wf (m.bankZero b) = true := by
  rw [Memory.wf_iff] at h ⊢
  exact ⟨h.1, h.2.1, tblWf_clear _ _ _ _ h.2.2.1, tblWf_clear _ _ _ _ h.2.2.2⟩

/-- A read of device memory may mark its chunk poisoned; the form stays. -/
theorem Memory.wf_devRead (m : Mem) (pa n : Nat) (h : Memory.wf m = true) : Memory.wf (m.devRead pa n).2 = true := by
  unfold Mem.devRead
  dsimp only
  split
  · exact h
  · split
    · rw [Memory.wf_iff] at h ⊢
      exact ⟨h.1, tblWf_put false m.dpois _ true h.2.1, h.2.2.1, h.2.2.2⟩
    · exact h
    · exact h

theorem Memory.wf_ite {c : Prop} [Decidable c] (a b : Mem) (ha : Memory.wf a = true) (hb : Memory.wf b = true) :
    Memory.wf (if c then a else b) = true := by
  split <;> assumption

theorem Memory.wf_devWrite (m : Mem) (pa : Nat) (l : List PB) (h : Memory.wf m = true) : Memory.wf (m.devWrite pa l) = true := by
  rw [Memory.wf_iff] at h
  unfold Mem.devWrite
  dsimp only
  refine Memory.wf_ite _ _ ((Memory.wf_iff m).mpr h) ?_
  rw [Memory.wf_iff]
  refine ⟨?_, tblWf_put false m.dpois _ _ h.2.1, h.2.2⟩
  dsimp only
  split <;> exact tblWf_putAll _ _ _ _ h.1

theorem Memory.wf_devReadLine (m : Mem) (pa : Nat) (h : Memory.wf m = true) : Memory.wf (m.devReadLine pa).2 = true :=
  Memory.wf_devRead _ _ _ (Memory.wf_devRead _ _ _ h)

theorem Memory.wf_devWriteLine (m : Mem) (pa : Nat) (l : List PB) (h : Memory.wf m = true) : Memory.wf (m.devWriteLine pa l) = true :=
  Memory.wf_devWrite _ _ _ (Memory.wf_devWrite _ _ _ h)

theorem Memory.wf_writeBack (m : Mem) (l : Line) (h : Memory.wf m = true) : Memory.wf (m.writeBack l) = true := by
  unfold Mem.writeBack
  split
  · exact Memory.wf_devWriteLine _ _ _ h
  · exact h

theorem Memory.wf_zeroUnit (m : Mem) (pa : Nat) (h : Memory.wf m = true) : Memory.wf (m.zeroUnit pa) = true := by
  rw [Memory.wf_iff] at h ⊢
  exact ⟨tblWf_clear _ _ _ _ h.1, tblWf_clear _ _ _ _ h.2.1, h.2.2⟩

theorem Memory.wf_dropUnit (m : Mem) (pa : Nat) (h : Memory.wf m = true) : Memory.wf (m.dropUnit pa) = true := h

theorem Memory.wf_foldl {α : Type} (f : Mem → α → Mem) (hf : ∀ m x, Memory.wf m = true → Memory.wf (f m x) = true) (l : List α) (m : Mem)
    (h : Memory.wf m = true) : Memory.wf (l.foldl f m) = true := by
  induction l generalizing m with
  | nil => exact h
  | cons x l ih => exact ih _ (hf m x h)

theorem Memory.wf_resetUnit (m : Mem) (pa : Nat) (h : Memory.wf m = true) : Memory.wf (m.resetUnit pa) = true := by
  unfold Mem.resetUnit
  split
  · exact Memory.wf_zeroUnit m pa h
  · exact Memory.wf_foldl _ (fun m k h => Memory.wf_devWrite _ _ _ h) _ _ (Memory.wf_dropUnit m pa h)

theorem Memory.wf_clearUnit (m : Mem) (v u : Nat) (h : Memory.wf m = true) : Memory.wf (m.clearUnit v u) = true :=
  Memory.wf_resetUnit m u h

theorem Memory.wf_clearAhead (m : Mem) (pa : Nat) (h : Memory.wf m = true) : Memory.wf (m.clearAhead pa) = true := by
  exact Memory.wf_foldl _ (fun m x h => Memory.wf_clearUnit _ _ _ h) _ _ h

theorem Memory.wf_putLine (m : Mem) (l : Line) (h : Memory.wf m = true) : Memory.wf (m.putLine l) = true := h

theorem Memory.wf_pokeByte (m : Mem) (pa : Nat) (b : PB) (h : Memory.wf m = true) : Memory.wf (m.pokeByte pa b) = true := by
  unfold Mem.pokeByte
  split
  · exact Memory.wf_putLine _ _ h
  · exact Memory.wf_devWrite _ _ _ h

theorem Memory.wf_poke (m : Mem) (pa : Nat) (bs : List PB) (h : Memory.wf m = true) : Memory.wf (m.poke pa bs) = true := by
  induction bs generalizing m pa with
  | nil => exact h
  | cons b bs ih => exact ih _ _ (Memory.wf_pokeByte _ _ _ h)

theorem Memory.wf_putWords (m : Mem) (pa n x : Nat) (h : Memory.wf m = true) : Memory.wf (m.putWords pa n x) = true := by
  rw [Memory.wf_iff] at h ⊢
  exact ⟨tblWf_putAll _ _ _ _ h.1, h.2⟩

/-! ### Banks -/

/-- A byte of a bank after a write to a bank: the bytes written in their place, every other byte as before. -/
theorem Mem.bankByte_bankWrite (m : Mem) (b o c q : Nat) (l : List PB) (ho : o + l.length ≤ 65536) (hq : q < 65536) :
    (m.bankWrite b o l).bankByte c q = if c = b ∧ o ≤ q ∧ q < o + l.length then l.getD (q - o) (0, false) else m.bankByte c q := by
  have key : (65536 * b + o ≤ 65536 * c + q ∧ 65536 * c + q < 65536 * b + o + l.length) ↔ (c = b ∧ o ≤ q ∧ q < o + l.length) := by omega
  have e1 : (pbBytes l).length = l.length := by simp [pbBytes]
  have e2 : (l.map (·.2)).length = l.length := by simp
  simp only [Mem.bankByte, pbGet, Mem.bankWrite, tblGet_putAll, e1, e2]
  by_cases h : c = b ∧ o ≤ q ∧ q < o + l.length
  · have h' := key.mpr h
    have h3 : 65536 * c + q - (65536 * b + o) = q - o := by omega
    have h4 : q - o < l.length := by omega
    simp only [if_pos h, if_pos h', h3, pbBytes, List.getD_eq_getElem?_getD, List.getElem?_map]
    simp [List.getElem?_eq_getElem h4]
  · have h' := fun x => h (key.mp x)
    simp only [if_neg h, if_neg h']

/-- A zeroed bank reads zero, unpoisoned; every other bank reads as before. -/
theorem Mem.bankByte_bankZero (m : Mem) (b c q : Nat) (hq : q < 65536) :
    (m.bankZero b).bankByte c q = if c = b then (0, false) else m.bankByte c q := by
  simp only [Mem.bankByte, pbGet, Mem.bankZero, tblGet_clear]
  by_cases h : c = b
  · rw [if_pos (by omega), if_pos (by omega), if_pos h]
  · rw [if_neg (by omega), if_neg (by omega), if_neg h]

/-- A write to a bank changes nothing of device memory, the lines or the configuration space. -/
@[simp] theorem Mem.bankWrite_dram (m : Mem) (b o : Nat) (l : List PB) : (m.bankWrite b o l).dram = m.dram := rfl
@[simp] theorem Mem.bankWrite_dpois (m : Mem) (b o : Nat) (l : List PB) : (m.bankWrite b o l).dpois = m.dpois := rfl
@[simp] theorem Mem.bankWrite_lines (m : Mem) (b o : Nat) (l : List PB) : (m.bankWrite b o l).lines = m.lines := rfl
@[simp] theorem Mem.bankWrite_cfg (m : Mem) (b o : Nat) (l : List PB) : (m.bankWrite b o l).cfg = m.cfg := rfl

end Sys2Proof.Machine
end

