-- ==== Sys2Proof/Laws/State.lean ====
section
/-! SUPPORT. One lemma for each field under each update of the state, a strand and its sequencer, so that no proof unfolds an update. -/
namespace Sys2Proof.Machine

/-! ### The state -/

@[simp] theorem State.setMem_clock (s : State) (m : Mem) : (s.setMem m).clock = s.clock := rfl
@[simp] theorem State.setMem_agent (s : State) (m : Mem) : (s.setMem m).agent = s.agent := rfl
@[simp] theorem State.setMem_agenda (s : State) (m : Mem) : (s.setMem m).agenda = s.agenda := rfl
@[simp] theorem State.setMem_inbox (s : State) (m : Mem) : (s.setMem m).inbox = s.inbox := rfl
@[simp] theorem State.setMem_cores (s : State) (m : Mem) : (s.setMem m).cores = s.cores := rfl
@[simp] theorem State.setMem_strands (s : State) (m : Mem) : (s.setMem m).strands = s.strands := rfl
@[simp] theorem State.setMem_insts (s : State) (m : Mem) : (s.setMem m).insts = s.insts := rfl
@[simp] theorem State.setMem_kcount (s : State) (m : Mem) : (s.setMem m).kcount = s.kcount := rfl
@[simp] theorem State.setMem_queues (s : State) (m : Mem) : (s.setMem m).queues = s.queues := rfl
@[simp] theorem State.setMem_waiting (s : State) (m : Mem) : (s.setMem m).waiting = s.waiting := rfl
@[simp] theorem State.setMem_saved (s : State) (m : Mem) : (s.setMem m).saved = s.saved := rfl
@[simp] theorem State.setMem_places (s : State) (m : Mem) : (s.setMem m).places = s.places := rfl
@[simp] theorem State.setMem_staged (s : State) (m : Mem) : (s.setMem m).staged = s.staged := rfl
@[simp] theorem State.setMem_chunks (s : State) (m : Mem) : (s.setMem m).chunks = s.chunks := rfl
@[simp] theorem State.setMem_msgs (s : State) (m : Mem) : (s.setMem m).msgs = s.msgs := rfl
@[simp] theorem State.setMem_toks (s : State) (m : Mem) : (s.setMem m).toks = s.toks := rfl
@[simp] theorem State.setMem_redirs (s : State) (m : Mem) : (s.setMem m).redirs = s.redirs := rfl
@[simp] theorem State.setMem_hostOps (s : State) (m : Mem) : (s.setMem m).hostOps = s.hostOps := rfl
@[simp] theorem State.setMem_nodes (s : State) (m : Mem) : (s.setMem m).nodes = s.nodes := rfl
@[simp] theorem State.setMem_schedLoad (s : State) (m : Mem) : (s.setMem m).schedLoad = s.schedLoad := rfl
@[simp] theorem State.setMem_turns (s : State) (m : Mem) : (s.setMem m).turns = s.turns := rfl
@[simp] theorem State.setMem_rseqs (s : State) (m : Mem) : (s.setMem m).rseqs = s.rseqs := rfl
@[simp] theorem State.setMem_sweeps (s : State) (m : Mem) : (s.setMem m).sweeps = s.sweeps := rfl
@[simp] theorem State.setMem_waits (s : State) (m : Mem) : (s.setMem m).waits = s.waits := rfl
@[simp] theorem State.setMem_boot (s : State) (m : Mem) : (s.setMem m).boot = s.boot := rfl
@[simp] theorem State.setMem_offered (s : State) (m : Mem) : (s.setMem m).offered = s.offered := rfl
@[simp] theorem State.setMem_gated (s : State) (m : Mem) : (s.setMem m).gated = s.gated := rfl
@[simp] theorem State.setMem_limw (s : State) (m : Mem) : (s.setMem m).limw = s.limw := rfl
@[simp] theorem State.setMem_host (s : State) (m : Mem) : (s.setMem m).host = s.host := rfl
@[simp] theorem State.setMem_hostp (s : State) (m : Mem) : (s.setMem m).hostp = s.hostp := rfl
@[simp] theorem State.setMem_outs (s : State) (m : Mem) : (s.setMem m).outs = s.outs := rfl
@[simp] theorem State.setMem_groups (s : State) (m : Mem) : (s.setMem m).groups = s.groups := rfl
@[simp] theorem State.setMem_mem (s : State) (m : Mem) : (s.setMem m).mem = m := rfl
@[simp] theorem State.modMem_clock (s : State) (f : Mem → Mem) : (s.modMem f).clock = s.clock := rfl
@[simp] theorem State.modMem_agent (s : State) (f : Mem → Mem) : (s.modMem f).agent = s.agent := rfl
@[simp] theorem State.modMem_agenda (s : State) (f : Mem → Mem) : (s.modMem f).agenda = s.agenda := rfl
@[simp] theorem State.modMem_inbox (s : State) (f : Mem → Mem) : (s.modMem f).inbox = s.inbox := rfl
@[simp] theorem State.modMem_cores (s : State) (f : Mem → Mem) : (s.modMem f).cores = s.cores := rfl
@[simp] theorem State.modMem_strands (s : State) (f : Mem → Mem) : (s.modMem f).strands = s.strands := rfl
@[simp] theorem State.modMem_insts (s : State) (f : Mem → Mem) : (s.modMem f).insts = s.insts := rfl
@[simp] theorem State.modMem_kcount (s : State) (f : Mem → Mem) : (s.modMem f).kcount = s.kcount := rfl
@[simp] theorem State.modMem_queues (s : State) (f : Mem → Mem) : (s.modMem f).queues = s.queues := rfl
@[simp] theorem State.modMem_waiting (s : State) (f : Mem → Mem) : (s.modMem f).waiting = s.waiting := rfl
@[simp] theorem State.modMem_saved (s : State) (f : Mem → Mem) : (s.modMem f).saved = s.saved := rfl
@[simp] theorem State.modMem_places (s : State) (f : Mem → Mem) : (s.modMem f).places = s.places := rfl
@[simp] theorem State.modMem_staged (s : State) (f : Mem → Mem) : (s.modMem f).staged = s.staged := rfl
@[simp] theorem State.modMem_chunks (s : State) (f : Mem → Mem) : (s.modMem f).chunks = s.chunks := rfl
@[simp] theorem State.modMem_msgs (s : State) (f : Mem → Mem) : (s.modMem f).msgs = s.msgs := rfl
@[simp] theorem State.modMem_toks (s : State) (f : Mem → Mem) : (s.modMem f).toks = s.toks := rfl
@[simp] theorem State.modMem_redirs (s : State) (f : Mem → Mem) : (s.modMem f).redirs = s.redirs := rfl
@[simp] theorem State.modMem_hostOps (s : State) (f : Mem → Mem) : (s.modMem f).hostOps = s.hostOps := rfl
@[simp] theorem State.modMem_nodes (s : State) (f : Mem → Mem) : (s.modMem f).nodes = s.nodes := rfl
@[simp] theorem State.modMem_schedLoad (s : State) (f : Mem → Mem) : (s.modMem f).schedLoad = s.schedLoad := rfl
@[simp] theorem State.modMem_turns (s : State) (f : Mem → Mem) : (s.modMem f).turns = s.turns := rfl
@[simp] theorem State.modMem_rseqs (s : State) (f : Mem → Mem) : (s.modMem f).rseqs = s.rseqs := rfl
@[simp] theorem State.modMem_sweeps (s : State) (f : Mem → Mem) : (s.modMem f).sweeps = s.sweeps := rfl
@[simp] theorem State.modMem_waits (s : State) (f : Mem → Mem) : (s.modMem f).waits = s.waits := rfl
@[simp] theorem State.modMem_boot (s : State) (f : Mem → Mem) : (s.modMem f).boot = s.boot := rfl
@[simp] theorem State.modMem_offered (s : State) (f : Mem → Mem) : (s.modMem f).offered = s.offered := rfl
@[simp] theorem State.modMem_gated (s : State) (f : Mem → Mem) : (s.modMem f).gated = s.gated := rfl
@[simp] theorem State.modMem_limw (s : State) (f : Mem → Mem) : (s.modMem f).limw = s.limw := rfl
@[simp] theorem State.modMem_host (s : State) (f : Mem → Mem) : (s.modMem f).host = s.host := rfl
@[simp] theorem State.modMem_hostp (s : State) (f : Mem → Mem) : (s.modMem f).hostp = s.hostp := rfl
@[simp] theorem State.modMem_outs (s : State) (f : Mem → Mem) : (s.modMem f).outs = s.outs := rfl
@[simp] theorem State.modMem_groups (s : State) (f : Mem → Mem) : (s.modMem f).groups = s.groups := rfl
@[simp] theorem State.modMem_mem (s : State) (f : Mem → Mem) : (s.modMem f).mem = f s.mem := rfl
@[simp] theorem State.setStrand_clock (s : State) (sn : Nat) (t : Strand) : (s.setStrand sn t).clock = s.clock := rfl
@[simp] theorem State.setStrand_agent (s : State) (sn : Nat) (t : Strand) : (s.setStrand sn t).agent = s.agent := rfl
@[simp] theorem State.setStrand_agenda (s : State) (sn : Nat) (t : Strand) : (s.setStrand sn t).agenda = s.agenda := rfl
@[simp] theorem State.setStrand_inbox (s : State) (sn : Nat) (t : Strand) : (s.setStrand sn t).inbox = s.inbox := rfl
@[simp] theorem State.setStrand_mem (s : State) (sn : Nat) (t : Strand) : (s.setStrand sn t).mem = s.mem := rfl
@[simp] theorem State.setStrand_cores (s : State) (sn : Nat) (t : Strand) : (s.setStrand sn t).cores = s.cores := rfl
@[simp] theorem State.setStrand_insts (s : State) (sn : Nat) (t : Strand) : (s.setStrand sn t).insts = s.insts := rfl
@[simp] theorem State.setStrand_kcount (s : State) (sn : Nat) (t : Strand) : (s.setStrand sn t).kcount = s.kcount := rfl
@[simp] theorem State.setStrand_queues (s : State) (sn : Nat) (t : Strand) : (s.setStrand sn t).queues = s.queues := rfl
@[simp] theorem State.setStrand_waiting (s : State) (sn : Nat) (t : Strand) : (s.setStrand sn t).waiting = s.waiting := rfl
@[simp] theorem State.setStrand_saved (s : State) (sn : Nat) (t : Strand) : (s.setStrand sn t).saved = s.saved := rfl
@[simp] theorem State.setStrand_places (s : State) (sn : Nat) (t : Strand) : (s.setStrand sn t).places = s.places := rfl
@[simp] theorem State.setStrand_staged (s : State) (sn : Nat) (t : Strand) : (s.setStrand sn t).staged = s.staged := rfl
@[simp] theorem State.setStrand_chunks (s : State) (sn : Nat) (t : Strand) : (s.setStrand sn t).chunks = s.chunks := rfl
@[simp] theorem State.setStrand_msgs (s : State) (sn : Nat) (t : Strand) : (s.setStrand sn t).msgs = s.msgs := rfl
@[simp] theorem State.setStrand_toks (s : State) (sn : Nat) (t : Strand) : (s.setStrand sn t).toks = s.toks := rfl
@[simp] theorem State.setStrand_redirs (s : State) (sn : Nat) (t : Strand) : (s.setStrand sn t).redirs = s.redirs := rfl
@[simp] theorem State.setStrand_hostOps (s : State) (sn : Nat) (t : Strand) : (s.setStrand sn t).hostOps = s.hostOps := rfl
@[simp] theorem State.setStrand_nodes (s : State) (sn : Nat) (t : Strand) : (s.setStrand sn t).nodes = s.nodes := rfl
@[simp] theorem State.setStrand_schedLoad (s : State) (sn : Nat) (t : Strand) : (s.setStrand sn t).schedLoad = s.schedLoad := rfl
@[simp] theorem State.setStrand_turns (s : State) (sn : Nat) (t : Strand) : (s.setStrand sn t).turns = s.turns := rfl
@[simp] theorem State.setStrand_rseqs (s : State) (sn : Nat) (t : Strand) : (s.setStrand sn t).rseqs = s.rseqs := rfl
@[simp] theorem State.setStrand_sweeps (s : State) (sn : Nat) (t : Strand) : (s.setStrand sn t).sweeps = s.sweeps := rfl
@[simp] theorem State.setStrand_waits (s : State) (sn : Nat) (t : Strand) : (s.setStrand sn t).waits = s.waits := rfl
@[simp] theorem State.setStrand_boot (s : State) (sn : Nat) (t : Strand) : (s.setStrand sn t).boot = s.boot := rfl
@[simp] theorem State.setStrand_offered (s : State) (sn : Nat) (t : Strand) : (s.setStrand sn t).offered = s.offered := rfl
@[simp] theorem State.setStrand_gated (s : State) (sn : Nat) (t : Strand) : (s.setStrand sn t).gated = s.gated := rfl
@[simp] theorem State.setStrand_limw (s : State) (sn : Nat) (t : Strand) : (s.setStrand sn t).limw = s.limw := rfl
@[simp] theorem State.setStrand_host (s : State) (sn : Nat) (t : Strand) : (s.setStrand sn t).host = s.host := rfl
@[simp] theorem State.setStrand_hostp (s : State) (sn : Nat) (t : Strand) : (s.setStrand sn t).hostp = s.hostp := rfl
@[simp] theorem State.setStrand_outs (s : State) (sn : Nat) (t : Strand) : (s.setStrand sn t).outs = s.outs := rfl
@[simp] theorem State.setStrand_groups (s : State) (sn : Nat) (t : Strand) : (s.setStrand sn t).groups = s.groups := rfl
@[simp] theorem State.setStrand_strands (s : State) (sn : Nat) (t : Strand) : (s.setStrand sn t).strands = tblInsert s.strands sn t := rfl
@[simp] theorem State.setCore_clock (s : State) (n : Nat) (c : Core) : (s.setCore n c).clock = s.clock := rfl
@[simp] theorem State.setCore_agent (s : State) (n : Nat) (c : Core) : (s.setCore n c).agent = s.agent := rfl
@[simp] theorem State.setCore_agenda (s : State) (n : Nat) (c : Core) : (s.setCore n c).agenda = s.agenda := rfl
@[simp] theorem State.setCore_inbox (s : State) (n : Nat) (c : Core) : (s.setCore n c).inbox = s.inbox := rfl
@[simp] theorem State.setCore_mem (s : State) (n : Nat) (c : Core) : (s.setCore n c).mem = s.mem := rfl
@[simp] theorem State.setCore_strands (s : State) (n : Nat) (c : Core) : (s.setCore n c).strands = s.strands := rfl
@[simp] theorem State.setCore_insts (s : State) (n : Nat) (c : Core) : (s.setCore n c).insts = s.insts := rfl
@[simp] theorem State.setCore_kcount (s : State) (n : Nat) (c : Core) : (s.setCore n c).kcount = s.kcount := rfl
@[simp] theorem State.setCore_queues (s : State) (n : Nat) (c : Core) : (s.setCore n c).queues = s.queues := rfl
@[simp] theorem State.setCore_waiting (s : State) (n : Nat) (c : Core) : (s.setCore n c).waiting = s.waiting := rfl
@[simp] theorem State.setCore_saved (s : State) (n : Nat) (c : Core) : (s.setCore n c).saved = s.saved := rfl
@[simp] theorem State.setCore_places (s : State) (n : Nat) (c : Core) : (s.setCore n c).places = s.places := rfl
@[simp] theorem State.setCore_staged (s : State) (n : Nat) (c : Core) : (s.setCore n c).staged = s.staged := rfl
@[simp] theorem State.setCore_chunks (s : State) (n : Nat) (c : Core) : (s.setCore n c).chunks = s.chunks := rfl
@[simp] theorem State.setCore_msgs (s : State) (n : Nat) (c : Core) : (s.setCore n c).msgs = s.msgs := rfl
@[simp] theorem State.setCore_toks (s : State) (n : Nat) (c : Core) : (s.setCore n c).toks = s.toks := rfl
@[simp] theorem State.setCore_redirs (s : State) (n : Nat) (c : Core) : (s.setCore n c).redirs = s.redirs := rfl
@[simp] theorem State.setCore_hostOps (s : State) (n : Nat) (c : Core) : (s.setCore n c).hostOps = s.hostOps := rfl
@[simp] theorem State.setCore_nodes (s : State) (n : Nat) (c : Core) : (s.setCore n c).nodes = s.nodes := rfl
@[simp] theorem State.setCore_schedLoad (s : State) (n : Nat) (c : Core) : (s.setCore n c).schedLoad = s.schedLoad := rfl
@[simp] theorem State.setCore_turns (s : State) (n : Nat) (c : Core) : (s.setCore n c).turns = s.turns := rfl
@[simp] theorem State.setCore_rseqs (s : State) (n : Nat) (c : Core) : (s.setCore n c).rseqs = s.rseqs := rfl
@[simp] theorem State.setCore_sweeps (s : State) (n : Nat) (c : Core) : (s.setCore n c).sweeps = s.sweeps := rfl
@[simp] theorem State.setCore_waits (s : State) (n : Nat) (c : Core) : (s.setCore n c).waits = s.waits := rfl
@[simp] theorem State.setCore_boot (s : State) (n : Nat) (c : Core) : (s.setCore n c).boot = s.boot := rfl
@[simp] theorem State.setCore_offered (s : State) (n : Nat) (c : Core) : (s.setCore n c).offered = s.offered := rfl
@[simp] theorem State.setCore_gated (s : State) (n : Nat) (c : Core) : (s.setCore n c).gated = s.gated := rfl
@[simp] theorem State.setCore_limw (s : State) (n : Nat) (c : Core) : (s.setCore n c).limw = s.limw := rfl
@[simp] theorem State.setCore_host (s : State) (n : Nat) (c : Core) : (s.setCore n c).host = s.host := rfl
@[simp] theorem State.setCore_hostp (s : State) (n : Nat) (c : Core) : (s.setCore n c).hostp = s.hostp := rfl
@[simp] theorem State.setCore_outs (s : State) (n : Nat) (c : Core) : (s.setCore n c).outs = s.outs := rfl
@[simp] theorem State.setCore_groups (s : State) (n : Nat) (c : Core) : (s.setCore n c).groups = s.groups := rfl
@[simp] theorem State.setCore_cores (s : State) (n : Nat) (c : Core) : (s.setCore n c).cores = tblPut .fresh s.cores n c := rfl
@[simp] theorem State.modCore_clock (s : State) (n : Nat) (f : Core → Core) : (s.modCore n f).clock = s.clock := rfl
@[simp] theorem State.modCore_agent (s : State) (n : Nat) (f : Core → Core) : (s.modCore n f).agent = s.agent := rfl
@[simp] theorem State.modCore_agenda (s : State) (n : Nat) (f : Core → Core) : (s.modCore n f).agenda = s.agenda := rfl
@[simp] theorem State.modCore_inbox (s : State) (n : Nat) (f : Core → Core) : (s.modCore n f).inbox = s.inbox := rfl
@[simp] theorem State.modCore_mem (s : State) (n : Nat) (f : Core → Core) : (s.modCore n f).mem = s.mem := rfl
@[simp] theorem State.modCore_strands (s : State) (n : Nat) (f : Core → Core) : (s.modCore n f).strands = s.strands := rfl
@[simp] theorem State.modCore_insts (s : State) (n : Nat) (f : Core → Core) : (s.modCore n f).insts = s.insts := rfl
@[simp] theorem State.modCore_kcount (s : State) (n : Nat) (f : Core → Core) : (s.modCore n f).kcount = s.kcount := rfl
@[simp] theorem State.modCore_queues (s : State) (n : Nat) (f : Core → Core) : (s.modCore n f).queues = s.queues := rfl
@[simp] theorem State.modCore_waiting (s : State) (n : Nat) (f : Core → Core) : (s.modCore n f).waiting = s.waiting := rfl
@[simp] theorem State.modCore_saved (s : State) (n : Nat) (f : Core → Core) : (s.modCore n f).saved = s.saved := rfl
@[simp] theorem State.modCore_places (s : State) (n : Nat) (f : Core → Core) : (s.modCore n f).places = s.places := rfl
@[simp] theorem State.modCore_staged (s : State) (n : Nat) (f : Core → Core) : (s.modCore n f).staged = s.staged := rfl
@[simp] theorem State.modCore_chunks (s : State) (n : Nat) (f : Core → Core) : (s.modCore n f).chunks = s.chunks := rfl
@[simp] theorem State.modCore_msgs (s : State) (n : Nat) (f : Core → Core) : (s.modCore n f).msgs = s.msgs := rfl
@[simp] theorem State.modCore_toks (s : State) (n : Nat) (f : Core → Core) : (s.modCore n f).toks = s.toks := rfl
@[simp] theorem State.modCore_redirs (s : State) (n : Nat) (f : Core → Core) : (s.modCore n f).redirs = s.redirs := rfl
@[simp] theorem State.modCore_hostOps (s : State) (n : Nat) (f : Core → Core) : (s.modCore n f).hostOps = s.hostOps := rfl
@[simp] theorem State.modCore_nodes (s : State) (n : Nat) (f : Core → Core) : (s.modCore n f).nodes = s.nodes := rfl
@[simp] theorem State.modCore_schedLoad (s : State) (n : Nat) (f : Core → Core) : (s.modCore n f).schedLoad = s.schedLoad := rfl
@[simp] theorem State.modCore_turns (s : State) (n : Nat) (f : Core → Core) : (s.modCore n f).turns = s.turns := rfl
@[simp] theorem State.modCore_rseqs (s : State) (n : Nat) (f : Core → Core) : (s.modCore n f).rseqs = s.rseqs := rfl
@[simp] theorem State.modCore_sweeps (s : State) (n : Nat) (f : Core → Core) : (s.modCore n f).sweeps = s.sweeps := rfl
@[simp] theorem State.modCore_waits (s : State) (n : Nat) (f : Core → Core) : (s.modCore n f).waits = s.waits := rfl
@[simp] theorem State.modCore_boot (s : State) (n : Nat) (f : Core → Core) : (s.modCore n f).boot = s.boot := rfl
@[simp] theorem State.modCore_offered (s : State) (n : Nat) (f : Core → Core) : (s.modCore n f).offered = s.offered := rfl
@[simp] theorem State.modCore_gated (s : State) (n : Nat) (f : Core → Core) : (s.modCore n f).gated = s.gated := rfl
@[simp] theorem State.modCore_limw (s : State) (n : Nat) (f : Core → Core) : (s.modCore n f).limw = s.limw := rfl
@[simp] theorem State.modCore_host (s : State) (n : Nat) (f : Core → Core) : (s.modCore n f).host = s.host := rfl
@[simp] theorem State.modCore_hostp (s : State) (n : Nat) (f : Core → Core) : (s.modCore n f).hostp = s.hostp := rfl
@[simp] theorem State.modCore_outs (s : State) (n : Nat) (f : Core → Core) : (s.modCore n f).outs = s.outs := rfl
@[simp] theorem State.modCore_groups (s : State) (n : Nat) (f : Core → Core) : (s.modCore n f).groups = s.groups := rfl
@[simp] theorem State.modCore_cores (s : State) (n : Nat) (f : Core → Core) : (s.modCore n f).cores = tblPut .fresh s.cores n (f (s.core n)) := rfl
@[simp] theorem State.setInst_clock (s : State) (k : Nat) (i : Inst) : (s.setInst k i).clock = s.clock := rfl
@[simp] theorem State.setInst_agent (s : State) (k : Nat) (i : Inst) : (s.setInst k i).agent = s.agent := rfl
@[simp] theorem State.setInst_agenda (s : State) (k : Nat) (i : Inst) : (s.setInst k i).agenda = s.agenda := rfl
@[simp] theorem State.setInst_inbox (s : State) (k : Nat) (i : Inst) : (s.setInst k i).inbox = s.inbox := rfl
@[simp] theorem State.setInst_mem (s : State) (k : Nat) (i : Inst) : (s.setInst k i).mem = s.mem := rfl
@[simp] theorem State.setInst_cores (s : State) (k : Nat) (i : Inst) : (s.setInst k i).cores = s.cores := rfl
@[simp] theorem State.setInst_strands (s : State) (k : Nat) (i : Inst) : (s.setInst k i).strands = s.strands := rfl
@[simp] theorem State.setInst_kcount (s : State) (k : Nat) (i : Inst) : (s.setInst k i).kcount = s.kcount := rfl
@[simp] theorem State.setInst_queues (s : State) (k : Nat) (i : Inst) : (s.setInst k i).queues = s.queues := rfl
@[simp] theorem State.setInst_waiting (s : State) (k : Nat) (i : Inst) : (s.setInst k i).waiting = s.waiting := rfl
@[simp] theorem State.setInst_saved (s : State) (k : Nat) (i : Inst) : (s.setInst k i).saved = s.saved := rfl
@[simp] theorem State.setInst_places (s : State) (k : Nat) (i : Inst) : (s.setInst k i).places = s.places := rfl
@[simp] theorem State.setInst_staged (s : State) (k : Nat) (i : Inst) : (s.setInst k i).staged = s.staged := rfl
@[simp] theorem State.setInst_chunks (s : State) (k : Nat) (i : Inst) : (s.setInst k i).chunks = s.chunks := rfl
@[simp] theorem State.setInst_msgs (s : State) (k : Nat) (i : Inst) : (s.setInst k i).msgs = s.msgs := rfl
@[simp] theorem State.setInst_toks (s : State) (k : Nat) (i : Inst) : (s.setInst k i).toks = s.toks := rfl
@[simp] theorem State.setInst_redirs (s : State) (k : Nat) (i : Inst) : (s.setInst k i).redirs = s.redirs := rfl
@[simp] theorem State.setInst_hostOps (s : State) (k : Nat) (i : Inst) : (s.setInst k i).hostOps = s.hostOps := rfl
@[simp] theorem State.setInst_nodes (s : State) (k : Nat) (i : Inst) : (s.setInst k i).nodes = s.nodes := rfl
@[simp] theorem State.setInst_schedLoad (s : State) (k : Nat) (i : Inst) : (s.setInst k i).schedLoad = s.schedLoad := rfl
@[simp] theorem State.setInst_turns (s : State) (k : Nat) (i : Inst) : (s.setInst k i).turns = s.turns := rfl
@[simp] theorem State.setInst_rseqs (s : State) (k : Nat) (i : Inst) : (s.setInst k i).rseqs = s.rseqs := rfl
@[simp] theorem State.setInst_sweeps (s : State) (k : Nat) (i : Inst) : (s.setInst k i).sweeps = s.sweeps := rfl
@[simp] theorem State.setInst_waits (s : State) (k : Nat) (i : Inst) : (s.setInst k i).waits = s.waits := rfl
@[simp] theorem State.setInst_boot (s : State) (k : Nat) (i : Inst) : (s.setInst k i).boot = s.boot := rfl
@[simp] theorem State.setInst_offered (s : State) (k : Nat) (i : Inst) : (s.setInst k i).offered = s.offered := rfl
@[simp] theorem State.setInst_gated (s : State) (k : Nat) (i : Inst) : (s.setInst k i).gated = s.gated := rfl
@[simp] theorem State.setInst_limw (s : State) (k : Nat) (i : Inst) : (s.setInst k i).limw = s.limw := rfl
@[simp] theorem State.setInst_host (s : State) (k : Nat) (i : Inst) : (s.setInst k i).host = s.host := rfl
@[simp] theorem State.setInst_hostp (s : State) (k : Nat) (i : Inst) : (s.setInst k i).hostp = s.hostp := rfl
@[simp] theorem State.setInst_outs (s : State) (k : Nat) (i : Inst) : (s.setInst k i).outs = s.outs := rfl
@[simp] theorem State.setInst_groups (s : State) (k : Nat) (i : Inst) : (s.setInst k i).groups = s.groups := rfl
@[simp] theorem State.setInst_insts (s : State) (k : Nat) (i : Inst) : (s.setInst k i).insts = tblInsert s.insts k i := rfl
@[simp] theorem State.report_clock (s : State) (r : Report) : (s.report r).clock = s.clock := rfl
@[simp] theorem State.report_agent (s : State) (r : Report) : (s.report r).agent = s.agent := rfl
@[simp] theorem State.report_agenda (s : State) (r : Report) : (s.report r).agenda = s.agenda := rfl
@[simp] theorem State.report_inbox (s : State) (r : Report) : (s.report r).inbox = s.inbox := rfl
@[simp] theorem State.report_cores (s : State) (r : Report) : (s.report r).cores = s.cores := rfl
@[simp] theorem State.report_strands (s : State) (r : Report) : (s.report r).strands = s.strands := rfl
@[simp] theorem State.report_insts (s : State) (r : Report) : (s.report r).insts = s.insts := rfl
@[simp] theorem State.report_kcount (s : State) (r : Report) : (s.report r).kcount = s.kcount := rfl
@[simp] theorem State.report_queues (s : State) (r : Report) : (s.report r).queues = s.queues := rfl
@[simp] theorem State.report_waiting (s : State) (r : Report) : (s.report r).waiting = s.waiting := rfl
@[simp] theorem State.report_saved (s : State) (r : Report) : (s.report r).saved = s.saved := rfl
@[simp] theorem State.report_places (s : State) (r : Report) : (s.report r).places = s.places := rfl
@[simp] theorem State.report_staged (s : State) (r : Report) : (s.report r).staged = s.staged := rfl
@[simp] theorem State.report_chunks (s : State) (r : Report) : (s.report r).chunks = s.chunks := rfl
@[simp] theorem State.report_msgs (s : State) (r : Report) : (s.report r).msgs = s.msgs := rfl
@[simp] theorem State.report_toks (s : State) (r : Report) : (s.report r).toks = s.toks := rfl
@[simp] theorem State.report_redirs (s : State) (r : Report) : (s.report r).redirs = s.redirs := rfl
@[simp] theorem State.report_hostOps (s : State) (r : Report) : (s.report r).hostOps = s.hostOps := rfl
@[simp] theorem State.report_nodes (s : State) (r : Report) : (s.report r).nodes = s.nodes := rfl
@[simp] theorem State.report_schedLoad (s : State) (r : Report) : (s.report r).schedLoad = s.schedLoad := rfl
@[simp] theorem State.report_turns (s : State) (r : Report) : (s.report r).turns = s.turns := rfl
@[simp] theorem State.report_rseqs (s : State) (r : Report) : (s.report r).rseqs = s.rseqs := rfl
@[simp] theorem State.report_sweeps (s : State) (r : Report) : (s.report r).sweeps = s.sweeps := rfl
@[simp] theorem State.report_waits (s : State) (r : Report) : (s.report r).waits = s.waits := rfl
@[simp] theorem State.report_boot (s : State) (r : Report) : (s.report r).boot = s.boot := rfl
@[simp] theorem State.report_offered (s : State) (r : Report) : (s.report r).offered = s.offered := rfl
@[simp] theorem State.report_gated (s : State) (r : Report) : (s.report r).gated = s.gated := rfl
@[simp] theorem State.report_limw (s : State) (r : Report) : (s.report r).limw = s.limw := rfl
@[simp] theorem State.report_host (s : State) (r : Report) : (s.report r).host = s.host := rfl
@[simp] theorem State.report_hostp (s : State) (r : Report) : (s.report r).hostp = s.hostp := rfl
@[simp] theorem State.report_outs (s : State) (r : Report) : (s.report r).outs = s.outs := rfl
@[simp] theorem State.report_groups (s : State) (r : Report) : (s.report r).groups = s.groups := rfl
@[simp] theorem State.setNode_clock (s : State) (k : Nat) (n : Node) : (s.setNode k n).clock = s.clock := rfl
@[simp] theorem State.setNode_agent (s : State) (k : Nat) (n : Node) : (s.setNode k n).agent = s.agent := rfl
@[simp] theorem State.setNode_agenda (s : State) (k : Nat) (n : Node) : (s.setNode k n).agenda = s.agenda := rfl
@[simp] theorem State.setNode_inbox (s : State) (k : Nat) (n : Node) : (s.setNode k n).inbox = s.inbox := rfl
@[simp] theorem State.setNode_mem (s : State) (k : Nat) (n : Node) : (s.setNode k n).mem = s.mem := rfl
@[simp] theorem State.setNode_cores (s : State) (k : Nat) (n : Node) : (s.setNode k n).cores = s.cores := rfl
@[simp] theorem State.setNode_strands (s : State) (k : Nat) (n : Node) : (s.setNode k n).strands = s.strands := rfl
@[simp] theorem State.setNode_insts (s : State) (k : Nat) (n : Node) : (s.setNode k n).insts = s.insts := rfl
@[simp] theorem State.setNode_kcount (s : State) (k : Nat) (n : Node) : (s.setNode k n).kcount = s.kcount := rfl
@[simp] theorem State.setNode_queues (s : State) (k : Nat) (n : Node) : (s.setNode k n).queues = s.queues := rfl
@[simp] theorem State.setNode_waiting (s : State) (k : Nat) (n : Node) : (s.setNode k n).waiting = s.waiting := rfl
@[simp] theorem State.setNode_saved (s : State) (k : Nat) (n : Node) : (s.setNode k n).saved = s.saved := rfl
@[simp] theorem State.setNode_places (s : State) (k : Nat) (n : Node) : (s.setNode k n).places = s.places := rfl
@[simp] theorem State.setNode_staged (s : State) (k : Nat) (n : Node) : (s.setNode k n).staged = s.staged := rfl
@[simp] theorem State.setNode_chunks (s : State) (k : Nat) (n : Node) : (s.setNode k n).chunks = s.chunks := rfl
@[simp] theorem State.setNode_msgs (s : State) (k : Nat) (n : Node) : (s.setNode k n).msgs = s.msgs := rfl
@[simp] theorem State.setNode_toks (s : State) (k : Nat) (n : Node) : (s.setNode k n).toks = s.toks := rfl
@[simp] theorem State.setNode_redirs (s : State) (k : Nat) (n : Node) : (s.setNode k n).redirs = s.redirs := rfl
@[simp] theorem State.setNode_hostOps (s : State) (k : Nat) (n : Node) : (s.setNode k n).hostOps = s.hostOps := rfl
@[simp] theorem State.setNode_schedLoad (s : State) (k : Nat) (n : Node) : (s.setNode k n).schedLoad = s.schedLoad := rfl
@[simp] theorem State.setNode_turns (s : State) (k : Nat) (n : Node) : (s.setNode k n).turns = s.turns := rfl
@[simp] theorem State.setNode_rseqs (s : State) (k : Nat) (n : Node) : (s.setNode k n).rseqs = s.rseqs := rfl
@[simp] theorem State.setNode_sweeps (s : State) (k : Nat) (n : Node) : (s.setNode k n).sweeps = s.sweeps := rfl
@[simp] theorem State.setNode_waits (s : State) (k : Nat) (n : Node) : (s.setNode k n).waits = s.waits := rfl
@[simp] theorem State.setNode_boot (s : State) (k : Nat) (n : Node) : (s.setNode k n).boot = s.boot := rfl
@[simp] theorem State.setNode_offered (s : State) (k : Nat) (n : Node) : (s.setNode k n).offered = s.offered := rfl
@[simp] theorem State.setNode_gated (s : State) (k : Nat) (n : Node) : (s.setNode k n).gated = s.gated := rfl
@[simp] theorem State.setNode_limw (s : State) (k : Nat) (n : Node) : (s.setNode k n).limw = s.limw := rfl
@[simp] theorem State.setNode_host (s : State) (k : Nat) (n : Node) : (s.setNode k n).host = s.host := rfl
@[simp] theorem State.setNode_hostp (s : State) (k : Nat) (n : Node) : (s.setNode k n).hostp = s.hostp := rfl
@[simp] theorem State.setNode_outs (s : State) (k : Nat) (n : Node) : (s.setNode k n).outs = s.outs := rfl
@[simp] theorem State.setNode_groups (s : State) (k : Nat) (n : Node) : (s.setNode k n).groups = s.groups := rfl
@[simp] theorem State.setNode_nodes (s : State) (k : Nat) (n : Node) : (s.setNode k n).nodes = tblPut .fresh s.nodes k n := rfl
@[simp] theorem State.modStrand_clock (s : State) (sn : Nat) (f : Strand → Strand) : (s.modStrand sn f).clock = s.clock := by unfold State.modStrand; split <;> rfl
@[simp] theorem State.modStrand_agent (s : State) (sn : Nat) (f : Strand → Strand) : (s.modStrand sn f).agent = s.agent := by unfold State.modStrand; split <;> rfl
@[simp] theorem State.modStrand_agenda (s : State) (sn : Nat) (f : Strand → Strand) : (s.modStrand sn f).agenda = s.agenda := by unfold State.modStrand; split <;> rfl
@[simp] theorem State.modStrand_inbox (s : State) (sn : Nat) (f : Strand → Strand) : (s.modStrand sn f).inbox = s.inbox := by unfold State.modStrand; split <;> rfl
@[simp] theorem State.modStrand_mem (s : State) (sn : Nat) (f : Strand → Strand) : (s.modStrand sn f).mem = s.mem := by unfold State.modStrand; split <;> rfl
@[simp] theorem State.modStrand_cores (s : State) (sn : Nat) (f : Strand → Strand) : (s.modStrand sn f).cores = s.cores := by unfold State.modStrand; split <;> rfl
@[simp] theorem State.modStrand_insts (s : State) (sn : Nat) (f : Strand → Strand) : (s.modStrand sn f).insts = s.insts := by unfold State.modStrand; split <;> rfl
@[simp] theorem State.modStrand_kcount (s : State) (sn : Nat) (f : Strand → Strand) : (s.modStrand sn f).kcount = s.kcount := by unfold State.modStrand; split <;> rfl
@[simp] theorem State.modStrand_queues (s : State) (sn : Nat) (f : Strand → Strand) : (s.modStrand sn f).queues = s.queues := by unfold State.modStrand; split <;> rfl
@[simp] theorem State.modStrand_waiting (s : State) (sn : Nat) (f : Strand → Strand) : (s.modStrand sn f).waiting = s.waiting := by unfold State.modStrand; split <;> rfl
@[simp] theorem State.modStrand_saved (s : State) (sn : Nat) (f : Strand → Strand) : (s.modStrand sn f).saved = s.saved := by unfold State.modStrand; split <;> rfl
@[simp] theorem State.modStrand_places (s : State) (sn : Nat) (f : Strand → Strand) : (s.modStrand sn f).places = s.places := by unfold State.modStrand; split <;> rfl
@[simp] theorem State.modStrand_staged (s : State) (sn : Nat) (f : Strand → Strand) : (s.modStrand sn f).staged = s.staged := by unfold State.modStrand; split <;> rfl
@[simp] theorem State.modStrand_chunks (s : State) (sn : Nat) (f : Strand → Strand) : (s.modStrand sn f).chunks = s.chunks := by unfold State.modStrand; split <;> rfl
@[simp] theorem State.modStrand_msgs (s : State) (sn : Nat) (f : Strand → Strand) : (s.modStrand sn f).msgs = s.msgs := by unfold State.modStrand; split <;> rfl
@[simp] theorem State.modStrand_toks (s : State) (sn : Nat) (f : Strand → Strand) : (s.modStrand sn f).toks = s.toks := by unfold State.modStrand; split <;> rfl
@[simp] theorem State.modStrand_redirs (s : State) (sn : Nat) (f : Strand → Strand) : (s.modStrand sn f).redirs = s.redirs := by unfold State.modStrand; split <;> rfl
@[simp] theorem State.modStrand_hostOps (s : State) (sn : Nat) (f : Strand → Strand) : (s.modStrand sn f).hostOps = s.hostOps := by unfold State.modStrand; split <;> rfl
@[simp] theorem State.modStrand_nodes (s : State) (sn : Nat) (f : Strand → Strand) : (s.modStrand sn f).nodes = s.nodes := by unfold State.modStrand; split <;> rfl
@[simp] theorem State.modStrand_schedLoad (s : State) (sn : Nat) (f : Strand → Strand) : (s.modStrand sn f).schedLoad = s.schedLoad := by unfold State.modStrand; split <;> rfl
@[simp] theorem State.modStrand_turns (s : State) (sn : Nat) (f : Strand → Strand) : (s.modStrand sn f).turns = s.turns := by unfold State.modStrand; split <;> rfl
@[simp] theorem State.modStrand_rseqs (s : State) (sn : Nat) (f : Strand → Strand) : (s.modStrand sn f).rseqs = s.rseqs := by unfold State.modStrand; split <;> rfl
@[simp] theorem State.modStrand_sweeps (s : State) (sn : Nat) (f : Strand → Strand) : (s.modStrand sn f).sweeps = s.sweeps := by unfold State.modStrand; split <;> rfl
@[simp] theorem State.modStrand_waits (s : State) (sn : Nat) (f : Strand → Strand) : (s.modStrand sn f).waits = s.waits := by unfold State.modStrand; split <;> rfl
@[simp] theorem State.modStrand_boot (s : State) (sn : Nat) (f : Strand → Strand) : (s.modStrand sn f).boot = s.boot := by unfold State.modStrand; split <;> rfl
@[simp] theorem State.modStrand_offered (s : State) (sn : Nat) (f : Strand → Strand) : (s.modStrand sn f).offered = s.offered := by unfold State.modStrand; split <;> rfl
@[simp] theorem State.modStrand_gated (s : State) (sn : Nat) (f : Strand → Strand) : (s.modStrand sn f).gated = s.gated := by unfold State.modStrand; split <;> rfl
@[simp] theorem State.modStrand_limw (s : State) (sn : Nat) (f : Strand → Strand) : (s.modStrand sn f).limw = s.limw := by unfold State.modStrand; split <;> rfl
@[simp] theorem State.modStrand_host (s : State) (sn : Nat) (f : Strand → Strand) : (s.modStrand sn f).host = s.host := by unfold State.modStrand; split <;> rfl
@[simp] theorem State.modStrand_hostp (s : State) (sn : Nat) (f : Strand → Strand) : (s.modStrand sn f).hostp = s.hostp := by unfold State.modStrand; split <;> rfl
@[simp] theorem State.modStrand_outs (s : State) (sn : Nat) (f : Strand → Strand) : (s.modStrand sn f).outs = s.outs := by unfold State.modStrand; split <;> rfl
@[simp] theorem State.modStrand_groups (s : State) (sn : Nat) (f : Strand → Strand) : (s.modStrand sn f).groups = s.groups := by unfold State.modStrand; split <;> rfl
@[simp] theorem State.modInst_clock (s : State) (k : Nat) (f : Inst → Inst) : (s.modInst k f).clock = s.clock := by unfold State.modInst; split <;> rfl
@[simp] theorem State.modInst_agent (s : State) (k : Nat) (f : Inst → Inst) : (s.modInst k f).agent = s.agent := by unfold State.modInst; split <;> rfl
@[simp] theorem State.modInst_agenda (s : State) (k : Nat) (f : Inst → Inst) : (s.modInst k f).agenda = s.agenda := by unfold State.modInst; split <;> rfl
@[simp] theorem State.modInst_inbox (s : State) (k : Nat) (f : Inst → Inst) : (s.modInst k f).inbox = s.inbox := by unfold State.modInst; split <;> rfl
@[simp] theorem State.modInst_mem (s : State) (k : Nat) (f : Inst → Inst) : (s.modInst k f).mem = s.mem := by unfold State.modInst; split <;> rfl
@[simp] theorem State.modInst_cores (s : State) (k : Nat) (f : Inst → Inst) : (s.modInst k f).cores = s.cores := by unfold State.modInst; split <;> rfl
@[simp] theorem State.modInst_strands (s : State) (k : Nat) (f : Inst → Inst) : (s.modInst k f).strands = s.strands := by unfold State.modInst; split <;> rfl
@[simp] theorem State.modInst_kcount (s : State) (k : Nat) (f : Inst → Inst) : (s.modInst k f).kcount = s.kcount := by unfold State.modInst; split <;> rfl
@[simp] theorem State.modInst_queues (s : State) (k : Nat) (f : Inst → Inst) : (s.modInst k f).queues = s.queues := by unfold State.modInst; split <;> rfl
@[simp] theorem State.modInst_waiting (s : State) (k : Nat) (f : Inst → Inst) : (s.modInst k f).waiting = s.waiting := by unfold State.modInst; split <;> rfl
@[simp] theorem State.modInst_saved (s : State) (k : Nat) (f : Inst → Inst) : (s.modInst k f).saved = s.saved := by unfold State.modInst; split <;> rfl
@[simp] theorem State.modInst_places (s : State) (k : Nat) (f : Inst → Inst) : (s.modInst k f).places = s.places := by unfold State.modInst; split <;> rfl
@[simp] theorem State.modInst_staged (s : State) (k : Nat) (f : Inst → Inst) : (s.modInst k f).staged = s.staged := by unfold State.modInst; split <;> rfl
@[simp] theorem State.modInst_chunks (s : State) (k : Nat) (f : Inst → Inst) : (s.modInst k f).chunks = s.chunks := by unfold State.modInst; split <;> rfl
@[simp] theorem State.modInst_msgs (s : State) (k : Nat) (f : Inst → Inst) : (s.modInst k f).msgs = s.msgs := by unfold State.modInst; split <;> rfl
@[simp] theorem State.modInst_toks (s : State) (k : Nat) (f : Inst → Inst) : (s.modInst k f).toks = s.toks := by unfold State.modInst; split <;> rfl
@[simp] theorem State.modInst_redirs (s : State) (k : Nat) (f : Inst → Inst) : (s.modInst k f).redirs = s.redirs := by unfold State.modInst; split <;> rfl
@[simp] theorem State.modInst_hostOps (s : State) (k : Nat) (f : Inst → Inst) : (s.modInst k f).hostOps = s.hostOps := by unfold State.modInst; split <;> rfl
@[simp] theorem State.modInst_nodes (s : State) (k : Nat) (f : Inst → Inst) : (s.modInst k f).nodes = s.nodes := by unfold State.modInst; split <;> rfl
@[simp] theorem State.modInst_schedLoad (s : State) (k : Nat) (f : Inst → Inst) : (s.modInst k f).schedLoad = s.schedLoad := by unfold State.modInst; split <;> rfl
@[simp] theorem State.modInst_turns (s : State) (k : Nat) (f : Inst → Inst) : (s.modInst k f).turns = s.turns := by unfold State.modInst; split <;> rfl
@[simp] theorem State.modInst_rseqs (s : State) (k : Nat) (f : Inst → Inst) : (s.modInst k f).rseqs = s.rseqs := by unfold State.modInst; split <;> rfl
@[simp] theorem State.modInst_sweeps (s : State) (k : Nat) (f : Inst → Inst) : (s.modInst k f).sweeps = s.sweeps := by unfold State.modInst; split <;> rfl
@[simp] theorem State.modInst_waits (s : State) (k : Nat) (f : Inst → Inst) : (s.modInst k f).waits = s.waits := by unfold State.modInst; split <;> rfl
@[simp] theorem State.modInst_boot (s : State) (k : Nat) (f : Inst → Inst) : (s.modInst k f).boot = s.boot := by unfold State.modInst; split <;> rfl
@[simp] theorem State.modInst_offered (s : State) (k : Nat) (f : Inst → Inst) : (s.modInst k f).offered = s.offered := by unfold State.modInst; split <;> rfl
@[simp] theorem State.modInst_gated (s : State) (k : Nat) (f : Inst → Inst) : (s.modInst k f).gated = s.gated := by unfold State.modInst; split <;> rfl
@[simp] theorem State.modInst_limw (s : State) (k : Nat) (f : Inst → Inst) : (s.modInst k f).limw = s.limw := by unfold State.modInst; split <;> rfl
@[simp] theorem State.modInst_host (s : State) (k : Nat) (f : Inst → Inst) : (s.modInst k f).host = s.host := by unfold State.modInst; split <;> rfl
@[simp] theorem State.modInst_hostp (s : State) (k : Nat) (f : Inst → Inst) : (s.modInst k f).hostp = s.hostp := by unfold State.modInst; split <;> rfl
@[simp] theorem State.modInst_outs (s : State) (k : Nat) (f : Inst → Inst) : (s.modInst k f).outs = s.outs := by unfold State.modInst; split <;> rfl
@[simp] theorem State.modInst_groups (s : State) (k : Nat) (f : Inst → Inst) : (s.modInst k f).groups = s.groups := by unfold State.modInst; split <;> rfl
@[simp] theorem State.invalL1_clock (s : State) (n : Nat) : (s.invalL1 n).clock = s.clock := rfl
@[simp] theorem State.invalL1_agent (s : State) (n : Nat) : (s.invalL1 n).agent = s.agent := rfl
@[simp] theorem State.invalL1_agenda (s : State) (n : Nat) : (s.invalL1 n).agenda = s.agenda := rfl
@[simp] theorem State.invalL1_inbox (s : State) (n : Nat) : (s.invalL1 n).inbox = s.inbox := rfl
@[simp] theorem State.invalL1_mem (s : State) (n : Nat) : (s.invalL1 n).mem = s.mem := rfl
@[simp] theorem State.invalL1_strands (s : State) (n : Nat) : (s.invalL1 n).strands = s.strands := rfl
@[simp] theorem State.invalL1_insts (s : State) (n : Nat) : (s.invalL1 n).insts = s.insts := rfl
@[simp] theorem State.invalL1_kcount (s : State) (n : Nat) : (s.invalL1 n).kcount = s.kcount := rfl
@[simp] theorem State.invalL1_queues (s : State) (n : Nat) : (s.invalL1 n).queues = s.queues := rfl
@[simp] theorem State.invalL1_waiting (s : State) (n : Nat) : (s.invalL1 n).waiting = s.waiting := rfl
@[simp] theorem State.invalL1_saved (s : State) (n : Nat) : (s.invalL1 n).saved = s.saved := rfl
@[simp] theorem State.invalL1_places (s : State) (n : Nat) : (s.invalL1 n).places = s.places := rfl
@[simp] theorem State.invalL1_staged (s : State) (n : Nat) : (s.invalL1 n).staged = s.staged := rfl
@[simp] theorem State.invalL1_chunks (s : State) (n : Nat) : (s.invalL1 n).chunks = s.chunks := rfl
@[simp] theorem State.invalL1_msgs (s : State) (n : Nat) : (s.invalL1 n).msgs = s.msgs := rfl
@[simp] theorem State.invalL1_toks (s : State) (n : Nat) : (s.invalL1 n).toks = s.toks := rfl
@[simp] theorem State.invalL1_redirs (s : State) (n : Nat) : (s.invalL1 n).redirs = s.redirs := rfl
@[simp] theorem State.invalL1_hostOps (s : State) (n : Nat) : (s.invalL1 n).hostOps = s.hostOps := rfl
@[simp] theorem State.invalL1_nodes (s : State) (n : Nat) : (s.invalL1 n).nodes = s.nodes := rfl
@[simp] theorem State.invalL1_schedLoad (s : State) (n : Nat) : (s.invalL1 n).schedLoad = s.schedLoad := rfl
@[simp] theorem State.invalL1_turns (s : State) (n : Nat) : (s.invalL1 n).turns = s.turns := rfl
@[simp] theorem State.invalL1_rseqs (s : State) (n : Nat) : (s.invalL1 n).rseqs = s.rseqs := rfl
@[simp] theorem State.invalL1_sweeps (s : State) (n : Nat) : (s.invalL1 n).sweeps = s.sweeps := rfl
@[simp] theorem State.invalL1_waits (s : State) (n : Nat) : (s.invalL1 n).waits = s.waits := rfl
@[simp] theorem State.invalL1_boot (s : State) (n : Nat) : (s.invalL1 n).boot = s.boot := rfl
@[simp] theorem State.invalL1_offered (s : State) (n : Nat) : (s.invalL1 n).offered = s.offered := rfl
@[simp] theorem State.invalL1_gated (s : State) (n : Nat) : (s.invalL1 n).gated = s.gated := rfl
@[simp] theorem State.invalL1_limw (s : State) (n : Nat) : (s.invalL1 n).limw = s.limw := rfl
@[simp] theorem State.invalL1_host (s : State) (n : Nat) : (s.invalL1 n).host = s.host := rfl
@[simp] theorem State.invalL1_hostp (s : State) (n : Nat) : (s.invalL1 n).hostp = s.hostp := rfl
@[simp] theorem State.invalL1_outs (s : State) (n : Nat) : (s.invalL1 n).outs = s.outs := rfl
@[simp] theorem State.invalL1_groups (s : State) (n : Nat) : (s.invalL1 n).groups = s.groups := rfl

/-! ### A strand -/

@[simp] theorem Strand.mapSeq_kinst (t : Strand) (f : Seq → Seq) : (t.mapSeq f).kinst = t.kinst := rfl
@[simp] theorem Strand.mapSeq_lin (t : Strand) (f : Seq → Seq) : (t.mapSeq f).lin = t.lin := rfl
@[simp] theorem Strand.mapSeq_run (t : Strand) (f : Seq → Seq) : (t.mapSeq f).run = t.run := rfl
@[simp] theorem Strand.mapSeq_allot (t : Strand) (f : Seq → Seq) : (t.mapSeq f).allot = t.allot := rfl
@[simp] theorem Strand.mapSeq_tok (t : Strand) (f : Seq → Seq) : (t.mapSeq f).tok = t.tok := rfl
@[simp] theorem Strand.mapSeq_secp (t : Strand) (f : Seq → Seq) : (t.mapSeq f).secp = t.secp := rfl
@[simp] theorem Strand.mapSeq_arr (t : Strand) (f : Seq → Seq) : (t.mapSeq f).arr = t.arr := rfl
@[simp] theorem Strand.mapSeq_arrx (t : Strand) (f : Seq → Seq) : (t.mapSeq f).arrx = t.arrx := rfl
@[simp] theorem Strand.mapSeq_mx (t : Strand) (f : Seq → Seq) : (t.mapSeq f).mx = t.mx := rfl
@[simp] theorem Strand.mapSeq_str (t : Strand) (f : Seq → Seq) : (t.mapSeq f).str = t.str := rfl
@[simp] theorem Strand.mapSeq_prog (t : Strand) (f : Seq → Seq) : (t.mapSeq f).prog = t.prog := rfl
@[simp] theorem Strand.mapSeq_seq (t : Strand) (f : Seq → Seq) : (t.mapSeq f).seq = f t.seq := rfl
@[simp] theorem Strand.mapCtl_kinst (t : Strand) (f : Ctl → Ctl) : (t.mapCtl f).kinst = t.kinst := rfl
@[simp] theorem Strand.mapCtl_lin (t : Strand) (f : Ctl → Ctl) : (t.mapCtl f).lin = t.lin := rfl
@[simp] theorem Strand.mapCtl_run (t : Strand) (f : Ctl → Ctl) : (t.mapCtl f).run = t.run := rfl
@[simp] theorem Strand.mapCtl_allot (t : Strand) (f : Ctl → Ctl) : (t.mapCtl f).allot = t.allot := rfl
@[simp] theorem Strand.mapCtl_tok (t : Strand) (f : Ctl → Ctl) : (t.mapCtl f).tok = t.tok := rfl
@[simp] theorem Strand.mapCtl_secp (t : Strand) (f : Ctl → Ctl) : (t.mapCtl f).secp = t.secp := rfl
@[simp] theorem Strand.mapCtl_arr (t : Strand) (f : Ctl → Ctl) : (t.mapCtl f).arr = t.arr := rfl
@[simp] theorem Strand.mapCtl_arrx (t : Strand) (f : Ctl → Ctl) : (t.mapCtl f).arrx = t.arrx := rfl
@[simp] theorem Strand.mapCtl_mx (t : Strand) (f : Ctl → Ctl) : (t.mapCtl f).mx = t.mx := rfl
@[simp] theorem Strand.mapCtl_str (t : Strand) (f : Ctl → Ctl) : (t.mapCtl f).str = t.str := rfl
@[simp] theorem Strand.mapCtl_prog (t : Strand) (f : Ctl → Ctl) : (t.mapCtl f).prog = t.prog := rfl
@[simp] theorem Strand.mapCtl_seq_pc (t : Strand) (f : Ctl → Ctl) : (t.mapCtl f).seq.pc = t.seq.pc := rfl
@[simp] theorem Strand.mapCtl_seq_g (t : Strand) (f : Ctl → Ctl) : (t.mapCtl f).seq.g = t.seq.g := rfl
@[simp] theorem Strand.mapCtl_seq_gp (t : Strand) (f : Ctl → Ctl) : (t.mapCtl f).seq.gp = t.seq.gp := rfl
@[simp] theorem Strand.mapCtl_seq_gpend (t : Strand) (f : Ctl → Ctl) : (t.mapCtl f).seq.gpend = t.seq.gpend := rfl
@[simp] theorem Strand.mapCtl_seq_glat (t : Strand) (f : Ctl → Ctl) : (t.mapCtl f).seq.glat = t.seq.glat := rfl
@[simp] theorem Strand.mapCtl_seq_undo (t : Strand) (f : Ctl → Ctl) : (t.mapCtl f).seq.undo = t.seq.undo := rfl
@[simp] theorem Strand.mapCtl_seq_loads (t : Strand) (f : Ctl → Ctl) : (t.mapCtl f).seq.loads = t.seq.loads := rfl
@[simp] theorem Strand.mapCtl_seq_stores (t : Strand) (f : Ctl → Ctl) : (t.mapCtl f).seq.stores = t.seq.stores := rfl
@[simp] theorem Strand.mapCtl_seq_reds (t : Strand) (f : Ctl → Ctl) : (t.mapCtl f).seq.reds = t.seq.reds := rfl
@[simp] theorem Strand.mapCtl_seq_trap (t : Strand) (f : Ctl → Ctl) : (t.mapCtl f).seq.trap = t.seq.trap := rfl
@[simp] theorem Strand.mapCtl_seq_wait (t : Strand) (f : Ctl → Ctl) : (t.mapCtl f).seq.wait = t.seq.wait := rfl
@[simp] theorem Strand.mapCtl_seq_ir (t : Strand) (f : Ctl → Ctl) : (t.mapCtl f).seq.ir = t.seq.ir := rfl
@[simp] theorem Strand.mapCtl_seq_slots (t : Strand) (f : Ctl → Ctl) : (t.mapCtl f).seq.slots = t.seq.slots := rfl
@[simp] theorem Strand.mapCtl_seq_gens (t : Strand) (f : Ctl → Ctl) : (t.mapCtl f).seq.gens = t.seq.gens := rfl
@[simp] theorem Strand.mapCtl_seq_barriers (t : Strand) (f : Ctl → Ctl) : (t.mapCtl f).seq.barriers = t.seq.barriers := rfl
@[simp] theorem Strand.mapCtl_seq_acks (t : Strand) (f : Ctl → Ctl) : (t.mapCtl f).seq.acks = t.seq.acks := rfl
@[simp] theorem Strand.mapCtl_seq_nextId (t : Strand) (f : Ctl → Ctl) : (t.mapCtl f).seq.nextId = t.seq.nextId := rfl
@[simp] theorem Strand.mapCtl_seq_seq (t : Strand) (f : Ctl → Ctl) : (t.mapCtl f).seq.seq = t.seq.seq := rfl
@[simp] theorem Strand.mapCtl_seq_ctl (t : Strand) (f : Ctl → Ctl) : (t.mapCtl f).seq.ctl = f t.seq.ctl := rfl
@[simp] theorem Strand.mapTrap_kinst (t : Strand) (f : Trap → Trap) : (t.mapTrap f).kinst = t.kinst := rfl
@[simp] theorem Strand.mapTrap_lin (t : Strand) (f : Trap → Trap) : (t.mapTrap f).lin = t.lin := rfl
@[simp] theorem Strand.mapTrap_run (t : Strand) (f : Trap → Trap) : (t.mapTrap f).run = t.run := rfl
@[simp] theorem Strand.mapTrap_allot (t : Strand) (f : Trap → Trap) : (t.mapTrap f).allot = t.allot := rfl
@[simp] theorem Strand.mapTrap_tok (t : Strand) (f : Trap → Trap) : (t.mapTrap f).tok = t.tok := rfl
@[simp] theorem Strand.mapTrap_secp (t : Strand) (f : Trap → Trap) : (t.mapTrap f).secp = t.secp := rfl
@[simp] theorem Strand.mapTrap_arr (t : Strand) (f : Trap → Trap) : (t.mapTrap f).arr = t.arr := rfl
@[simp] theorem Strand.mapTrap_arrx (t : Strand) (f : Trap → Trap) : (t.mapTrap f).arrx = t.arrx := rfl
@[simp] theorem Strand.mapTrap_mx (t : Strand) (f : Trap → Trap) : (t.mapTrap f).mx = t.mx := rfl
@[simp] theorem Strand.mapTrap_str (t : Strand) (f : Trap → Trap) : (t.mapTrap f).str = t.str := rfl
@[simp] theorem Strand.mapTrap_prog (t : Strand) (f : Trap → Trap) : (t.mapTrap f).prog = t.prog := rfl
@[simp] theorem Strand.mapTrap_seq_pc (t : Strand) (f : Trap → Trap) : (t.mapTrap f).seq.pc = t.seq.pc := rfl
@[simp] theorem Strand.mapTrap_seq_g (t : Strand) (f : Trap → Trap) : (t.mapTrap f).seq.g = t.seq.g := rfl
@[simp] theorem Strand.mapTrap_seq_gp (t : Strand) (f : Trap → Trap) : (t.mapTrap f).seq.gp = t.seq.gp := rfl
@[simp] theorem Strand.mapTrap_seq_gpend (t : Strand) (f : Trap → Trap) : (t.mapTrap f).seq.gpend = t.seq.gpend := rfl
@[simp] theorem Strand.mapTrap_seq_glat (t : Strand) (f : Trap → Trap) : (t.mapTrap f).seq.glat = t.seq.glat := rfl
@[simp] theorem Strand.mapTrap_seq_undo (t : Strand) (f : Trap → Trap) : (t.mapTrap f).seq.undo = t.seq.undo := rfl
@[simp] theorem Strand.mapTrap_seq_loads (t : Strand) (f : Trap → Trap) : (t.mapTrap f).seq.loads = t.seq.loads := rfl
@[simp] theorem Strand.mapTrap_seq_stores (t : Strand) (f : Trap → Trap) : (t.mapTrap f).seq.stores = t.seq.stores := rfl
@[simp] theorem Strand.mapTrap_seq_reds (t : Strand) (f : Trap → Trap) : (t.mapTrap f).seq.reds = t.seq.reds := rfl
@[simp] theorem Strand.mapTrap_seq_ctl (t : Strand) (f : Trap → Trap) : (t.mapTrap f).seq.ctl = t.seq.ctl := rfl
@[simp] theorem Strand.mapTrap_seq_wait (t : Strand) (f : Trap → Trap) : (t.mapTrap f).seq.wait = t.seq.wait := rfl
@[simp] theorem Strand.mapTrap_seq_ir (t : Strand) (f : Trap → Trap) : (t.mapTrap f).seq.ir = t.seq.ir := rfl
@[simp] theorem Strand.mapTrap_seq_slots (t : Strand) (f : Trap → Trap) : (t.mapTrap f).seq.slots = t.seq.slots := rfl
@[simp] theorem Strand.mapTrap_seq_gens (t : Strand) (f : Trap → Trap) : (t.mapTrap f).seq.gens = t.seq.gens := rfl
@[simp] theorem Strand.mapTrap_seq_barriers (t : Strand) (f : Trap → Trap) : (t.mapTrap f).seq.barriers = t.seq.barriers := rfl
@[simp] theorem Strand.mapTrap_seq_acks (t : Strand) (f : Trap → Trap) : (t.mapTrap f).seq.acks = t.seq.acks := rfl
@[simp] theorem Strand.mapTrap_seq_nextId (t : Strand) (f : Trap → Trap) : (t.mapTrap f).seq.nextId = t.seq.nextId := rfl
@[simp] theorem Strand.mapTrap_seq_seq (t : Strand) (f : Trap → Trap) : (t.mapTrap f).seq.seq = t.seq.seq := rfl
@[simp] theorem Strand.mapTrap_seq_trap (t : Strand) (f : Trap → Trap) : (t.mapTrap f).seq.trap = f t.seq.trap := rfl
@[simp] theorem Strand.setWait_kinst (t : Strand) (x : Wait) : (t.setWait x).kinst = t.kinst := rfl
@[simp] theorem Strand.setWait_lin (t : Strand) (x : Wait) : (t.setWait x).lin = t.lin := rfl
@[simp] theorem Strand.setWait_run (t : Strand) (x : Wait) : (t.setWait x).run = t.run := rfl
@[simp] theorem Strand.setWait_allot (t : Strand) (x : Wait) : (t.setWait x).allot = t.allot := rfl
@[simp] theorem Strand.setWait_tok (t : Strand) (x : Wait) : (t.setWait x).tok = t.tok := rfl
@[simp] theorem Strand.setWait_secp (t : Strand) (x : Wait) : (t.setWait x).secp = t.secp := rfl
@[simp] theorem Strand.setWait_arr (t : Strand) (x : Wait) : (t.setWait x).arr = t.arr := rfl
@[simp] theorem Strand.setWait_arrx (t : Strand) (x : Wait) : (t.setWait x).arrx = t.arrx := rfl
@[simp] theorem Strand.setWait_mx (t : Strand) (x : Wait) : (t.setWait x).mx = t.mx := rfl
@[simp] theorem Strand.setWait_str (t : Strand) (x : Wait) : (t.setWait x).str = t.str := rfl
@[simp] theorem Strand.setWait_prog (t : Strand) (x : Wait) : (t.setWait x).prog = t.prog := rfl
@[simp] theorem Strand.setWait_seq_pc (t : Strand) (x : Wait) : (t.setWait x).seq.pc = t.seq.pc := rfl
@[simp] theorem Strand.setWait_seq_g (t : Strand) (x : Wait) : (t.setWait x).seq.g = t.seq.g := rfl
@[simp] theorem Strand.setWait_seq_gp (t : Strand) (x : Wait) : (t.setWait x).seq.gp = t.seq.gp := rfl
@[simp] theorem Strand.setWait_seq_gpend (t : Strand) (x : Wait) : (t.setWait x).seq.gpend = t.seq.gpend := rfl
@[simp] theorem Strand.setWait_seq_glat (t : Strand) (x : Wait) : (t.setWait x).seq.glat = t.seq.glat := rfl
@[simp] theorem Strand.setWait_seq_undo (t : Strand) (x : Wait) : (t.setWait x).seq.undo = t.seq.undo := rfl
@[simp] theorem Strand.setWait_seq_loads (t : Strand) (x : Wait) : (t.setWait x).seq.loads = t.seq.loads := rfl
@[simp] theorem Strand.setWait_seq_stores (t : Strand) (x : Wait) : (t.setWait x).seq.stores = t.seq.stores := rfl
@[simp] theorem Strand.setWait_seq_reds (t : Strand) (x : Wait) : (t.setWait x).seq.reds = t.seq.reds := rfl
@[simp] theorem Strand.setWait_seq_ctl (t : Strand) (x : Wait) : (t.setWait x).seq.ctl = t.seq.ctl := rfl
@[simp] theorem Strand.setWait_seq_trap (t : Strand) (x : Wait) : (t.setWait x).seq.trap = t.seq.trap := rfl
@[simp] theorem Strand.setWait_seq_ir (t : Strand) (x : Wait) : (t.setWait x).seq.ir = t.seq.ir := rfl
@[simp] theorem Strand.setWait_seq_slots (t : Strand) (x : Wait) : (t.setWait x).seq.slots = t.seq.slots := rfl
@[simp] theorem Strand.setWait_seq_gens (t : Strand) (x : Wait) : (t.setWait x).seq.gens = t.seq.gens := rfl
@[simp] theorem Strand.setWait_seq_barriers (t : Strand) (x : Wait) : (t.setWait x).seq.barriers = t.seq.barriers := rfl
@[simp] theorem Strand.setWait_seq_acks (t : Strand) (x : Wait) : (t.setWait x).seq.acks = t.seq.acks := rfl
@[simp] theorem Strand.setWait_seq_nextId (t : Strand) (x : Wait) : (t.setWait x).seq.nextId = t.seq.nextId := rfl
@[simp] theorem Strand.setWait_seq_seq (t : Strand) (x : Wait) : (t.setWait x).seq.seq = t.seq.seq := rfl
@[simp] theorem Strand.setWait_seq_wait (t : Strand) (x : Wait) : (t.setWait x).seq.wait = x := rfl
@[simp] theorem Strand.nextSeq_kinst (t : Strand)  : (t.nextSeq).kinst = t.kinst := rfl
@[simp] theorem Strand.nextSeq_lin (t : Strand)  : (t.nextSeq).lin = t.lin := rfl
@[simp] theorem Strand.nextSeq_run (t : Strand)  : (t.nextSeq).run = t.run := rfl
@[simp] theorem Strand.nextSeq_allot (t : Strand)  : (t.nextSeq).allot = t.allot := rfl
@[simp] theorem Strand.nextSeq_tok (t : Strand)  : (t.nextSeq).tok = t.tok := rfl
@[simp] theorem Strand.nextSeq_secp (t : Strand)  : (t.nextSeq).secp = t.secp := rfl
@[simp] theorem Strand.nextSeq_arr (t : Strand)  : (t.nextSeq).arr = t.arr := rfl
@[simp] theorem Strand.nextSeq_arrx (t : Strand)  : (t.nextSeq).arrx = t.arrx := rfl
@[simp] theorem Strand.nextSeq_mx (t : Strand)  : (t.nextSeq).mx = t.mx := rfl
@[simp] theorem Strand.nextSeq_str (t : Strand)  : (t.nextSeq).str = t.str := rfl
@[simp] theorem Strand.nextSeq_prog (t : Strand)  : (t.nextSeq).prog = t.prog := rfl
@[simp] theorem Strand.nextSeq_seq_pc (t : Strand)  : (t.nextSeq).seq.pc = t.seq.pc := rfl
@[simp] theorem Strand.nextSeq_seq_g (t : Strand)  : (t.nextSeq).seq.g = t.seq.g := rfl
@[simp] theorem Strand.nextSeq_seq_gp (t : Strand)  : (t.nextSeq).seq.gp = t.seq.gp := rfl
@[simp] theorem Strand.nextSeq_seq_gpend (t : Strand)  : (t.nextSeq).seq.gpend = t.seq.gpend := rfl
@[simp] theorem Strand.nextSeq_seq_glat (t : Strand)  : (t.nextSeq).seq.glat = t.seq.glat := rfl
@[simp] theorem Strand.nextSeq_seq_undo (t : Strand)  : (t.nextSeq).seq.undo = t.seq.undo := rfl
@[simp] theorem Strand.nextSeq_seq_loads (t : Strand)  : (t.nextSeq).seq.loads = t.seq.loads := rfl
@[simp] theorem Strand.nextSeq_seq_stores (t : Strand)  : (t.nextSeq).seq.stores = t.seq.stores := rfl
@[simp] theorem Strand.nextSeq_seq_reds (t : Strand)  : (t.nextSeq).seq.reds = t.seq.reds := rfl
@[simp] theorem Strand.nextSeq_seq_ctl (t : Strand)  : (t.nextSeq).seq.ctl = t.seq.ctl := rfl
@[simp] theorem Strand.nextSeq_seq_trap (t : Strand)  : (t.nextSeq).seq.trap = t.seq.trap := rfl
@[simp] theorem Strand.nextSeq_seq_wait (t : Strand)  : (t.nextSeq).seq.wait = t.seq.wait := rfl
@[simp] theorem Strand.nextSeq_seq_ir (t : Strand)  : (t.nextSeq).seq.ir = t.seq.ir := rfl
@[simp] theorem Strand.nextSeq_seq_slots (t : Strand)  : (t.nextSeq).seq.slots = t.seq.slots := rfl
@[simp] theorem Strand.nextSeq_seq_gens (t : Strand)  : (t.nextSeq).seq.gens = t.seq.gens := rfl
@[simp] theorem Strand.nextSeq_seq_barriers (t : Strand)  : (t.nextSeq).seq.barriers = t.seq.barriers := rfl
@[simp] theorem Strand.nextSeq_seq_acks (t : Strand)  : (t.nextSeq).seq.acks = t.seq.acks := rfl
@[simp] theorem Strand.nextSeq_seq_nextId (t : Strand)  : (t.nextSeq).seq.nextId = t.seq.nextId := rfl
@[simp] theorem Strand.nextSeq_seq_seq (t : Strand)  : (t.nextSeq).seq.seq = t.seq.seq + 1 := rfl
@[simp] theorem Strand.nextAcc_kinst (t : Strand)  : (t.nextAcc).kinst = t.kinst := rfl
@[simp] theorem Strand.nextAcc_lin (t : Strand)  : (t.nextAcc).lin = t.lin := rfl
@[simp] theorem Strand.nextAcc_run (t : Strand)  : (t.nextAcc).run = t.run := rfl
@[simp] theorem Strand.nextAcc_allot (t : Strand)  : (t.nextAcc).allot = t.allot := rfl
@[simp] theorem Strand.nextAcc_tok (t : Strand)  : (t.nextAcc).tok = t.tok := rfl
@[simp] theorem Strand.nextAcc_secp (t : Strand)  : (t.nextAcc).secp = t.secp := rfl
@[simp] theorem Strand.nextAcc_arr (t : Strand)  : (t.nextAcc).arr = t.arr := rfl
@[simp] theorem Strand.nextAcc_arrx (t : Strand)  : (t.nextAcc).arrx = t.arrx := rfl
@[simp] theorem Strand.nextAcc_mx (t : Strand)  : (t.nextAcc).mx = t.mx := rfl
@[simp] theorem Strand.nextAcc_str (t : Strand)  : (t.nextAcc).str = t.str := rfl
@[simp] theorem Strand.nextAcc_prog (t : Strand)  : (t.nextAcc).prog = t.prog := rfl
@[simp] theorem Strand.nextAcc_seq_pc (t : Strand)  : (t.nextAcc).seq.pc = t.seq.pc := rfl
@[simp] theorem Strand.nextAcc_seq_g (t : Strand)  : (t.nextAcc).seq.g = t.seq.g := rfl
@[simp] theorem Strand.nextAcc_seq_gp (t : Strand)  : (t.nextAcc).seq.gp = t.seq.gp := rfl
@[simp] theorem Strand.nextAcc_seq_gpend (t : Strand)  : (t.nextAcc).seq.gpend = t.seq.gpend := rfl
@[simp] theorem Strand.nextAcc_seq_glat (t : Strand)  : (t.nextAcc).seq.glat = t.seq.glat := rfl
@[simp] theorem Strand.nextAcc_seq_undo (t : Strand)  : (t.nextAcc).seq.undo = t.seq.undo := rfl
@[simp] theorem Strand.nextAcc_seq_loads (t : Strand)  : (t.nextAcc).seq.loads = t.seq.loads := rfl
@[simp] theorem Strand.nextAcc_seq_stores (t : Strand)  : (t.nextAcc).seq.stores = t.seq.stores := rfl
@[simp] theorem Strand.nextAcc_seq_reds (t : Strand)  : (t.nextAcc).seq.reds = t.seq.reds := rfl
@[simp] theorem Strand.nextAcc_seq_ctl (t : Strand)  : (t.nextAcc).seq.ctl = t.seq.ctl := rfl
@[simp] theorem Strand.nextAcc_seq_trap (t : Strand)  : (t.nextAcc).seq.trap = t.seq.trap := rfl
@[simp] theorem Strand.nextAcc_seq_wait (t : Strand)  : (t.nextAcc).seq.wait = t.seq.wait := rfl
@[simp] theorem Strand.nextAcc_seq_ir (t : Strand)  : (t.nextAcc).seq.ir = t.seq.ir := rfl
@[simp] theorem Strand.nextAcc_seq_slots (t : Strand)  : (t.nextAcc).seq.slots = t.seq.slots := rfl
@[simp] theorem Strand.nextAcc_seq_gens (t : Strand)  : (t.nextAcc).seq.gens = t.seq.gens := rfl
@[simp] theorem Strand.nextAcc_seq_barriers (t : Strand)  : (t.nextAcc).seq.barriers = t.seq.barriers := rfl
@[simp] theorem Strand.nextAcc_seq_acks (t : Strand)  : (t.nextAcc).seq.acks = t.seq.acks := rfl
@[simp] theorem Strand.nextAcc_seq_seq (t : Strand)  : (t.nextAcc).seq.seq = t.seq.seq := rfl
@[simp] theorem Strand.nextAcc_seq_nextId (t : Strand)  : (t.nextAcc).seq.nextId = t.seq.nextId + 1 := rfl
@[simp] theorem Strand.retire_kinst (t : Strand) (n : Nat) : (t.retire n).kinst = t.kinst := rfl
@[simp] theorem Strand.retire_lin (t : Strand) (n : Nat) : (t.retire n).lin = t.lin := rfl
@[simp] theorem Strand.retire_run (t : Strand) (n : Nat) : (t.retire n).run = t.run := rfl
@[simp] theorem Strand.retire_allot (t : Strand) (n : Nat) : (t.retire n).allot = t.allot := rfl
@[simp] theorem Strand.retire_tok (t : Strand) (n : Nat) : (t.retire n).tok = t.tok := rfl
@[simp] theorem Strand.retire_secp (t : Strand) (n : Nat) : (t.retire n).secp = t.secp := rfl
@[simp] theorem Strand.retire_arr (t : Strand) (n : Nat) : (t.retire n).arr = t.arr := rfl
@[simp] theorem Strand.retire_arrx (t : Strand) (n : Nat) : (t.retire n).arrx = t.arrx := rfl
@[simp] theorem Strand.retire_mx (t : Strand) (n : Nat) : (t.retire n).mx = t.mx := rfl
@[simp] theorem Strand.retire_str (t : Strand) (n : Nat) : (t.retire n).str = t.str := rfl
@[simp] theorem Strand.retire_prog (t : Strand) (n : Nat) : (t.retire n).prog = true := rfl
@[simp] theorem Strand.retire_seq_g (t : Strand) (n : Nat) : (t.retire n).seq.g = t.seq.g := rfl
@[simp] theorem Strand.retire_seq_gp (t : Strand) (n : Nat) : (t.retire n).seq.gp = t.seq.gp := rfl
@[simp] theorem Strand.retire_seq_gpend (t : Strand) (n : Nat) : (t.retire n).seq.gpend = t.seq.gpend := rfl
@[simp] theorem Strand.retire_seq_glat (t : Strand) (n : Nat) : (t.retire n).seq.glat = t.seq.glat := rfl
@[simp] theorem Strand.retire_seq_loads (t : Strand) (n : Nat) : (t.retire n).seq.loads = t.seq.loads := rfl
@[simp] theorem Strand.retire_seq_stores (t : Strand) (n : Nat) : (t.retire n).seq.stores = t.seq.stores := rfl
@[simp] theorem Strand.retire_seq_reds (t : Strand) (n : Nat) : (t.retire n).seq.reds = t.seq.reds := rfl
@[simp] theorem Strand.retire_seq_trap (t : Strand) (n : Nat) : (t.retire n).seq.trap = t.seq.trap := rfl
@[simp] theorem Strand.retire_seq_ir (t : Strand) (n : Nat) : (t.retire n).seq.ir = t.seq.ir := rfl
@[simp] theorem Strand.retire_seq_slots (t : Strand) (n : Nat) : (t.retire n).seq.slots = t.seq.slots := rfl
@[simp] theorem Strand.retire_seq_gens (t : Strand) (n : Nat) : (t.retire n).seq.gens = t.seq.gens := rfl
@[simp] theorem Strand.retire_seq_barriers (t : Strand) (n : Nat) : (t.retire n).seq.barriers = t.seq.barriers := rfl
@[simp] theorem Strand.retire_seq_acks (t : Strand) (n : Nat) : (t.retire n).seq.acks = t.seq.acks := rfl
@[simp] theorem Strand.retire_seq_nextId (t : Strand) (n : Nat) : (t.retire n).seq.nextId = t.seq.nextId := rfl
@[simp] theorem Strand.retire_seq_seq (t : Strand) (n : Nat) : (t.retire n).seq.seq = t.seq.seq := rfl
@[simp] theorem Strand.retire_seq_undo (t : Strand) (n : Nat) : (t.retire n).seq.undo = none := rfl
@[simp] theorem Strand.retire_seq_pc (t : Strand) (n : Nat) : (t.retire n).seq.pc = t.seq.pc + BitVec.ofNat 64 n := rfl
@[simp] theorem Strand.retire_seq_wait (t : Strand) (n : Nat) : (t.retire n).seq.wait = .none := rfl
@[simp] theorem Strand.retire_seq_ctl (t : Strand) (n : Nat) : (t.retire n).seq.ctl = { t.seq.ctl with retired := t.seq.ctl.retired + 1 } := rfl
@[simp] theorem Strand.setG_kinst (t : Strand) (r : Reg) (v : W64) (p : Bool) : (t.setG r v p).kinst = t.kinst := by unfold Strand.setG; split <;> rfl
@[simp] theorem Strand.setG_lin (t : Strand) (r : Reg) (v : W64) (p : Bool) : (t.setG r v p).lin = t.lin := by unfold Strand.setG; split <;> rfl
@[simp] theorem Strand.setG_run (t : Strand) (r : Reg) (v : W64) (p : Bool) : (t.setG r v p).run = t.run := by unfold Strand.setG; split <;> rfl
@[simp] theorem Strand.setG_allot (t : Strand) (r : Reg) (v : W64) (p : Bool) : (t.setG r v p).allot = t.allot := by unfold Strand.setG; split <;> rfl
@[simp] theorem Strand.setG_tok (t : Strand) (r : Reg) (v : W64) (p : Bool) : (t.setG r v p).tok = t.tok := by unfold Strand.setG; split <;> rfl
@[simp] theorem Strand.setG_secp (t : Strand) (r : Reg) (v : W64) (p : Bool) : (t.setG r v p).secp = t.secp := by unfold Strand.setG; split <;> rfl
@[simp] theorem Strand.setG_arr (t : Strand) (r : Reg) (v : W64) (p : Bool) : (t.setG r v p).arr = t.arr := by unfold Strand.setG; split <;> rfl
@[simp] theorem Strand.setG_arrx (t : Strand) (r : Reg) (v : W64) (p : Bool) : (t.setG r v p).arrx = t.arrx := by unfold Strand.setG; split <;> rfl
@[simp] theorem Strand.setG_mx (t : Strand) (r : Reg) (v : W64) (p : Bool) : (t.setG r v p).mx = t.mx := by unfold Strand.setG; split <;> rfl
@[simp] theorem Strand.setG_str (t : Strand) (r : Reg) (v : W64) (p : Bool) : (t.setG r v p).str = t.str := by unfold Strand.setG; split <;> rfl
@[simp] theorem Strand.setG_prog (t : Strand) (r : Reg) (v : W64) (p : Bool) : (t.setG r v p).prog = t.prog := by unfold Strand.setG; split <;> rfl
@[simp] theorem Strand.setG_seq_pc (t : Strand) (r : Reg) (v : W64) (p : Bool) : (t.setG r v p).seq.pc = t.seq.pc := by unfold Strand.setG; split <;> rfl
@[simp] theorem Strand.setG_seq_glat (t : Strand) (r : Reg) (v : W64) (p : Bool) : (t.setG r v p).seq.glat = t.seq.glat := by unfold Strand.setG; split <;> rfl
@[simp] theorem Strand.setG_seq_undo (t : Strand) (r : Reg) (v : W64) (p : Bool) : (t.setG r v p).seq.undo = t.seq.undo := by unfold Strand.setG; split <;> rfl
@[simp] theorem Strand.setG_seq_loads (t : Strand) (r : Reg) (v : W64) (p : Bool) : (t.setG r v p).seq.loads = t.seq.loads := by unfold Strand.setG; split <;> rfl
@[simp] theorem Strand.setG_seq_stores (t : Strand) (r : Reg) (v : W64) (p : Bool) : (t.setG r v p).seq.stores = t.seq.stores := by unfold Strand.setG; split <;> rfl
@[simp] theorem Strand.setG_seq_reds (t : Strand) (r : Reg) (v : W64) (p : Bool) : (t.setG r v p).seq.reds = t.seq.reds := by unfold Strand.setG; split <;> rfl
@[simp] theorem Strand.setG_seq_ctl (t : Strand) (r : Reg) (v : W64) (p : Bool) : (t.setG r v p).seq.ctl = t.seq.ctl := by unfold Strand.setG; split <;> rfl
@[simp] theorem Strand.setG_seq_trap (t : Strand) (r : Reg) (v : W64) (p : Bool) : (t.setG r v p).seq.trap = t.seq.trap := by unfold Strand.setG; split <;> rfl
@[simp] theorem Strand.setG_seq_wait (t : Strand) (r : Reg) (v : W64) (p : Bool) : (t.setG r v p).seq.wait = t.seq.wait := by unfold Strand.setG; split <;> rfl
@[simp] theorem Strand.setG_seq_ir (t : Strand) (r : Reg) (v : W64) (p : Bool) : (t.setG r v p).seq.ir = t.seq.ir := by unfold Strand.setG; split <;> rfl
@[simp] theorem Strand.setG_seq_slots (t : Strand) (r : Reg) (v : W64) (p : Bool) : (t.setG r v p).seq.slots = t.seq.slots := by unfold Strand.setG; split <;> rfl
@[simp] theorem Strand.setG_seq_gens (t : Strand) (r : Reg) (v : W64) (p : Bool) : (t.setG r v p).seq.gens = t.seq.gens := by unfold Strand.setG; split <;> rfl
@[simp] theorem Strand.setG_seq_barriers (t : Strand) (r : Reg) (v : W64) (p : Bool) : (t.setG r v p).seq.barriers = t.seq.barriers := by unfold Strand.setG; split <;> rfl
@[simp] theorem Strand.setG_seq_acks (t : Strand) (r : Reg) (v : W64) (p : Bool) : (t.setG r v p).seq.acks = t.seq.acks := by unfold Strand.setG; split <;> rfl
@[simp] theorem Strand.setG_seq_nextId (t : Strand) (r : Reg) (v : W64) (p : Bool) : (t.setG r v p).seq.nextId = t.seq.nextId := by unfold Strand.setG; split <;> rfl
@[simp] theorem Strand.setG_seq_seq (t : Strand) (r : Reg) (v : W64) (p : Bool) : (t.setG r v p).seq.seq = t.seq.seq := by unfold Strand.setG; split <;> rfl
@[simp] theorem Strand.setPend_kinst (t : Strand) (r : Reg) : (t.setPend r).kinst = t.kinst := by unfold Strand.setPend; split <;> rfl
@[simp] theorem Strand.setPend_lin (t : Strand) (r : Reg) : (t.setPend r).lin = t.lin := by unfold Strand.setPend; split <;> rfl
@[simp] theorem Strand.setPend_run (t : Strand) (r : Reg) : (t.setPend r).run = t.run := by unfold Strand.setPend; split <;> rfl
@[simp] theorem Strand.setPend_allot (t : Strand) (r : Reg) : (t.setPend r).allot = t.allot := by unfold Strand.setPend; split <;> rfl
@[simp] theorem Strand.setPend_tok (t : Strand) (r : Reg) : (t.setPend r).tok = t.tok := by unfold Strand.setPend; split <;> rfl
@[simp] theorem Strand.setPend_secp (t : Strand) (r : Reg) : (t.setPend r).secp = t.secp := by unfold Strand.setPend; split <;> rfl
@[simp] theorem Strand.setPend_arr (t : Strand) (r : Reg) : (t.setPend r).arr = t.arr := by unfold Strand.setPend; split <;> rfl
@[simp] theorem Strand.setPend_arrx (t : Strand) (r : Reg) : (t.setPend r).arrx = t.arrx := by unfold Strand.setPend; split <;> rfl
@[simp] theorem Strand.setPend_mx (t : Strand) (r : Reg) : (t.setPend r).mx = t.mx := by unfold Strand.setPend; split <;> rfl
@[simp] theorem Strand.setPend_str (t : Strand) (r : Reg) : (t.setPend r).str = t.str := by unfold Strand.setPend; split <;> rfl
@[simp] theorem Strand.setPend_prog (t : Strand) (r : Reg) : (t.setPend r).prog = t.prog := by unfold Strand.setPend; split <;> rfl
@[simp] theorem Strand.setPend_seq_pc (t : Strand) (r : Reg) : (t.setPend r).seq.pc = t.seq.pc := by unfold Strand.setPend; split <;> rfl
@[simp] theorem Strand.setPend_seq_g (t : Strand) (r : Reg) : (t.setPend r).seq.g = t.seq.g := by unfold Strand.setPend; split <;> rfl
@[simp] theorem Strand.setPend_seq_gp (t : Strand) (r : Reg) : (t.setPend r).seq.gp = t.seq.gp := by unfold Strand.setPend; split <;> rfl
@[simp] theorem Strand.setPend_seq_glat (t : Strand) (r : Reg) : (t.setPend r).seq.glat = t.seq.glat := by unfold Strand.setPend; split <;> rfl
@[simp] theorem Strand.setPend_seq_undo (t : Strand) (r : Reg) : (t.setPend r).seq.undo = t.seq.undo := by unfold Strand.setPend; split <;> rfl
@[simp] theorem Strand.setPend_seq_loads (t : Strand) (r : Reg) : (t.setPend r).seq.loads = t.seq.loads := by unfold Strand.setPend; split <;> rfl
@[simp] theorem Strand.setPend_seq_stores (t : Strand) (r : Reg) : (t.setPend r).seq.stores = t.seq.stores := by unfold Strand.setPend; split <;> rfl
@[simp] theorem Strand.setPend_seq_reds (t : Strand) (r : Reg) : (t.setPend r).seq.reds = t.seq.reds := by unfold Strand.setPend; split <;> rfl
@[simp] theorem Strand.setPend_seq_ctl (t : Strand) (r : Reg) : (t.setPend r).seq.ctl = t.seq.ctl := by unfold Strand.setPend; split <;> rfl
@[simp] theorem Strand.setPend_seq_trap (t : Strand) (r : Reg) : (t.setPend r).seq.trap = t.seq.trap := by unfold Strand.setPend; split <;> rfl
@[simp] theorem Strand.setPend_seq_wait (t : Strand) (r : Reg) : (t.setPend r).seq.wait = t.seq.wait := by unfold Strand.setPend; split <;> rfl
@[simp] theorem Strand.setPend_seq_ir (t : Strand) (r : Reg) : (t.setPend r).seq.ir = t.seq.ir := by unfold Strand.setPend; split <;> rfl
@[simp] theorem Strand.setPend_seq_slots (t : Strand) (r : Reg) : (t.setPend r).seq.slots = t.seq.slots := by unfold Strand.setPend; split <;> rfl
@[simp] theorem Strand.setPend_seq_gens (t : Strand) (r : Reg) : (t.setPend r).seq.gens = t.seq.gens := by unfold Strand.setPend; split <;> rfl
@[simp] theorem Strand.setPend_seq_barriers (t : Strand) (r : Reg) : (t.setPend r).seq.barriers = t.seq.barriers := by unfold Strand.setPend; split <;> rfl
@[simp] theorem Strand.setPend_seq_acks (t : Strand) (r : Reg) : (t.setPend r).seq.acks = t.seq.acks := by unfold Strand.setPend; split <;> rfl
@[simp] theorem Strand.setPend_seq_nextId (t : Strand) (r : Reg) : (t.setPend r).seq.nextId = t.seq.nextId := by unfold Strand.setPend; split <;> rfl
@[simp] theorem Strand.setPend_seq_seq (t : Strand) (r : Reg) : (t.setPend r).seq.seq = t.seq.seq := by unfold Strand.setPend; split <;> rfl

end Sys2Proof.Machine
end

