-- ==== Sys2Proof/Laws/Regs.lean ====
section
/-! SUPPORT. Reading strands and registers after the shared operations of `Machine/Ops.lean` (R145, R147, R151, R159). -/
namespace Sys2Proof.Machine

/-! ### Strands -/

/-- A strand that was set is read back, and every other strand is as before. -/
theorem State.strand?_setStrand (s : State) (sn k : Nat) (t : Strand) :
    (s.setStrand sn t).strand? k = if k = sn then some t else s.strand? k := tblFind_insert _ _ _ _

@[simp] theorem State.strand?_setStrand_same (s : State) (sn : Nat) (t : Strand) : (s.setStrand sn t).strand? sn = some t := by
  simp [State.strand?_setStrand]
@[simp] theorem State.strand?_setMem (s : State) (m : Mem) (k : Nat) : (s.setMem m).strand? k = s.strand? k := rfl
@[simp] theorem State.strand?_modMem (s : State) (f : Mem → Mem) (k : Nat) : (s.modMem f).strand? k = s.strand? k := rfl
@[simp] theorem State.strand?_setCore (s : State) (n : Nat) (c : Core) (k : Nat) : (s.setCore n c).strand? k = s.strand? k := rfl
@[simp] theorem State.strand?_modCore (s : State) (n : Nat) (f : Core → Core) (k : Nat) : (s.modCore n f).strand? k = s.strand? k := rfl
@[simp] theorem State.strand?_setInst (s : State) (n : Nat) (i : Inst) (k : Nat) : (s.setInst n i).strand? k = s.strand? k := rfl
@[simp] theorem State.strand?_report (s : State) (r : Report) (k : Nat) : (s.report r).strand? k = s.strand? k := rfl
@[simp] theorem State.strand?_modInst (s : State) (n : Nat) (f : Inst → Inst) (k : Nat) : (s.modInst n f).strand? k = s.strand? k := by
  unfold State.modInst; split <;> rfl

/-- `modStrand` on a strand that stands. -/
theorem State.modStrand_of (s : State) (sn : Nat) (f : Strand → Strand) (t : Strand) (h : s.strand? sn = some t) :
    s.modStrand sn f = s.setStrand sn (f t) := by unfold State.modStrand; rw [h]

/-- Setting a strand that stands to itself under another update leaves nothing else changed. -/
theorem State.setStrand_restore (s : State) (sn : Nat) (t : Strand) : { s.setStrand sn t with strands := s.strands } = s := rfl

/-- The core of a state after a core was set. -/
theorem State.core_setCore (s : State) (n k : Nat) (c : Core) : (s.setCore n c).core k = if k = n then c else s.core k :=
  tblGet_put _ _ _ _ _
@[simp] theorem State.core_setStrand (s : State) (sn : Nat) (t : Strand) (k : Nat) : (s.setStrand sn t).core k = s.core k := rfl
@[simp] theorem State.core_setMem (s : State) (m : Mem) (k : Nat) : (s.setMem m).core k = s.core k := rfl
/-- The instance of a state after an instance was set. -/
theorem State.inst?_setInst (s : State) (n k : Nat) (i : Inst) : (s.setInst n i).inst? k = if k = n then some i else s.inst? k :=
  tblFind_insert _ _ _ _

/-! ### The steps of an agent -/

/-- The instruction of a strand that stands. -/
theorem State.onStrand_of (s : State) (f : Nat → Strand → State) (sn : Nat) (t : Strand) (ha : s.agent.a = sn) (ht : s.strand? sn = some t) :
    s.onStrand f = .next (f sn t) := by subst ha; simp [State.onStrand, ht]
theorem State.forStrand_of (s : State) (f : Nat → Strand → State) (sn : Nat) (t : Strand) (ha : s.agent.a = sn) (ht : s.strand? sn = some t) :
    s.forStrand f = .next (f sn t) := by subst ha; simp [State.forStrand, ht]
/-- Where the agent names no strand that stands, an engine's step does nothing. -/
theorem State.forStrand_none (s : State) (f : Nat → Strand → State) (ht : s.strand? s.agent.a = none) : s.forStrand f = .next s := by
  simp [State.forStrand, ht]

/-! ### Registers -/

@[simp] theorem Strand.g_zero (t : Strand) : t.g 0 = 0 := by simp [Strand.g]
@[simp] theorem Strand.gp_zero (t : Strand) : t.gp 0 = false := by simp [Strand.gp]
@[simp] theorem Strand.pend_zero (t : Strand) : t.pend 0 = false := by simp [Strand.pend]

theorem Reg.toNat_ne {r q : Reg} (h : r ≠ q) : r.toNat ≠ q.toNat := fun e => h (BitVec.eq_of_toNat_eq e)

/-- A register write is read back, except of g0, and leaves every other register as it was (R145). -/
theorem Strand.g_setG (t : Strand) (r : Reg) (v : W64) (p : Bool) (q : Reg) :
    (t.setG r v p).g q = if q = r ∧ q ≠ 0 then v else t.g q := by
  unfold Strand.setG Strand.g
  have := @Reg.toNat_ne q r
  have hd : ∀ (x : W64), tblGet 0 (tblPut 0 t.seq.g r.toNat x) q.toNat = if q.toNat = r.toNat then x else tblGet 0 t.seq.g q.toNat :=
    fun x => tblGet_put _ _ _ _ _
  grind
/-- The same of poison bits (R147). -/
theorem Strand.gp_setG (t : Strand) (r : Reg) (v : W64) (p : Bool) (q : Reg) :
    (t.setG r v p).gp q = if q = r ∧ q ≠ 0 then p else t.gp q := by
  unfold Strand.setG Strand.gp
  have := @Reg.toNat_ne q r
  have hd : ∀ (x : Bool), tblGet false (tblPut false t.seq.gp r.toNat x) q.toNat = if q.toNat = r.toNat then x else tblGet false t.seq.gp q.toNat :=
    fun x => tblGet_put _ _ _ _ _
  grind
/-- A register that was written awaits no reply; its latency, if one runs, still does (R159). -/
theorem Strand.pend_setG (t : Strand) (r : Reg) (v : W64) (p : Bool) (q : Reg) :
    (t.setG r v p).pend q = if q = r ∧ q ≠ 0 then decide (tblGet 0 t.seq.glat q.toNat ≠ 0) else t.pend q := by
  unfold Strand.setG Strand.pend
  have := @Reg.toNat_ne q r
  have hd : ∀ (x : Bool), tblGet false (tblPut false t.seq.gpend r.toNat x) q.toNat = if q.toNat = r.toNat then x else tblGet false t.seq.gpend q.toNat :=
    fun x => tblGet_put _ _ _ _ _
  grind
/-- Marking a register pending (R145). -/
theorem Strand.pend_setPend (t : Strand) (r q : Reg) : (t.setPend r).pend q = if q = r ∧ q ≠ 0 then true else t.pend q := by
  unfold Strand.setPend Strand.pend
  have := @Reg.toNat_ne q r
  have hd : ∀ (x : Bool), tblGet false (tblPut false t.seq.gpend r.toNat x) q.toNat = if q.toNat = r.toNat then x else tblGet false t.seq.gpend q.toNat :=
    fun x => tblGet_put _ _ _ _ _
  grind

@[simp] theorem Strand.g_retire (t : Strand) (n : Nat) (r : Reg) : (t.retire n).g r = t.g r := rfl
@[simp] theorem Strand.gp_retire (t : Strand) (n : Nat) (r : Reg) : (t.retire n).gp r = t.gp r := rfl
@[simp] theorem Strand.pend_retire (t : Strand) (n : Nat) (r : Reg) : (t.retire n).pend r = t.pend r := rfl
@[simp] theorem Strand.g_mapCtl (t : Strand) (f : Ctl → Ctl) (r : Reg) : (t.mapCtl f).g r = t.g r := rfl
@[simp] theorem Strand.gp_mapCtl (t : Strand) (f : Ctl → Ctl) (r : Reg) : (t.mapCtl f).gp r = t.gp r := rfl
@[simp] theorem Strand.g_setWait (t : Strand) (w : Wait) (r : Reg) : (t.setWait w).g r = t.g r := rfl
@[simp] theorem Strand.gp_setWait (t : Strand) (w : Wait) (r : Reg) : (t.setWait w).gp r = t.gp r := rfl
@[simp] theorem Strand.g_setPend (t : Strand) (q r : Reg) : (t.setPend q).g r = t.g r := by unfold Strand.setPend; split <;> rfl
@[simp] theorem Strand.gp_setPend (t : Strand) (q r : Reg) : (t.setPend q).gp r = t.gp r := by unfold Strand.setPend; split <;> rfl

/-- A register that awaits nothing has no latency running. -/
theorem Strand.glat_of_not_pend (t : Strand) (r : Reg) (h : t.pend r = false) : r = 0 ∨ tblGet 0 t.seq.glat r.toNat = 0 := by
  unfold Strand.pend at h; grind

end Sys2Proof.Machine
end

