-- ==== Sys2Proof/Laws/Ops.lean ====
section
/-! SUPPORT. What the shared operations do, said once each: changing one strand, retiring with a result, taking a trap, ending a region, and
the operations of the register file (R151, R154, R155, R159, R162). -/
namespace Sys2Proof.Machine

/-! ### One strand -/

/-- Setting a strand changes that strand and nothing else. -/
theorem OnlyStrand.set (s : State) (sn : Nat) (t : Strand) : OnlyStrand s (s.setStrand sn t) sn t :=
  ⟨State.strand?_setStrand_same s sn t, fun k hk => by simp [State.strand?_setStrand, hk], rfl⟩

/-- Setting a strand twice is setting it once. -/
theorem tblInsert_twice {α : Type} (t : Tbl α) (k : Nat) (u v : α) : tblInsert (tblInsert t k u) k v = tblInsert t k v := by
  induction t with
  | nil => simp [tblInsert]
  | cons e t ih =>
    obtain ⟨j, w⟩ := e
    simp only [tblInsert]
    split
    · simp [tblInsert]
    · split
      · simp [tblInsert]
      · simp only [tblInsert]
        rw [if_neg (by assumption), if_neg (by assumption), ih]

theorem State.setStrand_twice (s : State) (sn : Nat) (t u : Strand) : (s.setStrand sn t).setStrand sn u = s.setStrand sn u := by
  simp [State.setStrand, tblInsert_twice]

/-! ### Retiring (R151, R159) -/

/-- The registers after a strand retires with a result that is visible at once. -/
theorem Strand.wrote_done (t : Strand) (n : Nat) (gd : Reg) (v : W64) (p : Bool) (h : t.pend gd = false) :
    Wrote t (t.done n gd v p) gd v p false := by
  intro r
  have := t.glat_of_not_pend gd h
  refine ⟨by simp [Strand.done, Strand.g_setG], by simp [Strand.done, Strand.gp_setG], ?_⟩
  simp only [Strand.done, Strand.pend_retire, Strand.pend_setG]
  by_cases hr : r = gd ∧ r ≠ 0
  · rw [if_pos hr, if_pos hr]
    rcases this with h0 | h0
    · exact absurd (hr.1.trans h0) hr.2
    · simp [hr.1, h0]
  · rw [if_neg hr, if_neg hr]

/-- The registers after a strand retires with a result that is visible after `lat` ck. -/
theorem Strand.wrote_doneIn (t : Strand) (lat n : Nat) (gd : Reg) (v : W64) (p : Bool) (hl : 1 < lat) :
    Wrote t (t.doneIn lat n gd v p) gd v p true := by
  intro r
  by_cases h0 : gd = 0
  · subst h0
    simp [Strand.doneIn, Strand.done, Strand.setG]
  · have e : t.doneIn lat n gd v p = { t.done n gd v p with
        seq := { (t.done n gd v p).seq with glat := tblPut 0 (t.done n gd v p).seq.glat gd.toNat lat } } := by
      have : ¬ (gd = 0 ∨ lat ≤ 1) := fun x => x.elim h0 (by omega)
      unfold Strand.doneIn
      exact if_neg this
    have eg : (t.doneIn lat n gd v p).g r = (t.setG gd v p).g r := by rw [e]; rfl
    have ep : (t.doneIn lat n gd v p).gp r = (t.setG gd v p).gp r := by rw [e]; rfl
    have hl2 : (t.setG gd v p).seq.glat = t.seq.glat := by unfold Strand.setG; rw [if_neg h0]
    have el : (t.done n gd v p).seq.glat = t.seq.glat := hl2
    refine ⟨by rw [eg, Strand.g_setG], by rw [ep, Strand.gp_setG], ?_⟩
    have hput : (t.doneIn lat n gd v p).pend r =
        if r = 0 then false else tblGet false (t.setG gd v p).seq.gpend r.toNat || decide (tblGet 0 (tblPut 0 t.seq.glat gd.toNat lat) r.toNat ≠ 0) := by
      rw [e, ← el]; rfl
    have hold := Strand.pend_setG t gd v p r
    rw [hput]
    by_cases hr : r = gd ∧ r ≠ 0
    · rw [if_pos hr, hr.1, if_neg h0, tblGet_put_same]
      simp [show lat ≠ 0 by omega]
    · rw [if_neg hr] at hold ⊢
      by_cases hz : r = 0
      · subst hz; exact (if_pos rfl).trans t.pend_zero.symm
      · have hne : r.toNat ≠ gd.toNat := Reg.toNat_ne (fun x => hr ⟨x, hz⟩)
        rw [if_neg hz, tblGet_put_ne 0 _ _ hne, ← hold]
        unfold Strand.pend; rw [if_neg hz, hl2]

/-- Retiring with a result touches the registers, PC, RETIRED and the mark of progress alone. -/
theorem Strand.regsOnly_done (t : Strand) (n : Nat) (gd : Reg) (v : W64) (p : Bool) : RegsOnly t (t.done n gd v p) := by
  unfold RegsOnly Strand.done Strand.setG Strand.retire
  split <;> exact ⟨rfl, rfl⟩

theorem Strand.ctl_done (t : Strand) (n : Nat) (gd : Reg) (v : W64) (p : Bool) : (t.done n gd v p).seq.ctl = t.seq.ctl.counted := by
  unfold Strand.done Strand.setG Strand.retire
  split <;> rfl

theorem Strand.pc_done (t : Strand) (n : Nat) (gd : Reg) (v : W64) (p : Bool) : (t.done n gd v p).seq.pc = t.seq.pc + BitVec.ofNat 64 n := by
  unfold Strand.done Strand.setG Strand.retire
  split <;> rfl

/-! ### The register operations (R162, R164, R165) -/

/-- An operation of two sources whose registers are not pending retires with its result; while one is pending it does nothing. -/
theorem oprTwo_of (f : W64 → W64 → W64) (gd ga gb : Reg) (s : State) (sn : Nat) (t : Strand) (h : Runs s sn t) :
    oprTwo f gd ga gb s = .next (if t.busy [gd, ga, gb] then s
      else s.setStrand sn (t.done 4 gd (f (t.g ga) (t.g gb)) (t.anyPois [ga, gb]))) :=
  State.onStrand_of s _ sn t h.1 h.2

theorem oprOne_of (f : W64 → W64) (gd ga : Reg) (s : State) (sn : Nat) (t : Strand) (h : Runs s sn t) :
    oprOne f gd ga s = .next (if t.busy [gd, ga] then s else s.setStrand sn (t.done 4 gd (f (t.g ga)) (t.gp ga))) :=
  State.onStrand_of s _ sn t h.1 h.2

theorem oprSlow_of (lat : W64 → Nat) (f : W64 → W64 → W64) (gd ga gb : Reg) (s : State) (sn : Nat) (t : Strand) (h : Runs s sn t) :
    oprSlow lat f gd ga gb s = .next (if t.busy [gd, ga, gb] then s
      else s.setStrand sn (t.doneIn (lat (t.g ga)) 4 gd (f (t.g ga) (t.g gb)) (t.anyPois [ga, gb]))) :=
  State.onStrand_of s _ sn t h.1 h.2

/-! ### Taking a trap (R154, R155) -/

/-- The trap registers as a cause of the sequencer or the atomic unit writes them. -/
theorem Trap.take_precise (r : Trap) (cause src detail val : Nat) (tpc : W64) (h4 : src = 0 ∨ 4 ≤ src) :
    r.take cause src detail val tpc = { r with
      tcause := BitVec.ofNat 64 (src * 65536 + detail * 256 + cause), tval := BitVec.ofNat 64 val, tpc := tpc &&& ~~~3#64, intrap := true } := by
  have h1 : ¬ src = 1 := by omega
  have h2 : ¬ src = 2 := by omega
  have h3 : ¬ src = 3 := by omega
  have hc : tcauseOf cause src detail = BitVec.ofNat 64 (src * 65536 + detail * 256 + cause) := by
    unfold tcauseOf; congr 1; omega
  simp [Trap.take, Trap.record, h1, h2, h3, hc]

/-- A cause of the sequencer or the atomic unit that goes to the handler enters it, and changes nothing else. -/
theorem State.trap_handled (s : State) (sn cause src detail val : Nat) (t : Strand) (hs : s.strand? sn = some t) (hh : Handles t)
    (h4 : src = 0 ∨ 4 ≤ src) : ∃ t', s.trap sn cause src detail val = s.setStrand sn t' ∧ InHandler t t' cause src detail val := by
  refine ⟨_, ?_, rfl⟩
  have he : t.seq.trap.en = true := hh.1
  simp [State.trap, hs, State.deliver, he, hh.2, Trap.take_precise _ _ _ _ _ _ h4]

/-- A cause of the sequencer or the atomic unit that the strand cannot take escalates (R156). -/
theorem State.trap_escalates (s : State) (sn cause src detail val : Nat) (t : Strand) (hs : s.strand? sn = some t) (hh : ¬ Handles t)
    (h4 : src = 0 ∨ 4 ≤ src) : s.trap sn cause src detail val = s.escalate sn cause src detail val t.seq.pc := by
  have he : ¬ (t.seq.trap.en = true ∧ t.seq.trap.intrap = false) := hh
  have h5 : ¬ (t.seq.trap.en = true ∧ 1 ≤ src ∧ src ≤ 3) := by omega
  simp only [State.trap, hs, State.deliver]
  rw [if_neg he, if_neg h5]

/-! ### Ending a region (R129) -/

theorem span_eq_range' (k n : Nat) : span k n = List.range' k n := by
  induction n generalizing k with
  | zero => rfl
  | succ n ih => simp [span, List.range', ih]

theorem span_zero (n : Nat) : span 0 n = List.range n := by rw [span_eq_range', List.range_eq_range']

/-- The end of a region moves the sequence on and starts the broadcast to every slice. -/
theorem State.endRegion_rel (s : State) (sn : Nat) (t : Strand) (hs : s.strand? sn = some t) :
    (s.endRegion sn).mem.rel = s.mem.rel ++ [⟨sn, t.seq.ctl.cseq, List.range 192⟩] := by
  simp only [State.endRegion, hs, span_zero]
  rfl

end Sys2Proof.Machine
end

