-- ==== Sys2Proof/Laws/Quiet.lean ====
section
/-! SUPPORT. Memory that holds nothing back (R340, R350, R356): what each operation does on it, and that an unchecked access, and each access that the
device makes for itself, is performed and leaves it so. -/
namespace Sys2Proof.Machine

theorem Quiet.devOpen {m : Mem} {p : Nat} (h : Quiet p m) (pa : Nat) : m.devOpen pa = true := by
  obtain ⟨-, h1, h2, h3, -⟩ := h
  simp [Mem.devOpen, h1, h2, h3]

theorem Quiet.setHeld {m : Mem} {p : Nat} (h : Quiet p m) (s st : Nat) : m.setHeld s st = false := by
  simp [Mem.setHeld, h.2.2.2.2.1]

theorem Quiet.moveHolds {m : Mem} {p : Nat} (h : Quiet p m) (pa : Nat) : m.moveHolds pa = false := by
  simp [Mem.moveHolds, h.2.2.2.2.2]

theorem Quiet.devRead {m : Mem} {p : Nat} (h : Quiet p m) (pa n : Nat) : Quiet p (m.devRead pa n).2 := by
  unfold Mem.devRead
  dsimp only
  split
  · exact h
  · split <;> exact h

theorem Quiet.devReadLine {m : Mem} {p : Nat} (h : Quiet p m) (pa : Nat) : Quiet p (m.devReadLine pa).2 := (h.devRead _ _).devRead _ _

theorem Quiet.devWrite {m : Mem} {p : Nat} (h : Quiet p m) (pa : Nat) (l : List PB) : Quiet p (m.devWrite pa l) := by
  unfold Mem.devWrite
  dsimp only
  generalize (m.offline pa || m.keyShut pa) = c
  cases c <;> exact h

theorem Quiet.writeBack {m : Mem} {p : Nat} (h : Quiet p m) (l : Line) : Quiet p (m.writeBack l) := by
  unfold Mem.writeBack Mem.devWriteLine
  split
  · exact (h.devWrite _ _).devWrite _ _
  · exact h

theorem Quiet.foldl {α : Type} {p : Nat} (f : Mem → α → Mem) (hf : ∀ m x, Quiet p m → Quiet p (f m x)) (l : List α) {m : Mem} (h : Quiet p m) :
    Quiet p (l.foldl f m) := by
  induction l generalizing m with
  | nil => exact h
  | cons x l ih => exact ih (hf m x h)

theorem Quiet.clearUnit {m : Mem} {p : Nat} (h : Quiet p m) (v u : Nat) : Quiet p (m.clearUnit v u) := by
  suffices H : Quiet p (m.resetUnit u) from H
  unfold Mem.resetUnit
  split
  · exact h
  · exact Quiet.foldl _ (fun m k h => h.devWrite _ _) _ (show Quiet p (m.dropUnit u) from h)

theorem Quiet.clearAhead {m : Mem} {p : Nat} (h : Quiet p m) (pa : Nat) : Quiet p (m.clearAhead pa) :=
  Quiet.foldl (fun m (x : Nat × Nat) => m.clearUnit x.1 x.2) (fun _ x h => h.clearUnit x.1 x.2) _ h

theorem Quiet.recall {m : Mem} {p : Nat} (h : Quiet p m) (pa : Nat) : Quiet p (m.recall pa) := by
  unfold Mem.recall
  refine Quiet.foldl _ (fun m x h => ?_) _ h
  split
  · exact h
  · exact h.devWrite _ _

theorem Quiet.keyReport {m : Mem} {p : Nat} (h : Quiet p m) (q pa : Nat) : Quiet p (m.keyReport q pa) := by
  unfold Mem.keyReport
  split <;> exact h

/-- An unchecked access on a line that is there is performed. -/
theorem Quiet.onLine {m : Mem} {p : Nat} (h : Quiet p m) (l : Line) (w : Who) (k : RKind) (o n : Nat) (f : List PB → List PB) (e : Bool) (hw : w.checked = false) :
    ∃ r m', m.onLine l w k o n f e = .ok r m' ∧ Quiet p m' := by
  simp only [Mem.onLine, Mem.lineConflict, hw, Bool.not_false, if_true]
  exact ⟨_, _, rfl, h⟩

/-- An unchecked access to a physical address waits for nothing: it is performed, and memory holds nothing back after it. -/
theorem Quiet.physAccIn {m : Mem} {p : Nat} (h : Quiet p m) (ways : Nat) (w : Who) (k : RKind) (pa n : Nat) (f : List PB → List PB) (hp : w.part = p)
    (hw : w.checked = false) :
    ∃ r m', m.physAccIn ways w k pa n f = .ok r m' ∧ Quiet p m' := by
  unfold Mem.physAccIn
  subst hp
  simp only [h.1, h.setHeld, h.moveHolds, h.devOpen, Bool.and_false, Bool.or_false, Bool.not_true, Bool.false_eq_true, if_false]
  split
  · exact ⟨_, _, rfl, h.keyReport _ _⟩
  · have h2 := (h.clearAhead pa).recall pa
    split
    · exact h2.onLine _ _ _ _ _ _ _ hw
    · simp only [h2.devOpen, Bool.not_true, Bool.false_eq_true, if_false]
      split
      · have h3 : ∀ (l : List (Nat × Nat)) (a : List PB × Bool × Mem), Quiet w.part a.2.2 → Quiet w.part (l.foldl (fun (a : List PB × Bool × Mem) x =>
            (a.1 ++ (a.2.2.devRead x.1 x.2).1.1, a.2.1 || (a.2.2.devRead x.1 x.2).1.2, (a.2.2.devRead x.1 x.2).2)) a).2.2 := by
          intro l
          induction l with
          | nil => exact fun _ h => h
          | cons x l ih => exact fun a ha => ih _ (ha.devRead x.1 x.2)
        have h4 := h3 (pieces n pa n 64) ([], false, _) h2
        split
        · exact ⟨_, _, rfl, h4⟩
        · refine ⟨_, _, rfl, ?_⟩
          split
          · exact h4.devWrite _ _
          · exact (h4.devWrite _ _).devWrite _ _
      · split
        · simp only [Bool.and_false, Bool.false_eq_true, if_false]
          exact ((h2.writeBack _).devReadLine _).onLine _ _ _ _ _ _ _ hw
        · exact (h2.devReadLine _).onLine _ _ _ _ _ _ _ hw

/-- An unchecked read by the device waits for nothing. -/
theorem Quiet.readAs {m : Mem} {w : Who} (h : Quiet w.part m) (hw : w.checked = false) (pa n : Nat) :
    ∃ l m', m.readAs w pa n = some (l, m') ∧ Quiet w.part m' := by
  unfold Mem.readAs
  generalize pieces n pa n 128 = ps
  suffices H : ∀ (acc : List PB) (m : Mem), Quiet w.part m → ∃ l m', ps.foldl (fun a x => a.bind (fun y =>
      match y.2.physAccIn 0 w .read x.1 x.2 id with
      | .ok r m => some (y.1 ++ r.old, m)
      | _ => none)) (some (acc, m)) = some (l, m') ∧ Quiet w.part m' from H [] m h
  induction ps with
  | nil => exact fun acc m h => ⟨acc, m, rfl, h⟩
  | cons x ps ih =>
    intro acc m h
    obtain ⟨r, m', e, h'⟩ := h.physAccIn 0 w .read x.1 x.2 id rfl hw
    simp only [List.foldl_cons, Option.bind_some, e]
    exact ih _ _ h'

/-- An unchecked write by the device waits for nothing. -/
theorem Quiet.writeAs {m : Mem} {w : Who} (h : Quiet w.part m) (hw : w.checked = false) (pa : Nat) (l : List PB) :
    ∃ m', m.writeAs w pa l = some m' ∧ Quiet w.part m' := by
  unfold Mem.writeAs
  generalize pieces l.length pa l.length 128 = ps
  induction ps generalizing m with
  | nil => exact ⟨m, rfl, h⟩
  | cons x ps ih =>
    obtain ⟨r, m', e, h'⟩ := h.physAccIn 0 w .write x.1 x.2 (fun _ => slice l (x.1 - pa) x.2) rfl hw
    simp only [List.foldl_cons, Option.bind_some, e]
    exact ih h'

/-- The device's own read waits for nothing. -/
theorem Quiet.ownRead {m : Mem} {p : Nat} (h : Quiet p m) (pa n : Nat) : ∃ l m', m.ownRead p pa n = some (l, m') ∧ Quiet p m' :=
  Quiet.readAs (w := ownWho p) h rfl pa n

/-- The device's own write waits for nothing. -/
theorem Quiet.ownWrite {m : Mem} {p : Nat} (h : Quiet p m) (pa : Nat) (l : List PB) : ∃ m', m.ownWrite p pa l = some m' ∧ Quiet p m' :=
  Quiet.writeAs (w := ownWho p) h rfl pa l

theorem Quiet.ownOpen {m : Mem} {p : Nat} (h : Quiet p m) (pa n : Nat) : m.ownOpen p pa n = true := by
  obtain ⟨m', e, -⟩ := h.ownWrite pa (pbOf n 0 false)
  simp [Mem.ownOpen, e]

/-- Backing a part waits for nothing (R315). -/
theorem Quiet.backAt {m : Mem} {p : Nat} (h : Quiet p m) (vpart ent frame : Nat) : ∃ m', m.backAt p vpart ent frame = some m' ∧ Quiet p m' := by
  have H : ∀ (g : Nat → List PB) (ks : List Nat) (m : Mem), Quiet p m → ∃ m', ks.foldl (fun (a : Option Mem) k => a.bind (fun m =>
      m.writeAs (spillWho p) (frame + 128 * k) (g k))) (some m) = some m' ∧ Quiet p m' := by
    intro g ks
    induction ks with
    | nil => exact fun m h => ⟨m, rfl, h⟩
    | cons k ks ih =>
      intro m h
      obtain ⟨m', e, h'⟩ := Quiet.writeAs (w := spillWho p) h rfl (frame + 128 * k) (g k)
      simp only [List.foldl_cons, Option.bind_some, e]
      exact ih m' h'
  unfold Mem.backAt
  dsimp only
  suffices K : ∀ x : Option Mem, (∃ m', x = some m' ∧ Quiet p m') →
      ∃ m', x.bind (fun m => m.writeAs (spillWho p) ent (pbOf 8 (frame + 1) false)) = some m' ∧ Quiet p m' from K _ (H _ _ _ h)
  rintro x ⟨m', rfl, h'⟩
  exact Quiet.writeAs (w := spillWho p) h' rfl ent _

end Sys2Proof.Machine
end

