-- ==== Sys2Proof/Tests/Slice0.lean ====
section
/-! SUPPORT. Tests: ill-formed terms, words written out from the spec's encodings, states that meet the hypotheses of the statements, and single
instructions whose results the spec gives. -/
namespace Sys2Proof.Tests
open Sys2Proof Sys2Proof.Machine
set_option Elab.async false

/-! ### Well-formedness: an ill-formed term for each check (R79 step 8) -/

/-- The first terms are well-formed, and none of the second. -/
def accepts (good bad : List Instr) : Bool := good.all (·.wf) && bad.all (fun i => !i.wf)

/-- R136: ORD 1 to 4, SCOPE below 6, a path; R136: both masks and SCOPE of `fencex`. -/
theorem test_wf_fence : accepts [.fence 1 0 1, .fence 4 5 31, .fencex 1 2 5]
    [.fence 0 0 1, .fence 5 0 1, .fence 1 6 1, .fence 1 0 0, .fencex 0 2 0, .fencex 1 0 0, .fencex 1 2 6] = true := by decide +kernel
/-- R323: ORD up to 4, SCOPE below 6, a relaxed order at strand scope. -/
theorem test_wf_atomics : accepts [.amoadd32 1 2 3 0 0, .amocas64 1 2 3 4 5, .redadd64 0 10 3 0 0]
    [.amoadd32 1 2 3 5 0, .amocas64 1 2 3 1 6, .redadd64 0 10 3 0 1] = true := by decide +kernel
/-- R176: RMO 5 and 6. -/
theorem test_wf_fpu : accepts [.fadd 1 2 3 0 7, .fsqrt 1 2 1 4] [.fadd 1 2 3 0 5, .fsqrt 1 2 1 6, .fcvtff 1 2 0 5] = true := by decide +kernel
/-- R241 check 1: FMT, SFMT, BLK, the rings, the accumulators. -/
theorem test_wf_mxstep : accepts [.mxstep 1 2 0 0 0 0 0 0 7 0 2 1 9, .mxstep 1 2 0 0 0 0 0 0 3 0 2 1 0, .mxstep 1 2 0 2 1 0 0 0 0 7 2 1 8]
    [.mxstep 1 2 0 0 0 0 0 0 0 0 2 1 15, .mxstep 1 2 0 3 1 0 0 0 0 0 2 1 8, .mxstep 1 2 0 0 1 0 0 0 0 0 2 1 9, .mxstep 1 2 0 1 0 0 0 0 0 0 2 1 8,
     .mxstep 1 2 0 0 0 0 0 0 0 0 2 2 9, .mxstep 1 2 0 0 0 0 0 0 7 1 2 1 9, .mxstep 1 2 0 0 0 0 0 0 0 1 2 1 0, .mxstep 1 2 0 0 0 0 0 0 3 2 2 1 0] = true := by decide +kernel
/-- R246-R248: accumulator ranges; R246 check 1: AK, TS, DFMT, ORE, and the registers without tensor scales. -/
theorem test_wf_mx_ranges : accepts [.mxzero 7 0, .mxld 0 3 3 0 1, .mxld 0 0 0 7 1, .mxst 0 0 0 0 0 0 8 1 0 0 0, .mxst 4 5 0 2 0 0 0 0 0 0 4]
    [.mxzero 7 1, .mxld 0 3 0 1 1, .mxld 0 3 3 2 1, .mxld 0 0 1 7 1, .mxst 0 0 0 0 0 0 0 3 0 0 0, .mxst 0 0 0 3 0 0 0 0 0 0 0, .mxst 0 0 0 0 0 0 0 1 0 0 0,
     .mxst 0 0 0 1 0 0 8 1 0 0 0, .mxst 0 0 0 0 0 1 0 0 0 0 0, .mxst 4 0 0 0 0 0 0 0 0 0 0, .mxst 0 0 0 0 0 0 0 0 1 7 0] = true := by decide +kernel
/-- R280, R287, R288, R293: the fields of stream commands. -/
theorem test_wf_stream : accepts [.agcfg 1 2 4 3, .gath 1 2 3 4 0 1, .ringld 2 0 0 256 1, .ringst 0 3 1 1 15, .cvcopy 1 2 3 4 1 15 9 1]
    [.agcfg 1 2 5 3, .gath 1 2 3 4 7 1, .scat 1 2 3 4 0 0, .ringld 2 0 0 0 1, .ringld 2 0 0 257 1, .ringst 1 3 1 1 15, .cvcopy 1 2 3 4 0 0 0 1,
     .cvcopy 1 2 3 4 0 0 1 12, .cvcopy 1 2 3 4 1 0 8 1] = true := by decide +kernel
/-- R93, R94: reserved codes of the node rows. -/
theorem test_wf_rows : accepts [.nscan 6 7 14, .nfilt 0 0 0 0 6 1 15, .nemit 6 7 15]
    [.nscan 7 0 0, .nscan 0 0 15, .ngath 7 0 0 0, .nfilt 7 0 0 0 0 0 0, .nfilt 0 0 0 0 7 0 0, .ncmpk 7 0 0 0, .nsum 7 0 0, .nmin 7 0 0, .nmax 7 0 0, .ncnt 7 0 0,
     .nemit 7 0 0] = true := by decide +kernel
/-- R10, R13, R18: the agents that a step of the outside may name. -/
theorem test_wf_agents : accepts
    [.forwardedAccess 6143 0 true [], .remapTableError 7 1 127, .rsvptrTailWrite 11 3 0, .portctlHostenWrite 11 0, .xinvGo 11 0, .fbctlFlush 11, .mgctlMove 3 0,
     .mgctlCheckpointRead 3 0, .mgctlRehome 3 0, .queueTailNotice 4095, .preemptRequest 6143, .placerMove 65535, .uncontainedFault 11 0, .vfFlr 1, .vfFlr 192, .attestationReport 192 0, .ticketWrite 0 0 63 true 0 [], .claim 3,
     .handover 3 3, .release 3, .currentGate 3, .cfgRegisterWrite 3 0 [], .unassignedOpcode 0]
    [.forwardedAccess 6144 0 true [], .forwardedAccess 0 0 true (List.replicate 129 (0, false)), .remapTableError 8 0 0, .remapTableError 0 2 0, .remapTableError 0 0 128,
     .rsvptrTailWrite 12 0 0, .rsvptrTailWrite 0 4 0, .portctlHostenWrite 12 0, .xinvGo 12 0, .fbctlFlush 12, .mgctlMove 4 0, .mgctlCheckpointRead 4 0,
     .mgctlRehome 4 0, .queueTailNotice 4096, .qctlRun 4096, .qctlSkip 4096, .preemptRequest 6144, .placerMove 65536, .uncontainedFault 12 0, .vfFlr 0, .vfFlr 193,
     .attestationReport 193 0, .ticketWrite 0 0 64 true 0 [], .claim 4, .handover 4 0, .handover 0 4, .release 4, .currentGate 4, .cfgRegisterWrite 4 0 [], .unassignedOpcode 0x04000000#32] = true := by decide +kernel

/-! ### Words written out from the formats (R76-R93): each field's value with the place of its lowest bit -/

/-- The word with the named fields. -/
def bits (l : List (Nat × Nat)) : Nat := l.foldl (fun w f => w + f.1 * 2 ^ f.2) 0

/-- Each one-word instruction decodes from its word. -/
def decodesAs (l : List (Nat × Instr)) : Bool := l.all (fun e => decide (decodeTableWord 32 e.1 = some e.2))

/-- Each long form decodes from its first word and its field word. -/
def decodesLong (l : List (Nat × Nat × Instr)) : Bool := l.all (fun e => decide (decodeTableWord 64 (e.1 + e.2.1 * 2 ^ 32) = some e.2.2))

/-- Each node row decodes from its word, in the row's own space (R92). -/
def decodesRow (l : List (Nat × Instr)) : Bool := 
  l.all (fun e => match decodeRow (BitVec.ofNat 32 e.1) with | .ok i => decide (i = e.2) | .error _ => false)

/-- A word that decodes to no instruction, for the reason given. -/
def rejects (l : List (Nat × Nat × DecErr)) : Bool := 
  l.all (fun e => match decodeWords (BitVec.ofNat 32 e.1) (BitVec.ofNat 32 e.2.1) with | .ok _ => false | .error r => decide (r = e.2.2))

/-- The words of the integer operations (R162). -/
theorem test_words_opr_1 : decodesAs
    [(bits [(0x1, 26), (0x3, 21), (0x4, 16), (0x5, 11), (0x0, 0)], .add 3 4 5),
     (bits [(0x1, 26), (0x3, 21), (0x4, 16), (0x5, 11), (0x1, 0)], .sub 3 4 5),
     (bits [(0x1, 26), (0x3, 21), (0x4, 16), (0x5, 11), (0x2, 0)], .and 3 4 5),
     (bits [(0x1, 26), (0x3, 21), (0x4, 16), (0x5, 11), (0x3, 0)], .or 3 4 5),
     (bits [(0x1, 26), (0x3, 21), (0x4, 16), (0x5, 11), (0x4, 0)], .xor 3 4 5),
     (bits [(0x1, 26), (0x3, 21), (0x4, 16), (0x5, 11), (0x5, 0)], .andn 3 4 5),
     (bits [(0x1, 26), (0x3, 21), (0x4, 16), (0x5, 11), (0x6, 0)], .shl 3 4 5),
     (bits [(0x1, 26), (0x3, 21), (0x4, 16), (0x5, 11), (0x7, 0)], .shr 3 4 5),
     (bits [(0x1, 26), (0x3, 21), (0x4, 16), (0x5, 11), (0x8, 0)], .sra 3 4 5),
     (bits [(0x1, 26), (0x3, 21), (0x4, 16), (0x5, 11), (0x9, 0)], .rotr 3 4 5),
     (bits [(0x1, 26), (0x3, 21), (0x4, 16), (0x5, 11), (0xA, 0)], .slt 3 4 5),
     (bits [(0x1, 26), (0x3, 21), (0x4, 16), (0x5, 11), (0xB, 0)], .sltn 3 4 5),
     (bits [(0x1, 26), (0x3, 21), (0x4, 16), (0x5, 11), (0xC, 0)], .min 3 4 5),
     (bits [(0x1, 26), (0x3, 21), (0x4, 16), (0x5, 11), (0xD, 0)], .max 3 4 5),
     (bits [(0x1, 26), (0x3, 21), (0x4, 16), (0x5, 11), (0xE, 0)], .minn 3 4 5),
     (bits [(0x1, 26), (0x3, 21), (0x4, 16), (0x5, 11), (0xF, 0)], .maxn 3 4 5),
     (bits [(0x1, 26), (0x3, 21), (0x4, 16), (0x5, 11), (0x10, 0)], .mul 3 4 5),
     (bits [(0x1, 26), (0x3, 21), (0x4, 16), (0x5, 11), (0x11, 0)], .mulh 3 4 5),
     (bits [(0x1, 26), (0x3, 21), (0x4, 16), (0x5, 11), (0x12, 0)], .mulhn 3 4 5),
     (bits [(0x1, 26), (0x3, 21), (0x4, 16), (0x5, 11), (0x13, 0)], .div 3 4 5),
     (bits [(0x1, 26), (0x3, 21), (0x4, 16), (0x5, 11), (0x14, 0)], .divn 3 4 5),
     (bits [(0x1, 26), (0x3, 21), (0x4, 16), (0x5, 11), (0x15, 0)], .rem 3 4 5),
     (bits [(0x1, 26), (0x3, 21), (0x4, 16), (0x5, 11), (0x16, 0)], .remn 3 4 5),
     (bits [(0x1, 26), (0x3, 21), (0x4, 16), (0x17, 0)], .clz 3 4),
     (bits [(0x1, 26), (0x3, 21), (0x4, 16), (0x18, 0)], .ctz 3 4),
     (bits [(0x1, 26), (0x3, 21), (0x4, 16), (0x19, 0)], .popc 3 4),
     (bits [(0x1, 26), (0x3, 21), (0x4, 16), (0x1A, 0)], .sxb 3 4),
     (bits [(0x1, 26), (0x3, 21), (0x4, 16), (0x1B, 0)], .sxh 3 4)] = true := by decide +kernel

/-- The words of the integer operations (R162). -/
theorem test_words_opr_2 : decodesAs
    [(bits [(0x1, 26), (0x3, 21), (0x4, 16), (0x1C, 0)], .sxw 3 4),
     (bits [(0x1, 26), (0x3, 21), (0x4, 16), (0x1D, 0)], .zxw 3 4)] = true := by decide +kernel

/-- The words of the immediate operations and constant shifts (R81, R164, R165). -/
theorem test_words_imm : decodesAs
    [(bits [(0x2, 26), (0x3, 21), (0x4, 16), (0x8123, 0)], .addi 3 4 0x8123),
     (bits [(0x3, 26), (0x3, 21), (0x4, 16), (0x8123, 0)], .andi 3 4 0x8123),
     (bits [(0x4, 26), (0x3, 21), (0x4, 16), (0x8123, 0)], .ori 3 4 0x8123),
     (bits [(0x5, 26), (0x3, 21), (0x4, 16), (0x8123, 0)], .xori 3 4 0x8123),
     (bits [(0x6, 26), (0x3, 21), (0x4, 16), (0x2B, 0)], .shiL 3 4 0x2B),
     (bits [(0x6, 26), (0x3, 21), (0x4, 16), (0x2B, 0), (0x40, 0)], .shiR 3 4 0x2B),
     (bits [(0x6, 26), (0x3, 21), (0x4, 16), (0x2B, 0), (0x80, 0)], .shiA 3 4 0x2B),
     (bits [(0x6, 26), (0x3, 21), (0x4, 16), (0x2B, 0), (0xC0, 0)], .shiO 3 4 0x2B),
     (bits [(0x7, 26), (0x3, 21), (0x4, 16), (0x8123, 0)], .slti 3 4 0x8123),
     (bits [(0x8, 26), (0x3, 21), (0x4, 16), (0x8123, 0)], .sltni 3 4 0x8123),
     (bits [(0x9, 26), (0x3, 21), (0x8123, 0)], .lui 3 0x8123),
     (bits [(0xA, 26), (0x3, 21), (0x8123, 0)], .addpc 3 0x8123),
     (bits [(0xB, 26), (0x3, 21), (0x4, 16), (0x8123, 0)], .muli 3 4 0x8123)] = true := by decide +kernel

/-- The words of the loads and stores (R81, R166). -/
theorem test_words_mem : decodesAs
    [(bits [(0x10, 26), (0x3, 21), (0x4, 16), (0x8123, 0)], .ldb 3 4 0x8123),
     (bits [(0x11, 26), (0x3, 21), (0x4, 16), (0x8123, 0)], .ldh 3 4 0x8123),
     (bits [(0x12, 26), (0x3, 21), (0x4, 16), (0x8123, 0)], .ldw 3 4 0x8123),
     (bits [(0x13, 26), (0x3, 21), (0x4, 16), (0x8123, 0)], .ldd 3 4 0x8123),
     (bits [(0x14, 26), (0x3, 21), (0x4, 16), (0x8123, 0)], .ldbn 3 4 0x8123),
     (bits [(0x15, 26), (0x3, 21), (0x4, 16), (0x8123, 0)], .ldhn 3 4 0x8123),
     (bits [(0x16, 26), (0x3, 21), (0x4, 16), (0x8123, 0)], .ldwn 3 4 0x8123),
     (bits [(0x18, 26), (0x3, 21), (0x4, 16), (0x8123, 0)], .stb 3 4 0x8123),
     (bits [(0x19, 26), (0x3, 21), (0x4, 16), (0x8123, 0)], .sth 3 4 0x8123),
     (bits [(0x1A, 26), (0x3, 21), (0x4, 16), (0x8123, 0)], .stw 3 4 0x8123),
     (bits [(0x1B, 26), (0x3, 21), (0x4, 16), (0x8123, 0)], .std 3 4 0x8123)] = true := by decide +kernel

/-- The words of branches and jumps (R81, R172, R173). -/
theorem test_words_jump : decodesAs
    [(bits [(0x20, 26), (0x4, 21), (0x5, 16), (0x8123, 0)], .beq 4 5 0x8123),
     (bits [(0x21, 26), (0x4, 21), (0x5, 16), (0x8123, 0)], .bne 4 5 0x8123),
     (bits [(0x22, 26), (0x4, 21), (0x5, 16), (0x8123, 0)], .blt 4 5 0x8123),
     (bits [(0x23, 26), (0x4, 21), (0x5, 16), (0x8123, 0)], .bge 4 5 0x8123),
     (bits [(0x24, 26), (0x4, 21), (0x5, 16), (0x8123, 0)], .bltn 4 5 0x8123),
     (bits [(0x25, 26), (0x4, 21), (0x5, 16), (0x8123, 0)], .bgen 4 5 0x8123),
     (bits [(0x26, 26), (0x3, 21), (0x100003, 0)], .jal 3 0x100003),
     (bits [(0x27, 26), (0x3, 21), (0x4, 16), (0x8123, 0)], .jalr 3 4 0x8123)] = true := by decide +kernel

/-- The words of SYS (R82). -/
theorem test_words_sys : decodesAs
    [(bits [(0x28, 26), (0x0, 0)], .nop),
     (bits [(0x28, 26), (0x1000, 0)], .halt),
     (bits [(0x28, 26), (0xA5, 0), (0x2000, 0)], .trapi 0xA5),
     (bits [(0x28, 26), (0x3000, 0)], .rett),
     (bits [(0x28, 26), (0x4000, 0)], .brk),
     (bits [(0x28, 26), (0x3, 21), (0x20, 0), (0x5000, 0)], .crr 3 0x20),
     (bits [(0x28, 26), (0x4, 16), (0x20, 0), (0x6000, 0)], .crw 4 0x20),
     (bits [(0x28, 26), (0x4, 16), (0x20, 0), (0x7000, 0)], .crs 4 0x20),
     (bits [(0x28, 26), (0x4, 16), (0x20, 0), (0x8000, 0)], .crc 4 0x20)] = true := by decide +kernel

/-- The words of `fence` and `fencex` (R137, R138). -/
theorem test_words_fence : decodesAs
    [(bits [(0x29, 26), (0x2, 12), (0x4, 9), (0x15, 0), (0x0, 0)], .fence 2 4 0x15),
     (bits [(0x29, 26), (0x11, 10), (0x6, 5), (0x4, 0), (0x8000, 0)], .fencex 0x11 6 4)] = true := by decide +kernel

/-- The words of the atomics (R323, R324). -/
theorem test_words_amo : decodesAs
    [(bits [(0x2A, 26), (0x3, 21), (0x4, 16), (0x5, 11), (0x3, 8), (0x2, 5), (0x0, 0)], .amoadd32 3 4 5 3 2),
     (bits [(0x2A, 26), (0x3, 21), (0x4, 16), (0x5, 11), (0x3, 8), (0x2, 5), (0x1, 0)], .amoadd64 3 4 5 3 2),
     (bits [(0x2A, 26), (0x3, 21), (0x4, 16), (0x5, 11), (0x3, 8), (0x2, 5), (0x2, 0)], .amominI32 3 4 5 3 2),
     (bits [(0x2A, 26), (0x3, 21), (0x4, 16), (0x5, 11), (0x3, 8), (0x2, 5), (0x3, 0)], .amominN32 3 4 5 3 2),
     (bits [(0x2A, 26), (0x3, 21), (0x4, 16), (0x5, 11), (0x3, 8), (0x2, 5), (0x4, 0)], .amominI64 3 4 5 3 2),
     (bits [(0x2A, 26), (0x3, 21), (0x4, 16), (0x5, 11), (0x3, 8), (0x2, 5), (0x5, 0)], .amominN64 3 4 5 3 2),
     (bits [(0x2A, 26), (0x3, 21), (0x4, 16), (0x5, 11), (0x3, 8), (0x2, 5), (0x6, 0)], .amomaxI32 3 4 5 3 2),
     (bits [(0x2A, 26), (0x3, 21), (0x4, 16), (0x5, 11), (0x3, 8), (0x2, 5), (0x7, 0)], .amomaxN32 3 4 5 3 2),
     (bits [(0x2A, 26), (0x3, 21), (0x4, 16), (0x5, 11), (0x3, 8), (0x2, 5), (0x8, 0)], .amomaxI64 3 4 5 3 2),
     (bits [(0x2A, 26), (0x3, 21), (0x4, 16), (0x5, 11), (0x3, 8), (0x2, 5), (0x9, 0)], .amomaxN64 3 4 5 3 2),
     (bits [(0x2A, 26), (0x3, 21), (0x4, 16), (0x5, 11), (0x3, 8), (0x2, 5), (0xA, 0)], .amofaddF32 3 4 5 3 2),
     (bits [(0x2A, 26), (0x3, 21), (0x4, 16), (0x5, 11), (0x3, 8), (0x2, 5), (0xB, 0)], .amofaddF64 3 4 5 3 2),
     (bits [(0x2A, 26), (0x3, 21), (0x4, 16), (0x5, 11), (0x3, 8), (0x2, 5), (0xC, 0)], .amofaddBf16x2 3 4 5 3 2),
     (bits [(0x2A, 26), (0x3, 21), (0x4, 16), (0x5, 11), (0x3, 8), (0x2, 5), (0xD, 0)], .amoand32 3 4 5 3 2),
     (bits [(0x2A, 26), (0x3, 21), (0x4, 16), (0x5, 11), (0x3, 8), (0x2, 5), (0xE, 0)], .amoand64 3 4 5 3 2),
     (bits [(0x2A, 26), (0x3, 21), (0x4, 16), (0x5, 11), (0x3, 8), (0x2, 5), (0xF, 0)], .amoor32 3 4 5 3 2),
     (bits [(0x2A, 26), (0x3, 21), (0x4, 16), (0x5, 11), (0x3, 8), (0x2, 5), (0x10, 0)], .amoor64 3 4 5 3 2),
     (bits [(0x2A, 26), (0x3, 21), (0x4, 16), (0x5, 11), (0x3, 8), (0x2, 5), (0x11, 0)], .amoxor32 3 4 5 3 2),
     (bits [(0x2A, 26), (0x3, 21), (0x4, 16), (0x5, 11), (0x3, 8), (0x2, 5), (0x12, 0)], .amoxor64 3 4 5 3 2),
     (bits [(0x2A, 26), (0x3, 21), (0x4, 16), (0x5, 11), (0x3, 8), (0x2, 5), (0x13, 0)], .amoswap32 3 4 5 3 2),
     (bits [(0x2A, 26), (0x3, 21), (0x4, 16), (0x5, 11), (0x3, 8), (0x2, 5), (0x14, 0)], .amoswap64 3 4 5 3 2),
     (bits [(0x2A, 26), (0x3, 21), (0x4, 16), (0x5, 11), (0x3, 8), (0x2, 5), (0x15, 0)], .amoinc32 3 4 5 3 2),
     (bits [(0x2A, 26), (0x3, 21), (0x4, 16), (0x5, 11), (0x3, 8), (0x2, 5), (0x16, 0)], .amoinc64 3 4 5 3 2),
     (bits [(0x2A, 26), (0x3, 21), (0x4, 16), (0x5, 11), (0x3, 8), (0x2, 5), (0x17, 0)], .amodec32 3 4 5 3 2),
     (bits [(0x2A, 26), (0x3, 21), (0x4, 16), (0x5, 11), (0x3, 8), (0x2, 5), (0x18, 0)], .amodec64 3 4 5 3 2),
     (bits [(0x2B, 26), (0x3, 21), (0x4, 16), (0x5, 11), (0x3, 8), (0x2, 5), (0x0, 0)], .amocas32 3 4 5 3 2),
     (bits [(0x2B, 26), (0x3, 21), (0x4, 16), (0x5, 11), (0x3, 8), (0x2, 5), (0x1, 0)], .amocas64 3 4 5 3 2)] = true := by decide +kernel

/-- The words of the reductions (R323, R325). -/
theorem test_words_red : decodesAs
    [(bits [(0x2C, 26), (0x3, 21), (0x4, 16), (0x5, 11), (0x3, 8), (0x2, 5), (0x0, 0)], .redadd32 3 4 5 3 2),
     (bits [(0x2C, 26), (0x3, 21), (0x4, 16), (0x5, 11), (0x3, 8), (0x2, 5), (0x1, 0)], .redadd64 3 4 5 3 2),
     (bits [(0x2C, 26), (0x3, 21), (0x4, 16), (0x5, 11), (0x3, 8), (0x2, 5), (0x2, 0)], .redminI32 3 4 5 3 2),
     (bits [(0x2C, 26), (0x3, 21), (0x4, 16), (0x5, 11), (0x3, 8), (0x2, 5), (0x3, 0)], .redminN32 3 4 5 3 2),
     (bits [(0x2C, 26), (0x3, 21), (0x4, 16), (0x5, 11), (0x3, 8), (0x2, 5), (0x4, 0)], .redminI64 3 4 5 3 2),
     (bits [(0x2C, 26), (0x3, 21), (0x4, 16), (0x5, 11), (0x3, 8), (0x2, 5), (0x5, 0)], .redminN64 3 4 5 3 2),
     (bits [(0x2C, 26), (0x3, 21), (0x4, 16), (0x5, 11), (0x3, 8), (0x2, 5), (0x6, 0)], .redmaxI32 3 4 5 3 2),
     (bits [(0x2C, 26), (0x3, 21), (0x4, 16), (0x5, 11), (0x3, 8), (0x2, 5), (0x7, 0)], .redmaxN32 3 4 5 3 2),
     (bits [(0x2C, 26), (0x3, 21), (0x4, 16), (0x5, 11), (0x3, 8), (0x2, 5), (0x8, 0)], .redmaxI64 3 4 5 3 2),
     (bits [(0x2C, 26), (0x3, 21), (0x4, 16), (0x5, 11), (0x3, 8), (0x2, 5), (0x9, 0)], .redmaxN64 3 4 5 3 2),
     (bits [(0x2C, 26), (0x3, 21), (0x4, 16), (0x5, 11), (0x3, 8), (0x2, 5), (0xA, 0)], .redfaddF32 3 4 5 3 2),
     (bits [(0x2C, 26), (0x3, 21), (0x4, 16), (0x5, 11), (0x3, 8), (0x2, 5), (0xB, 0)], .redfaddF64 3 4 5 3 2),
     (bits [(0x2C, 26), (0x3, 21), (0x4, 16), (0x5, 11), (0x3, 8), (0x2, 5), (0xC, 0)], .redfaddBf16x2 3 4 5 3 2),
     (bits [(0x2C, 26), (0x3, 21), (0x4, 16), (0x5, 11), (0x3, 8), (0x2, 5), (0xD, 0)], .redand32 3 4 5 3 2),
     (bits [(0x2C, 26), (0x3, 21), (0x4, 16), (0x5, 11), (0x3, 8), (0x2, 5), (0xE, 0)], .redand64 3 4 5 3 2),
     (bits [(0x2C, 26), (0x3, 21), (0x4, 16), (0x5, 11), (0x3, 8), (0x2, 5), (0xF, 0)], .redor32 3 4 5 3 2),
     (bits [(0x2C, 26), (0x3, 21), (0x4, 16), (0x5, 11), (0x3, 8), (0x2, 5), (0x10, 0)], .redor64 3 4 5 3 2),
     (bits [(0x2C, 26), (0x3, 21), (0x4, 16), (0x5, 11), (0x3, 8), (0x2, 5), (0x11, 0)], .redxor32 3 4 5 3 2),
     (bits [(0x2C, 26), (0x3, 21), (0x4, 16), (0x5, 11), (0x3, 8), (0x2, 5), (0x12, 0)], .redxor64 3 4 5 3 2),
     (bits [(0x2C, 26), (0x3, 21), (0x4, 16), (0x5, 11), (0x3, 8), (0x2, 5), (0x13, 0)], .redswap32 3 4 5 3 2),
     (bits [(0x2C, 26), (0x3, 21), (0x4, 16), (0x5, 11), (0x3, 8), (0x2, 5), (0x14, 0)], .redswap64 3 4 5 3 2),
     (bits [(0x2C, 26), (0x3, 21), (0x4, 16), (0x5, 11), (0x3, 8), (0x2, 5), (0x15, 0)], .redinc32 3 4 5 3 2),
     (bits [(0x2C, 26), (0x3, 21), (0x4, 16), (0x5, 11), (0x3, 8), (0x2, 5), (0x16, 0)], .redinc64 3 4 5 3 2),
     (bits [(0x2C, 26), (0x3, 21), (0x4, 16), (0x5, 11), (0x3, 8), (0x2, 5), (0x17, 0)], .reddec32 3 4 5 3 2),
     (bits [(0x2C, 26), (0x3, 21), (0x4, 16), (0x5, 11), (0x3, 8), (0x2, 5), (0x18, 0)], .reddec64 3 4 5 3 2)] = true := by decide +kernel

/-- The words of the FPU (R176-R179). -/
theorem test_words_fpu : decodesAs
    [(bits [(0x2D, 26), (0x3, 21), (0x4, 16), (0x5, 11), (0x1, 9), (0x4, 6), (0x0, 0)], .fadd 3 4 5 1 4),
     (bits [(0x2D, 26), (0x3, 21), (0x4, 16), (0x5, 11), (0x1, 9), (0x4, 6), (0x1, 0)], .fsub 3 4 5 1 4),
     (bits [(0x2D, 26), (0x3, 21), (0x4, 16), (0x5, 11), (0x1, 9), (0x4, 6), (0x2, 0)], .fmul 3 4 5 1 4),
     (bits [(0x2D, 26), (0x3, 21), (0x4, 16), (0x5, 11), (0x1, 9), (0x4, 6), (0x3, 0)], .fdiv 3 4 5 1 4),
     (bits [(0x2D, 26), (0x3, 21), (0x4, 16), (0x1, 9), (0x4, 6), (0x4, 0)], .fsqrt 3 4 1 4),
     (bits [(0x2D, 26), (0x3, 21), (0x4, 16), (0x5, 11), (0x1, 9), (0x4, 6), (0x5, 0)], .fmac 3 4 5 1 4),
     (bits [(0x2D, 26), (0x3, 21), (0x4, 16), (0x5, 11), (0x1, 9), (0x4, 6), (0x6, 0)], .fnmac 3 4 5 1 4),
     (bits [(0x2D, 26), (0x3, 21), (0x4, 16), (0x5, 11), (0x1, 9), (0x1C7, 0)], .fmin 3 4 5 1),
     (bits [(0x2D, 26), (0x3, 21), (0x4, 16), (0x5, 11), (0x1, 9), (0x1C8, 0)], .fmax 3 4 5 1),
     (bits [(0x2D, 26), (0x3, 21), (0x4, 16), (0x1, 9), (0x1C9, 0)], .fabs 3 4 1),
     (bits [(0x2D, 26), (0x3, 21), (0x4, 16), (0x1, 9), (0x1CA, 0)], .fneg 3 4 1),
     (bits [(0x2D, 26), (0x3, 21), (0x4, 16), (0x5, 11), (0x1, 9), (0x1CB, 0)], .feq 3 4 5 1),
     (bits [(0x2D, 26), (0x3, 21), (0x4, 16), (0x5, 11), (0x1, 9), (0x1CC, 0)], .flt 3 4 5 1),
     (bits [(0x2D, 26), (0x3, 21), (0x4, 16), (0x5, 11), (0x1, 9), (0x1CD, 0)], .fle 3 4 5 1),
     (bits [(0x2D, 26), (0x3, 21), (0x4, 16), (0x1, 9), (0x1CE, 0)], .fclass 3 4 1),
     (bits [(0x2D, 26), (0x3, 21), (0x4, 16), (0x1, 9), (0x4, 6), (0x10, 0)], .fcvtfi 3 4 1 4),
     (bits [(0x2D, 26), (0x3, 21), (0x4, 16), (0x1, 9), (0x4, 6), (0x11, 0)], .fcvtfn 3 4 1 4),
     (bits [(0x2D, 26), (0x3, 21), (0x4, 16), (0x1, 9), (0x4, 6), (0x12, 0)], .fcvtif 3 4 1 4),
     (bits [(0x2D, 26), (0x3, 21), (0x4, 16), (0x1, 9), (0x4, 6), (0x13, 0)], .fcvtnf 3 4 1 4),
     (bits [(0x2D, 26), (0x3, 21), (0x4, 16), (0x1, 9), (0x4, 6), (0x14, 0)], .fcvtff 3 4 1 4)] = true := by decide +kernel

/-- The words of CACHE (R331). -/
theorem test_words_cache : decodesAs
    [(bits [(0x2E, 26), (0x3, 21), (0x4, 16), (0x0, 0)], .pin 3 4),
     (bits [(0x2E, 26), (0x3, 21), (0x4, 16), (0x1, 0)], .unpin 3 4),
     (bits [(0x2E, 26), (0x4, 16), (0x5, 11), (0x2, 0)], .discard 4 5),
     (bits [(0x2E, 26), (0x4, 16), (0x5, 11), (0x3, 0)], .wback 4 5),
     (bits [(0x2E, 26), (0x4, 0)], .l1inv)] = true := by decide +kernel

/-- The words of ARR (R272). -/
theorem test_words_arr : decodesAs
    [(bits [(0x2F, 26), (0x4, 16), (0x5, 11), (0x0, 0)], .arrinit 4 5),
     (bits [(0x2F, 26), (0x4, 16), (0x5, 11), (0x1, 0)], .arradd 4 5),
     (bits [(0x2F, 26), (0x4, 16), (0x5, 11), (0x2, 0)], .arrwait 4 5),
     (bits [(0x2F, 26), (0x3, 21), (0x4, 16), (0x3, 0)], .arrpoll 3 4)] = true := by decide +kernel

/-- The words of LOOP (R205). -/
theorem test_words_loop : decodesAs
    [(bits [(0x30, 26), (0x4, 16), (0x0, 0)], .ctxld 4),
     (bits [(0x30, 26), (0x4, 16), (0x5, 11), (0x1, 0)], .lpgo 4 5),
     (bits [(0x30, 26), (0x2, 0)], .lpstop),
     (bits [(0x30, 26), (0x3, 21), (0x3, 0)], .lpstat 3),
     (bits [(0x30, 26), (0x4, 16), (0x4, 0)], .sqw 4)] = true := by decide +kernel

/-- The words of TOK (R207). -/
theorem test_words_tok : decodesAs
    [(bits [(0x31, 26), (0x4, 16), (0xB, 0), (0x0, 0)], .toksend 4 0xB),
     (bits [(0x31, 26), (0xB, 0), (0x10, 0)], .tokwait 0xB),
     (bits [(0x31, 26), (0x4, 16), (0xB, 0), (0x20, 0)], .tokbc 4 0xB),
     (bits [(0x31, 26), (0x3, 21), (0xB, 0), (0x30, 0)], .tokpoll 3 0xB)] = true := by decide +kernel

/-- The words of BANK (R264). -/
theorem test_words_bank : decodesAs
    [(bits [(0x32, 26), (0x4, 16), (0x5, 11), (0x0, 0)], .give 4 5),
     (bits [(0x32, 26), (0x9, 6), (0x1, 0)], .bl1 9),
     (bits [(0x32, 26), (0x9, 6), (0x2, 0)], .bscr 9),
     (bits [(0x32, 26), (0x4, 16), (0x9, 6), (0x8, 0)], .rgld 4 9),
     (bits [(0x32, 26), (0x4, 16), (0x9, 6), (0x9, 0)], .rgsv 4 9),
     (bits [(0x32, 26), (0x9, 6), (0xA, 0)], .rgoff 9),
     (bits [(0x32, 26), (0x9, 6), (0xB, 0)], .rgpush 9),
     (bits [(0x32, 26), (0x9, 6), (0xC, 0)], .rgpop 9),
     (bits [(0x32, 26), (0x3, 21), (0x9, 6), (0xD, 0)], .rgstat 3 9)] = true := by decide +kernel

/-- The words of MSG (R295). -/
theorem test_words_msg : decodesAs
    [(bits [(0x33, 26), (0x3, 21), (0x4, 16), (0x5, 11), (0x0, 0)], .send 3 4 5),
     (bits [(0x33, 26), (0x3, 21), (0x4, 16), (0x5, 11), (0x1, 0)], .post 3 4 5),
     (bits [(0x33, 26), (0x3, 21), (0x4, 16), (0x2, 0)], .unpost 3 4)] = true := by decide +kernel

/-- The words of SHUT and MEMQ (R359). -/
theorem test_words_shut : decodesAs
    [(bits [(0x34, 26), (0x3, 21), (0x4, 16), (0x0, 0)], .shq 3 4),
     (bits [(0x34, 26), (0x1, 0)], .shwait),
     (bits [(0x34, 26), (0x3, 21), (0x2, 0)], .shspan 3),
     (bits [(0x35, 26), (0x3, 21), (0x4, 16), (0x5, 11), (0x0, 0)], .nrun 3 4 5),
     (bits [(0x35, 26), (0x3, 21), (0x4, 16), (0x1, 0)], .pcq 3 4)] = true := by decide +kernel

/-- The words of SEC (R406). -/
theorem test_words_sec : decodesAs
    [(bits [(0x36, 26), (0x3, 21), (0x4, 16), (0x5, 11), (0x0, 0)], .kset 3 4 5),
     (bits [(0x36, 26), (0x3, 21), (0x4, 16), (0x1, 0)], .kzero 3 4),
     (bits [(0x36, 26), (0x3, 21), (0x4, 16), (0x2, 0)], .scrgo 3 4),
     (bits [(0x36, 26), (0x3, 21), (0x4, 16), (0x3, 0)], .scrq 3 4)] = true := by decide +kernel

/-- The words of node rows (R92, R93). -/
theorem test_words_rows : decodesRow
    [(bits [(0x0, 27)], .nend),
     (bits [(0x1, 27), (0x5, 24), (0x6, 21), (0x9, 0)], .nscan 5 6 9),
     (bits [(0x2, 27), (0x5, 24), (0x6, 21), (0x3, 18), (0x9, 0)], .ngath 5 6 3 9),
     (bits [(0x3, 27), (0x5, 24), (0x6, 21), (0x3, 18), (0x4, 15), (0x2, 12), (0x1, 11), (0x9, 0)], .nfilt 5 6 3 4 2 1 9),
     (bits [(0x4, 27), (0x5, 24), (0x6, 21), (0x3, 18), (0x4, 15)], .ncmpk 5 6 3 4),
     (bits [(0x5, 27), (0x5, 24), (0x6, 21), (0x3, 18)], .nsum 5 6 3),
     (bits [(0x6, 27), (0x5, 24), (0x6, 21), (0x3, 18)], .nmin 5 6 3),
     (bits [(0x7, 27), (0x5, 24), (0x6, 21), (0x3, 18)], .nmax 5 6 3),
     (bits [(0x8, 27), (0x5, 24), (0x6, 21), (0x3, 18)], .ncnt 5 6 3),
     (bits [(0x9, 27), (0x5, 24), (0x3, 18), (0x9, 0)], .nemit 5 3 9)] = true := by decide +kernel

/-- The long forms of MXL (R84, R241, R246, R247, R248, R249). -/
theorem test_words_mxl : decodesLong
    [(bits [(0x3E, 26), (0, 20), (3, 15), (6, 5)], bits [(1, 30), (2, 28), (1, 26), (5, 23), (3, 20), (2, 18), (1, 15), (6, 12), (9, 8), (4, 4), (8, 0)],
      .mxstep 3 6 1 2 1 5 3 2 1 6 9 4 8),
     (bits [(0x3E, 26), (1, 20)], bits [(5, 0), (2, 3)], .mxzero 2 5),
     (bits [(0x3E, 26), (2, 20), (6, 5)], bits [(2, 10), (1, 7), (5, 4), (9, 0)], .mxld 6 2 1 5 9),
     (bits [(0x3E, 26), (3, 20), (4, 15), (5, 10), (6, 5)], bits [(2, 21), (9, 17), (1, 16), (4, 12), (2, 10), (1, 7), (6, 4), (11, 0)], .mxst 4 5 6 2 9 1 4 2 1 6 11),
     (bits [(0x3E, 26), (4, 20)], bits [(3, 0), (6, 3), (1, 6)], .mxmov 1 6 3),
     (bits [(0x3E, 26), (5, 20)], 0, .mxsync)] = true := by decide +kernel

/-- The long forms of STL (R85, R281, R282, R285, R287). -/
theorem test_words_stl : decodesLong
    [(bits [(0x3F, 26), (0, 20), (4, 15), (5, 10)], bits [(2, 0), (3, 2)], .agcfg 4 5 3 2),
     (bits [(0x3F, 26), (1, 20)], bits [(2, 0), (1, 2), (9, 3), (1, 7), (6, 8)], .agrun 6 1 9 1 2),
     (bits [(0x3F, 26), (2, 20), (3, 15), (4, 10), (5, 5), (6, 0)], 0, .copy 3 4 5 6),
     (bits [(0x3F, 26), (3, 20), (3, 15), (4, 10), (5, 5), (6, 0)], bits [(0x8001, 0), (5, 16)], .gath 3 4 5 6 5 0x8001),
     (bits [(0x3F, 26), (4, 20), (3, 15), (4, 10), (5, 5), (6, 0)], bits [(0x8001, 0), (5, 16)], .scat 3 4 5 6 5 0x8001),
     (bits [(0x3F, 26), (5, 20), (4, 15)], bits [(9, 0), (0x101, 4)], .ringld 4 0 0 0x101 9),
     (bits [(0x3F, 26), (6, 20)], bits [(9, 0), (5, 4), (1, 13), (2, 14)], .ringst 0 2 1 5 9),
     (bits [(0x3F, 26), (7, 20), (4, 15)], bits [(0x2A, 0)], .tsload 4 0x2A),
     (bits [(0x3F, 26), (8, 20), (3, 15), (4, 10), (5, 5), (6, 0)], bits [(0x81234, 0)], .deliv 3 4 5 6 0x81234),
     (bits [(0x3F, 26), (9, 20), (3, 15), (4, 10), (5, 5), (6, 0)], bits [(7, 0), (10, 4), (12, 8), (1, 12)], .cvcopy 3 4 5 6 1 12 10 7),
     (bits [(0x3F, 26), (10, 20)], bits [(3, 0)], .agstop 3)] = true := by decide +kernel

/-- Words that the spec writes out: the listing of R81's example, R162, R205, R207, R264, R272. -/
theorem test_words_examples_1 : decodesAs
    [(0x2440FFF0, .lui 2 0xFFF0), (0x08600001, .addi 3 0 1), (0x68620000, .stw 3 2 0), (0x8464FFFD, .bne 3 4 0xFFFD), (0xA0001000, .halt), (0x04642800, .add 3 4 5),
     (0xC0040000, .ctxld 4), (0xC0053001, .lpgo 5 6), (0xC0E00003, .lpstat 7), (0xC0090004, .sqw 9), (0xC4030002, .toksend 3 2), (0xC4000015, .tokwait 5),
     (0xC4080021, .tokbc 8 1), (0xC4400037, .tokpoll 2 7), (0xC8074000, .give 7 8), (0xC80000C1, .bl1 3), (0xC80000C2, .bscr 3), (0xC8040088, .rgld 4 2),
     (0xC8040089, .rgsv 4 2), (0xC800000A, .rgoff 0), (0xC800004B, .rgpush 1), (0xC800004C, .rgpop 1), (0xC8A0004D, .rgstat 5 1), (0xBC0B1800, .arrinit 11 3),
     (0xBC0B1801, .arradd 11 3), (0xBC0B0002, .arrwait 11 0), (0xBC8B0003, .arrpoll 4 11)] = true := by decide +kernel

/-- Words that the spec writes out: R295, R323-R325, R331, R359, R406. -/
theorem test_words_examples_2 : decodesAs
    [(0xCC853000, .send 4 5 6), (0xCC853001, .post 4 5 6), (0xCC850002, .unpost 4 5), (0xA8853360, .amoadd32 4 5 6 3 3), (0xAC853181, .amocas64 4 5 6 1 4),
     (0xB00A1801, .redadd64 0 10 3 0 0), (0xB1691800, .redadd32 11 9 3 0 0), (0xA88A180C, .amofaddBf16x2 4 10 3 0 0), (0xA8AA000F, .amoor32 5 10 0 0 0),
     (0xB8850000, .pin 4 5), (0xB8850001, .unpin 4 5), (0xB8053002, .discard 5 6), (0xB8053003, .wback 5 6), (0xB8000004, .l1inv), (0xD0850000, .shq 4 5),
     (0xD0000001, .shwait), (0xD0C00002, .shspan 6), (0xD4853000, .nrun 4 5 6), (0xD5050001, .pcq 8 5), (0xD9052000, .kset 8 5 4), (0xD8C50001, .kzero 6 5),
     (0xD8E50002, .scrgo 7 5), (0xD9250003, .scrq 9 5)] = true := by decide +kernel

/-- Long forms that the spec writes out: the examples of R232 and R287. -/
theorem test_words_examples_3 : decodesLong
    [(0xF8018000, 0x40000219, .mxstep 3 0 1 0 0 0 0 0 0 0 2 1 9), (0xF8300000, 0x00008400, .mxst 0 0 0 0 0 0 8 1 0 0 0), (0xF8500000, 0, .mxsync),
     (0xF8018000, 0x649C0208, .mxstep 3 0 1 2 1 1 1 3 0 0 2 0 8), (0xF8321400, 0x00400004, .mxst 4 5 0 2 0 0 0 0 0 0 4),
     (0xFC510000, 0x00000011, .ringld 2 0 0 1 1), (0xFC2190A6, 0, .copy 3 4 5 6)] = true := by decide +kernel

/-- R81: reserved opcodes are the row UNASSIGNED_OPCODE; the words of all ones and of unassigned selectors are no instruction. -/
theorem test_words_unassigned :
    ([0x00000000, 0x00000001, 0x30000000, 0x3C000000, 0x5C000000, 0x70000000, 0x7C000000, 0xDC000000, 0xF4000000].all fun w =>
      match decodeWords (BitVec.ofNat 32 w) 0 with | .ok i => decide (i = .unassignedOpcode (BitVec.ofNat 32 w)) | .error _ => false) = true ∧
    rejects [(0xFFFFFFFF, 0, .unassigned), (bits [(0x01, 26), (30, 0)], 0, .unassigned), (bits [(0x28, 26), (9, 12)], 0, .unassigned),
      (bits [(0x2A, 26), (25, 0)], 0, .unassigned), (bits [(0x2D, 26), (63, 0)], 0, .unassigned), (bits [(0x3E, 26), (6, 20)], 0, .unassigned),
      (bits [(0x3F, 26), (11, 20)], 0, .unassigned)] = true := by decide +kernel

/-- R78: reserved bits that are not zero. -/
theorem test_words_reserved : rejects
    [(bits [(0x01, 26), (1, 5)], 0, .unassigned), (bits [(0x01, 26), (0x17, 0), (1, 11)], 0, .reserved), (bits [(0x09, 26), (1, 16)], 0, .reserved),
     (bits [(0x06, 26), (1, 8)], 0, .reserved), (bits [(0x28, 26), (1, 0)], 0, .reserved), (bits [(0x2E, 26), (4, 0), (1, 21)], 0, .reserved),
     (bits [(0x3E, 26), (5, 20)], 1, .reserved), (bits [(0x3E, 26), (1, 20)], bits [(1, 6)], .reserved), (bits [(0x3F, 26), (2, 20)], 1, .reserved)] = true := by
  decide +kernel

/-! ### States that meet the hypotheses of the statements, clause by clause, at boundary values -/

/-- Strand 0 of an instance of one core: its handler at 0x4000_0800, slots 0 to 3 banks (slot 1 in L1 mode), slot 4 locked, the others empty. -/
def t0 : Strand :=
  (Strand.fresh 0 0 ⟨64, 16, 16, 16, 4, 16⟩ false 0x40000000#64 0
    ((List.range 16).map (fun i => if i < 4 then ⟨some i, false, false, decide (i = 1), false⟩ else if i = 4 then ⟨some 4, false, true, false, false⟩
      else ⟨none, false, false, false, false⟩)) 0).mapTrap (fun r => { r with tvec := 0x40000801#64 })
def i0 : Inst := ⟨0, 0, 0, 1, 1, 0, 0, 16, 2 ^ 25 - 1, false, none, 0, 0, 0, none, false, false, true, false⟩
/-- The machine with that one strand. -/
def st (t : Strand) : State := { State.reset with strands := [(0, t)], insts := [(0, i0)] }
/-- Registers and poison bits of a strand. -/
def sg (t : Strand) (l : List (Nat × Nat)) : Strand :=
  t.mapSeq (fun q => { q with g := l.foldl (fun a x => tblPut 0 a x.1 (BitVec.ofNat 64 x.2)) q.g })
def sp (t : Strand) (l : List Nat) : Strand := t.mapSeq (fun q => { q with gp := l.foldl (fun a x => tblPut false a x true) q.gp })
/-- The agent of a step. -/
def ag (s : State) (a b c : Nat) : State := { s with agent := ⟨a, b, c⟩ }
/-- Translation tables that map page i from VA 0x4000_0000 with the leaves given (R345). -/
def mp (l : List (Nat × Nat)) : Mem :=
  l.foldl (fun m x => m.putWords (0x14000 + 8 * x.1) 8 x.2)
    (((({ Mem.reset with cfg := cfgPut Mem.reset.cfg (offPtbase 0) 0x11001 } : Mem).putWords 0x11000 8 0x12001).putWords (0x12000 + 8) 8 0x13001).putWords 0x13000 8 0x14001)
/-- Page 0 read and execute, 1 read and write, 2 race-checked, 3 SCO, 4 unbacked, 5 on the host, 6 pin-eligible. -/
def m0 : Mem := mp [(0, 0x20017), (1, 0x2100F), (2, 0x2202F), (3, 0x2304F), (4, 0x1508F), (5, 0x500F + 2 ^ 58), (6, 0x2610F)]
def pv (i : Nat) : Nat := 0x40000000 + 4096 * i
def sm (t : Strand) : State := { st t with mem := m0 }
/-- A window address. -/
def win (slot off : Nat) : Nat := 0xFFFFFFFFFFF00000 + 65536 * slot + off

/-- Registers written at both ends of the file, a poisoned source. -/
def t1 : Strand := sp (sg t0 [(31, 2 ^ 63), (4, 2 ^ 64 - 1)]) [4]

theorem meets_OprTwoResult : Runs (st t1) 0 t1 ∧ t1.busy [0, 31, 4] = false ∧ t1.busy [31, 31, 31] = false := by unfold Runs; decide +kernel
theorem meets_OprOneResult : Runs (st t1) 0 t1 ∧ t1.busy [31, 4] = false ∧ t1.busy [0] = false ∧ t1.pend 31 = false ∧
    ((31 : Reg) ≠ 0 ∧ 0x243F8000#32 = 0x09#6 ++ 1#5 ++ 31#5 ++ 0x8000#16) := by unfold Runs; decide +kernel
theorem meets_BranchJumpResult : Runs (st t1) 0 t1 ∧ t1.busy [31, 0] = false ∧ t1.gp 31 = false ∧ t1.gp 0 = false ∧ Handles t1 ∧ t1.gp 4 = true ∧
    t1.g 31 ≠ t1.g 0 ∧ (t1.g 31).toInt < (t1.g 0).toInt ∧ (t1.g 0).toNat ≤ (t1.g 31).toNat ∧ t1.pend 4 = false ∧
    (t1.g 31 + BitVec.ofInt 64 (0x8000#16).toInt).toNat % 4 = 0 ∧ (t1.g 31 + BitVec.ofInt 64 (0x7FFF#16).toInt).toNat % 4 ≠ 0 := by
  unfold Runs Handles; decide +kernel
theorem meets_CregResult : Runs (st t1) 0 t1 ∧ t1.pend 31 = false ∧ t1.gp 31 = false ∧ Handles t1 ∧ t1.pend 4 = false ∧ t1.gp 4 = true ∧
    0x000 ∈ cregNumbers ∧ 0x0A0 ∈ cregNumbers ∧ 0xFFF ∉ cregNumbers ∧ 0x003 ∉ cregNumbers ∧ (t1.g 31).toNat % 8 < 5 ∧
    5 ≤ (BitVec.ofNat 64 (b2n t1.seq.ctl.daz * 16 + b2n t1.seq.ctl.ftz * 8 + t1.seq.ctl.rm) ||| (sg t1 [(31, 5)]).g 31).toNat % 8 := by
  unfold Runs Handles; decide +kernel
theorem meets_TrapEntry : Runs (st t0) 0 t0 ∧ Handles t0 := by unfold Runs Handles; decide +kernel
/-- No handler; inside a handler; beside them a strand of the instance and one of another. -/
def tNo : Strand := t0.mapTrap (fun r => { r with tvec := 0x40000800#64 })
def tIn : Strand := t0.mapTrap (fun r => { r with intrap := true })
def sTwo : State := { st tIn with strands := [(0, tIn), (1, { t0 with lin := 1 }), (2, { t0 with kinst := 1 })] }
theorem meets_Escalates : (Runs (st tNo) 0 tNo ∧ tNo.seq.trap.tvec.getLsbD 0 = false) ∧ (Runs sTwo 0 tIn ∧ tIn.seq.trap.intrap = true) ∧
    (sTwo.strand? 1).isSome = true ∧ (sTwo.strand? 2).isSome = true ∧ sTwo.strand? 3 = none := by unfold Runs; decide +kernel
def tHold : Strand := tIn.mapTrap (fun r => { r with hold := some ⟨9, 2, 3, 5⟩ })
theorem meets_RettResult : (Runs (st tIn) 0 tIn ∧ tIn.seq.trap.intrap = true ∧ tIn.seq.trap.raised = [] ∧ tIn.seq.trap.hold = none) ∧
    (Runs (st tHold) 0 tHold ∧ tHold.seq.trap.intrap = true ∧ tHold.seq.trap.raised = [] ∧ tHold.seq.trap.hold = some ⟨9, 2, 3, 5⟩ ∧
      tHold.seq.trap.tvec.getLsbD 0 = true) := by unfold Runs; decide +kernel

/-- Base registers at the window's first byte, at the last eight of a slot, below the window, at the end of the address space. -/
def tMem : Strand := sp (sg t0 [(4, win 0 0), (5, win 3 65528), (6, 0xFFFFFFFFFFEFFFFF), (7, 2 ^ 64 - 1), (8, win 9 0), (9, pv 1)]) [3]
theorem meets_LoadStoreIssues : Runs (st tMem) 0 tMem ∧ tMem.busy [3, 4] = false ∧ tMem.busy [0, 5] = false ∧ tMem.gp 4 = false ∧ tMem.gp 5 = false ∧
    tMem.loadFull = false ∧ tMem.seq.stores.countP (fun x => !x.arr) < 16 ∧ tMem.seq.ctl.ackcnt ≤ 1024 ∧
    inWindow (effAddr tMem 4 0) = true ∧ winOff (effAddr tMem 4 0) + 8 ≤ 65536 ∧ Serves (st tMem).mem tMem (winSlot (effAddr tMem 4 0)) 0 ∧
    inWindow (effAddr tMem 5 0) = true ∧ winOff (effAddr tMem 5 0) + 8 = 65536 ∧ Serves (st tMem).mem tMem (winSlot (effAddr tMem 5 0)) 3 := by
  unfold Runs Serves; decide +kernel
theorem meets_AccessTraps : Runs (sm tMem) 0 tMem ∧ Handles tMem ∧ tMem.busy [1, 3] = false ∧ tMem.busy [1, 6] = false ∧ tMem.busy [1, 7] = false ∧
    tMem.busy [1, 8] = false ∧ tMem.loadFull = false ∧ tMem.seq.stores.countP (fun x => !x.arr) < 16 ∧ tMem.gp 3 = true ∧ tMem.gp 6 = false ∧ tMem.gp 7 = false ∧
    inWindow (effAddr tMem 6 0) ≠ inWindow (effAddr tMem 6 0 + 2 - 1) ∧ 2 ^ 64 < effAddr tMem 7 0 + 2 ∧
    (tMem.gp 8 = false ∧ effAddr tMem 8 0 + 8 ≤ 2 ^ 64 ∧ inWindow (effAddr tMem 8 0) = true ∧ (tMem.slot (winSlot (effAddr tMem 8 0))).bank = none) ∧
    amoLegal 5 0 = false ∧ amoLegal 0 1 = false ∧ (amoLegal 4 5 = true ∧ (sm tMem).aopIn tMem 24 = true) ∧
    ({ sm tMem with insts := [(0, { i0 with aopset := 0 })] } : State).aopIn tMem 0 = false ∧ tMem.busy [0, 3, 9] = false ∧
    inWindow (tMem.g 4).toNat = true ∧ (tMem.g 7).toNat % (32 / 8) ≠ 0 := by
  unfold Runs Handles; decide +kernel

/-- A load of the last byte of a bank, and a store of a poisoned and a plain byte there. -/
def pRep : Part := ⟨win 0 65535, 1, .bank 0 65535, false, false, false, false, false, []⟩
def aRep : Acc := ⟨7, 5, 31, win 0 65535, .load 1 true, [pRep], false, false⟩
def tRep : Strand := t0.mapSeq (fun q => { q with loads := [aRep], seq := 9, nextId := 9 })
def pPut : Part := ⟨win 0 65534, 2, .bank 0 65534, false, false, false, false, false, [(9, true), (8, false)]⟩
def xPut : Store := ⟨8, 5, false, win 0 65534, [pPut], false⟩
def tPut : Strand := t0.mapSeq (fun q => { q with stores := [xPut], seq := 9, nextId := 9 })
theorem meets_LoadReplyStorePerform :
    (Runs (ag (st tRep) 0 7 0) 0 tRep ∧ tRep.seq.loads.find? (fun x => decide (x.id = (ag (st tRep) 0 7 0).agent.b)) = some aRep ∧
      aRep.kind = .load 1 true ∧ aRep.rc = false ∧ aRep.parts = [pRep] ∧ pRep.place = .bank 0 65535 ∧ pRep.n = 1 ∧ pRep.done = false ∧
      tRep.blocked aRep.seq false pRep = false ∧ tblGet 0 tRep.seq.glat (BitVec.ofNat 5 aRep.dest).toNat = 0) ∧
    (Runs (st tPut) 0 tPut ∧ tPut.seq.stores[(st tPut).agent.b]? = some xPut ∧ xPut.rc = false ∧ xPut.parts = [pPut] ∧ pPut.done = false ∧
      pPut.place = .bank 0 65534 ∧ 65534 + pPut.data.length = 65536 ∧ tPut.blocked xPut.seq xPut.arr pPut = false) := by unfold Runs; decide +kernel

def tRel : Strand := t0.setWait (.release 3)
def sRel : State := { st tRel with mem := { Mem.reset with rel := [⟨0, 4, [1]⟩, ⟨1, 3, [1]⟩] } }
theorem meets_FenceResult :
    (Runs (st t0) 0 t0 ∧ fenceLegal 2 5 31 = true ∧ t0.seq.wait = .none ∧ t0.performedAll (dieOfSn 0) 5 t0.seq.seq 31 = true ∧ (st t0).canRelease 0 t0 = true) ∧
    (Runs sRel 0 tRel ∧ fenceLegal 2 0 1 = true ∧ tRel.seq.wait = .release 3 ∧ (∀ r ∈ sRel.mem.rel, r.sn = 0 → r.seq ≠ 3)) ∧
    (fenceLegal 1 2 1 = true ∧ (1#5).getLsbD 0 = true ∧ t0.readsDone (dieOfSn 0) t0.seq.seq 1 = true) ∧ Handles t0 ∧
    (fencexLegal 2 1 5 = true ∧ (1#5).getLsbD 0 = true ∧ t0.performedAll (dieOfSn 0) 5 t0.seq.seq 2 = true ∧ (2#5) ≠ 1) ∧
    (fencexLegal 1 2 0 = true ∧ (2#5).getLsbD 0 = false) := by unfold Runs Handles; decide +kernel
def tLoop : Strand := { t0 with arr := { t0.arr with st := .flush } }
theorem meets_HaltResult : (Runs (st tLoop) 0 tLoop ∧ Handles tLoop ∧ tLoop.arr.st ≠ .idle) ∧
    (Runs (st t0) 0 t0 ∧ t0.arr.st = .idle ∧ t0.seq.wait = .none ∧ t0.quiet = true ∧ (st t0).canRelease 0 t0 = true) ∧
    (Runs sRel 0 tRel ∧ tRel.arr.st = .idle ∧ tRel.seq.wait = .release 3 ∧ (∀ r ∈ sRel.mem.rel, r.sn = 0 → r.seq ≠ 3)) := by unfold Runs Handles; decide +kernel

/-- A returning atomic and a reduction on page 1. -/
def tAmo : Strand := sg t0 [(4, pv 1 + 8), (5, 16), (3, 1)]
def onPage (f : Leaf → Bool) : Bool := match m0.page 0 0 (pv 1 + 8) .rw with | (.ok l, _) => f l | _ => false
theorem meets_AtomicIssues : Runs (sm tAmo) 0 tAmo ∧ tAmo.busy [3, 4, 5] = false ∧ tAmo.anyPois [3, 4, 5] = false ∧ tAmo.anyPois [0, 4, 5] = false ∧
    amoLegal 1 5 = true ∧ amoLegal 0 0 = true ∧ (1#3).toNat < 2 ∧ tAmo.seq.wait = .none ∧ ((sm tAmo).aopIn tAmo 0 = true ∧ (sm tAmo).aopIn tAmo 24 = true) ∧
    inWindow (tAmo.g 4).toNat = false ∧ (tAmo.g 4).toNat % (64 / 8) = 0 ∧ tAmo.loadFull = false ∧ tAmo.seq.reds.length < 64 ∧ (tAmo.g 4).toNat = pv 1 + 8 ∧
    onPage (fun l => !l.rc && !l.sco && !(l.place (pv 1 + 8)).remote (dieOfSn 0)) = true := by unfold Runs; decide +kernel
def aAmo : Atom := ⟨.add, 64, 2 ^ 64 - 1, true, 0, false, false, none, false, false⟩
def pAmo : Part := ⟨pv 1 + 8, 8, .frame 0x21008, false, false, false, false, false, []⟩
def xAmo : Acc := ⟨16, 0, 3, pv 1 + 8, .atom aAmo false 0 false 0 false, [pAmo], false, false⟩
def tUpd : Strand := t0.mapSeq (fun q => { q with loads := [xAmo], gpend := [(3, true)], seq := 2, nextId := 17 })
def sUpd : State := ag { st tUpd with mem := m0.putWords 0x21008 8 5 } 0 16 0
def aRed : Atom := { aAmo with b := 1 }
def xRpl : Acc := ⟨16, 0, 3, pv 1, .atom aRed true 0x55AA true 0x21 false, [], false, false⟩
def tRpl : Strand := t0.mapSeq (fun q => { q with loads := [xRpl], gpend := [(3, true)], seq := 2, nextId := 17 })
theorem meets_AtomicUpdate :
    (aAmo.w = 64 ∧ (pbOf 8 5 true).length = aAmo.w / 8 ∧ aAmo.b < 2 ^ aAmo.w ∧ aAmo.e < 2 ^ aAmo.w) ∧
    (Runs sUpd 0 tUpd ∧ tUpd.findAny sUpd.agent.b = some xAmo ∧ xAmo.parts = [pAmo] ∧ pAmo.place = .frame 0x21008 ∧ xAmo.rc = false ∧ aAmo.redir = none ∧
      tUpd.atomBlocked xAmo = false ∧ tUpd.barred (dieOfSn 0) xAmo.seq 3 = false ∧
      (match sUpd.mem.physAcc (tUpd.who 0 3 false xAmo.id) .atomic 0x21008 8 aAmo.apply with | .ok r _ => r.passed.isNone | _ => false) = true) ∧
    (Runs (ag (st tRpl) 0 16 0) 0 tRpl ∧ tRpl.findAny 16 = some xRpl ∧ xRpl.rc = false ∧ xRpl.ack = false ∧ aRed.red = false ∧
      tblGet 0 tRpl.seq.glat (BitVec.ofNat 5 xRpl.dest).toNat = 0 ∧ aRed.w = 64) := by unfold Runs; decide +kernel

/-- A memory that holds the line of 0x21000, after one read brought it in. -/
def mHit : Mem := match m0.physAcc ⟨0, 0, 0, 0, false, false, 0⟩ .read 0x21008 8 id with | .ok _ m => m | _ => m0
theorem meets_SliceHit : (mHit.lines.map (fun l => (l.slice, l.set, l.way))).Nodup ∧ LineWays mHit ∧ mHit.setHeld (homeOfPa 0x2107C) (setOf (0x2107C / 128)) = false ∧
    mHit.keyBars 0 0x2107C = false ∧ mHit.moveHolds 0x2107C = false ∧ (∀ u ∈ mHit.unclr, u.2 ≠ 0x2107C / 65536 * 65536) ∧
    (∀ e ∈ mHit.edge, e.pa / 128 ≠ 0x2107C / 128) ∧
    (match mHit.findLine (homeOfPa 0x2107C) (0x2107C / 128) with | some l => decide (l.data.length = 128) | none => false) = true ∧ 0x2107C % 128 + 4 = 128 := by
  unfold LineWays; decide +kernel

/-- A NaN, a number, FTZ on. -/
def tFp : Strand := (sp (sg t0 [(4, 0x7FF8000000000001), (5, 0x3FF0000000000000)]) [5]).mapCtl (fun c => { c with ftz := true, rm := 4 })
theorem meets_FpuResult : Runs (st tFp) 0 tFp ∧ tFp.busy [3, 4] = false ∧ tFp.busy [3, 4, 5] = false ∧ tFp.pend 5 = false ∧ Handles tFp ∧ tFp.seq.ctl.daz = false ∧
    ((7#3).toNat ≠ 5 ∧ (7#3).toNat ≠ 6) ∧ ((5#3).toNat = 5 ∨ (5#3).toNat = 6) ∧ ((6#3).toNat = 5 ∨ (6#3).toNat = 6) ∧ ((4#3).toNat ≠ 5 ∧ (4#3).toNat ≠ 6) ∧
    (FFmt.f64.decode (fpuArg 1 (tFp.g 5))).isNaN = false ∧ (FFmt.f64.decode (fpuArg 1 (tFp.g 4))).isNaN = true ∧
    (FFmt.f32.decode (fpuArg 0 (tFp.g 4))).isNaN = false ∧ FFmt.f64.read false (2047 * 2 ^ 52) = .inf false ∧
    FFmt.f32.read false (511 * 2 ^ 23) = .inf true ∧ FFmt.f64.read false 0 = .fin false 0 (-1074) := by unfold Runs Handles; decide +kernel

/-- An object at the end of slot 2, and addresses that are no object's. -/
def tObj : Strand := sg t0 [(4, win 2 65504), (5, 2 ^ 32 - 1), (6, win 2 65520), (7, pv 1)]
def sObj : State := { st tObj with mem := Mem.reset.putArrObj 2 65504 ⟨2, 1, 7, 1, 2, 3⟩ }
theorem meets_ArrivalResult : Runs sObj 0 tObj ∧ tObj.pend 5 = false ∧ tObj.gp 5 = false ∧ ArrReady sObj tObj 4 2 ∧ 0 < (tObj.g 5).toNat % 2 ^ 32 ∧
    (sObj.mem.arrObj 2 (winOff (tObj.g 4).toNat)).gen ≠ (tObj.g 5).toNat % 2 ^ 16 ∧ tObj.pend 0 = false ∧
    (tObj.pend 6 = false ∧ tObj.gp 6 = false ∧ (tObj.g 6).toNat % 32 ≠ 0 ∧ Handles tObj) ∧ (tObj.pend 7 = false ∧ tObj.gp 7 = false ∧ inWindow (tObj.g 7).toNat = false) ∧
    (tObj.pend 0 = false ∧ tObj.gp 0 = false ∧ (tObj.g 0).toNat % 2 ^ 32 = 0) ∧
    (0 < 2 ∧ 2 < 2 ^ 32 ∧ 1 + 3 + (2 ^ 32 - 5) < 2 ^ 32 ∧ 65535 < 2 ^ 16) := by unfold Runs Handles ArrReady Serves; decide +kernel

/-- A block of one row in slot 2 with KLD, and one whose byte 8 is poisoned. -/
def tCtx : Strand := sg t0 [(4, win 2 0)]
def sCtx : State := { st tCtx with mem := Mem.reset.bankWrite 2 0 (pbOf 8 (1 * 256 + 2048) false) }
def sCtxP : State := { st tCtx with mem := Mem.reset.bankWrite 2 8 [(0, true)] }
/-- The bytes of a block and the state after reading them (R189). -/
def readBlock (s : State) (t : Strand) : Option (List PB × State) :=
  match State.readRun 0 t 1 s (win 2 0) [] with
  | .ok h s1 =>
    (match State.readRun 0 t ((if bitOf (pbNat h) 11 then 64 else 0) + 16 * (pbNat h % 64 + 1)) s1 (win 2 0 + 8) h with
     | .ok data s2 => if s2 = s1 then some (data, s1) else none
     | .stop _ => none)
  | .stop _ => none
theorem meets_CtxldResult : Runs sCtx 0 tCtx ∧ tCtx.pend 4 = false ∧ tCtx.gp 4 = false ∧ tCtx.arr.st = .idle ∧ (tCtx.g 4).toNat = win 2 0 ∧
    (match readBlock sCtx tCtx with
     | some (data, s1) => decide (s1.strand? 0 = some tCtx) && !pbPois data && !tCtx.hdrBad (CtxBlock.of (pbBytes data)).hdr &&
        (firstBad tCtx.allot.nrg tCtx.allot.tkn (hdrIi (CtxBlock.of (pbBytes data)).hdr) (CtxBlock.of (pbBytes data)).words).isNone
     | none => false) = true ∧
    Runs sCtxP 0 tCtx ∧ Handles tCtx ∧
    (match readBlock sCtxP tCtx with
     | some (data, s1) => decide (s1.strand? 0 = some tCtx) && decide ((data.map (·.2)).idxOf? true = some 8)
     | none => false) = true := by unfold Runs Handles; decide +kernel

/-- A loop that runs, with a block waiting in the shadow and with none; blocks with a reserved bit, a reserved function at PE 15's word, and words of `fdiv`
that together with the running ones exceed the flight registers. -/
def cwPe (p w : Nat) (t : Strand) : Strand :=
  t.mapArrX (fun a => { a with pes := a.pes.set p { (t.pe p) with cw := tblPut 0 (t.pe p).cw 2 w } })
def tLr (w : Nat) : Strand := cwPe 15 w { tCtx with arr := { tCtx.arr with st := .run, lslot := 1, ii := 1, nstg := 2, ent := 2 } }
def tLs : Strand := { tLr 0 with arr := { (tLr 0).arr with shadow := some ⟨0, none, []⟩ } }
def sBl (t : Strand) (h w : Nat) : State := { st t with mem := (Mem.reset.bankWrite 2 0 (pbOf 8 h false)).bankWrite 2 128 (pbOf 8 w false) }
def blockOk (s : State) (t : Strand) (f : CtxBlock → Bool) : Bool :=
  match readBlock s t with
  | some (data, s1) => decide (s1.strand? 0 = some t) && !pbPois data && f (CtxBlock.of (pbBytes data))
  | none => false
def noneBad (t : Strand) (b : CtxBlock) : Bool := !t.hdrBad b.hdr && (firstBad t.allot.nrg t.allot.tkn (hdrIi b.hdr) b.words).isNone
theorem meets_CtxldResult_running : (Runs (st tLs) 0 tLs ∧ tLs.pend 4 = false ∧ tLs.gp 4 = false ∧ tLs.arr.st ≠ .idle ∧ tLs.arr.shadow ≠ none) ∧
    (Runs (sBl (tLr 0) 0x12100 0) 0 (tLr 0) ∧ (tLr 0).arr.st ≠ .idle ∧ (tLr 0).arr.shadow = none ∧
      blockOk (sBl (tLr 0) 0x12100 0) (tLr 0) (fun b => noneBad (tLr 0) b && decide ((tLr 0).shadowPeak b = none)) = true) ∧
    (Runs (sBl (tLr (0x26 * 2 ^ 34)) 0x22100 0) 0 (tLr (0x26 * 2 ^ 34)) ∧ Handles (tLr (0x26 * 2 ^ 34)) ∧
      blockOk (sBl (tLr (0x26 * 2 ^ 34)) 0x22100 (0x26 * 2 ^ 34)) (tLr (0x26 * 2 ^ 34))
        (fun b => noneBad (tLr (0x26 * 2 ^ 34)) b && decide ((tLr (0x26 * 2 ^ 34)).shadowPeak b = some 15)) = true) ∧
    blockOk (sBl tCtx (2 ^ 22) 0) tCtx (fun b => tCtx.hdrBad b.hdr) = true ∧
    blockOk (sBl tCtx 0x100 (0x3E * 2 ^ 34)) tCtx (fun b => !tCtx.hdrBad b.hdr && decide (firstBad tCtx.allot.nrg tCtx.allot.tkn (hdrIi b.hdr) b.words = some 15)) = true := by
  unfold Runs Handles; decide +kernel

def tGo : Strand := sg { t0 with arrx := { t0.arrx with hdrs := [(0, some (3 + 1 * 256 + 2 * 65536))] } } [(4, 2 ^ 32 - 1), (5, 0xF00)]
def tFew : Strand := { t0 with allot := { t0.allot with tkn := 15 } }
def tRun : Strand := sg { tGo with arr := { tGo.arr with st := .drain } } [(4, 3), (5, 0)]
theorem meets_LoopResult : (Runs (st tGo) 0 tGo ∧ tGo.busy [4, 5] = false ∧ tGo.gp 4 = false ∧ tGo.gp 5 = false ∧ bitsOf (tGo.g 5).toNat 8 4 < tGo.allot.tkn ∧
      bitOf (tGo.g 5).toNat 3 = false ∧ tGo.startBad (tGo.g 4).toNat (tGo.g 5).toNat = none ∧
      tblGet none tGo.arrx.hdrs (bitsOf (tGo.g 5).toNat 0 3) = some (3 + 1 * 256 + 2 * 65536)) ∧
    (Runs (st tRun) 0 tRun ∧ tRun.busy [4, 5] = false ∧ tRun.gp 4 = false ∧ tRun.gp 5 = false ∧ bitsOf (tRun.g 5).toNat 8 4 < tRun.allot.tkn ∧
      bitOf (tRun.g 5).toNat 3 = false ∧ tRun.arr.st ≠ .idle ∧ Handles tRun ∧ tRun.pend 31 = false) ∧ tGo.arr.st = .idle := by unfold Runs Handles; decide +kernel
/-- The start's failures: a header slot never loaded, a trip count of 33 bits, a control word of 13, a stage past NSTG at PE 15's last word, nine results in
flight on PE 15, a channel outside the allotment; and a start with SEN = 1. -/
def tGs (l : List (Nat × Nat)) : Strand := sg tGo l
theorem meets_LoopResult_starts :
    ((tGs [(5, 0xFF8)]).startBad ((tGs [(5, 0xFF8)]).g 4).toNat ((tGs [(5, 0xFF8)]).g 5).toNat = none ∧ bitOf ((tGs [(5, 0xFF8)]).g 5).toNat 3 = true ∧
      bitsOf ((tGs [(5, 0xFF8)]).g 5).toNat 4 4 < (tGs [(5, 0xFF8)]).allot.tkn ∧ Runs (st (tGs [(5, 0xFF8)])) 0 (tGs [(5, 0xFF8)])) ∧
    (tGo.arr.st = .idle ∧ Handles tGo ∧ tblGet none (tGs [(5, 0xF07)]).arrx.hdrs (bitsOf ((tGs [(5, 0xF07)]).g 5).toNat 0 3) = none) ∧
    (2 ^ 32 ≤ ((tGs [(4, 2 ^ 32)]).g 4).toNat ∧ 2 ^ 12 ≤ ((tGs [(5, 2 ^ 12)]).g 5).toNat ∧ tblGet none (tGs [(5, 2 ^ 12)]).arrx.hdrs (bitsOf ((tGs [(5, 2 ^ 12)]).g 5).toNat 0 3) = some 0x20103) ∧
    (bitsOf 0x20103 8 3 + 1 ≤ ((cwPe 15 (2 * 2 ^ 31) tGo).cwAt 15 (bitsOf 0x20103 16 6 + 0)).stg ∧ (tGo.g 4).toNat < 2 ^ 32 ∧ (tGo.g 5).toNat < 2 ^ 12 ∧
      ∀ q < 16, ∀ d < bitsOf 0x20103 0 6 + 1, (q < 15 ∨ q = 15 ∧ d < 0) → ((cwPe 15 (2 * 2 ^ 31) tGo).cwAt q (bitsOf 0x20103 16 6 + d)).stg < bitsOf 0x20103 8 3 + 1) := by
  unfold Runs Handles; decide +kernel
def tNine : Strand := cwPe 15 (0x26 * 2 ^ 34) { tGo with arrx := { tGo.arrx with hdrs := [(0, some 0x20100)] } }
theorem meets_LoopResult_flight : 8 < inFlight (tNine.column 15 (bitsOf 0x20100 16 6) (bitsOf 0x20100 0 6 + 1)) ∧
    (∀ q < 15, inFlight (tNine.column q (bitsOf 0x20100 16 6) (bitsOf 0x20100 0 6 + 1)) ≤ 8) ∧
    (∀ q < 16, ∀ d < bitsOf 0x20100 0 6 + 1, (tNine.cwAt q (bitsOf 0x20100 16 6 + d)).stg < bitsOf 0x20100 8 3 + 1) ∧
    tNine.arr.st = .idle ∧ tblGet none tNine.arrx.hdrs (bitsOf (tNine.g 5).toNat 0 3) = some 0x20100 ∧ Handles tNine ∧
    (tFew.allot.tkn ≤ bitsOf (tGo.g 5).toNat 8 4 ∧ bitOf ((tGs [(5, 0xF8)]).g 5).toNat 3 = true ∧ tFew.allot.tkn ≤ bitsOf ((tGs [(5, 0xF8)]).g 5).toNat 4 4) := by
  unfold Handles; decide +kernel

/-- Tokens: to the position (1, 1), to a subgroup, the channel 15 set, and a strand of 15 channels. -/
def tTok : Strand := { sg t0 [(4, 0x101), (5, 0)] with tok := 0xFFFF }
def sArr : State := ag { st t0 with strands := [(0, t0), (4, { t0 with lin := 1 })], toks := [⟨0, 0, 0, 3⟩, ⟨0, 0, 1, 15⟩] } 1 0 0
theorem meets_TokenResult : (Runs (st tTok) 0 tTok ∧ tTok.pend 4 = false ∧ tTok.gp 4 = false ∧ tTok.pend 5 = false ∧ tTok.gp 5 = false ∧ (15#4).toNat < tTok.allot.tkn ∧
      (tTok.g 4).toNat < 2 ^ 16 ∧ (tTok.g 4).toNat % 256 < ((st tTok).instOf tTok.kinst).w ∧ (tTok.g 4).toNat / 256 < ((st tTok).instOf tTok.kinst).h ∧
      Nat.land (tTok.g 5).toNat (2 ^ 64 - 1 - 0x7F37) = 0 ∧
      (((st tTok).instOf tTok.kinst).subgroup (bitsOf (tTok.g 5).toNat 0 3) (bitsOf (tTok.g 5).toNat 4 2) (bitsOf (tTok.g 5).toNat 8 7)).isSome = true ∧
      tTok.tok.testBit 15 = true ∧ tTok.pend 3 = false) ∧
    (Runs (st tFew) 0 tFew ∧ tFew.allot.tkn ≤ (15#4).toNat ∧ Handles tFew) ∧
    (sArr.toks[sArr.agent.a]? = some ⟨0, 0, 1, 15⟩ ∧ (∀ y ∈ sArr.toks.take sArr.agent.a, y ≠ ⟨0, 0, 1, 15⟩) ∧ sArr.snOf 0 1 = some 4 ∧
      sArr.strand? 4 = some { t0 with lin := 1 } ∧ 15 < t0.allot.tkn) := by unfold Runs Handles; decide +kernel

def tDr (i c : Nat) : Strand := (t0.setWait (.drain i c)).mapSeq (fun q => { q with slots := q.slots.set i { (t0.slot i) with draining := true } })
def tZero : Strand := t0.mapSeq (fun q => { q with slots := q.slots.set 2 { (t0.slot 2) with draining := true, zero := true } })
theorem meets_BankModeResult : (Runs (st t0) 0 t0 ∧ t0.seq.wait = .none ∧ t0.slotFixed (st t0).mem 0 = false ∧ t0.slotFixed (st t0).mem 1 = false ∧
      (t0.slot 0).zero = false ∧ (t0.slot 1).zero = false ∧ 1 < t0.allot.nsl ∧ t0.seq.slots.length = 16 ∧ (t0.slot 1).l1 = true ∧ (t0.slot 0).l1 = false) ∧
    (Runs (st (tDr 1 2)) 0 (tDr 1 2) ∧ (tDr 1 2).seq.wait = .drain 1 2 ∧ (tDr 1 2).run = .running ∧ (tDr 1 2).drained 1 = true ∧ 1 < (tDr 1 2).allot.nsl ∧
      (tDr 1 2).seq.slots.length = 16 ∧ ((tDr 1 2).slot 1).bank = some 1) ∧
    ((tDr 0 1).seq.wait = .drain 0 1 ∧ (tDr 0 1).drained 0 = true ∧ ((tDr 0 1).slot 0).bank = some 0) ∧
    (Runs (ag (st tZero) 0 2 0) 0 tZero ∧ (tZero.slot (ag (st tZero) 0 2 0).agent.b).zero = true ∧ tZero.seq.slots.length = 16) := by unfold Runs; decide +kernel

/-- A `give` to the core's own position, one of an empty slot, and the bank on its way to strand 4. -/
def tGive : Strand := sg t0 [(4, 0x502), (5, win 2 64), (6, 7), (7, win 5 32)]
def tAtt : Strand := t0.setWait (.attach 2 1 0x512 (win 5 32))
def uAtt : Strand := { t0 with lin := 1 }
def sAtt : State := { st tAtt with strands := [(0, tAtt), (4, uAtt)] }
theorem meets_GiveResult : (Runs (st tGive) 0 tGive ∧ tGive.busy [4, 5] = false ∧ tGive.gp 4 = false ∧ tGive.gp 5 = false ∧ tGive.seq.wait = .none ∧
      bitsOf (tGive.g 4).toNat 12 52 = 0 ∧ arrAligned (tGive.g 5).toNat = true ∧ tGive.slotFixed (st tGive).mem (bitsOf (tGive.g 4).toNat 0 4) = false ∧
      (tGive.slot (bitsOf (tGive.g 4).toNat 0 4)).l1 = false ∧ (tGive.slot (bitsOf (tGive.g 4).toNat 0 4)).zero = false ∧
      (((st tGive).instOf tGive.kinst).linOf (giveCore 0 (tGive.g 4).toNat)).isSome = true) ∧
    (tGive.busy [6, 7] = false ∧ bitsOf (tGive.g 6).toNat 12 52 = 0 ∧ arrAligned (tGive.g 7).toNat = true ∧ (tGive.slot (bitsOf (tGive.g 6).toNat 0 4)).bank = none ∧
      Handles tGive) ∧
    (Runs sAtt 0 tAtt ∧ tAtt.seq.wait = .attach 2 1 0x512 (win 5 32) ∧ tAtt.run = .running ∧ sAtt.relDone 0 1 = true ∧
      (sAtt.instOf tAtt.kinst).linOf (giveCore 0 0x512) = some 1 ∧ sAtt.snOf tAtt.kinst 1 = some 4 ∧ sAtt.strand? 4 = some uAtt ∧ uAtt.run = .running ∧
      bitsOf 0x512 8 4 < uAtt.allot.nsl ∧ uAtt.seq.slots.length = 16 ∧ tAtt.seq.slots.length = 16 ∧ 2 < tAtt.allot.nsl ∧ (uAtt.slot (bitsOf 0x512 8 4)).bank = none ∧
      (tAtt.slot 2).bank = some 2 ∧ winSlot (win 5 32) = bitsOf 0x512 8 4 ∧ sAtt.mem.bankLocked 2 = false ∧
      winSlot (win 2 64) ≠ bitsOf 0x512 8 4 ∧ sAtt.mem.openSlot uAtt (winSlot (win 2 64)) = some 2) := by unfold Runs Handles; decide +kernel

/-- A ring of four tiles in slot 2, half full; strands with rings 7 and 15. -/
def ring0 : Ring := ⟨true, 2, 0, 2, 4, 8, false, 0, false, 0, 0, 2, 0, []⟩
def wr (t : Strand) (l : List (Nat × Ring)) : Strand := { t with str := { t.str with rings := l } }
def tRg : Strand := wr t0 [(0, { ring0 with tail := 4 }), (7, { ring0 with tail := 0 }), (14, { ring0 with live := false }), (15, ring0)]
def tNrg : Strand := { t0 with allot := { t0.allot with nrg := 3 } }
def tLd : Strand := sg t0 [(4, win 2 65520)]
def sLd (w : Nat) : State := { st tLd with mem := Mem.reset.bankWrite 2 65520 (pbOf 16 w false) }
/-- Whether the descriptor read at the base is the one given, unpoisoned, with the strand as it was. -/
def readRing (s : State) (t : Strand) (ok : Nat → Bool) : Bool :=
  match State.readRun 0 t 2 s (t.g 4).toNat [] with
  | .ok data s1 => decide (s1.strand? 0 = some t) && !pbPois data && ok (pbNat data)
  | .stop _ => false
theorem meets_RingResult_ops : Runs (st tRg) 0 tRg ∧ (15#4).toNat < tRg.allot.nrg ∧ Handles tRg ∧ tRg.windowStores = false ∧ tRg.loadsUndone = false ∧ tRg.pend 31 = false ∧
    ((tRg.ring 15).live = true ∧ (tRg.ring 15).full = false ∧ (tRg.ring 15).held ≠ 0 ∧ (st tRg).ringUsed 0 tRg 15 = false ∧ (tRg.ring 15).resv = []) ∧
    ((tRg.ring 14).live = false) ∧ ((tRg.ring 0).live = true ∧ (tRg.ring 0).full = true) ∧ ((tRg.ring 7).live = true ∧ (tRg.ring 7).held = 0) ∧
    (Runs (st tNrg) 0 tNrg ∧ tNrg.allot.nrg ≤ (3#4).toNat ∧ Handles tNrg) := by unfold Runs Handles; decide +kernel
theorem meets_RingResult_descriptors : Runs (sLd ring0.word) 0 tLd ∧ (7#4).toNat < tLd.allot.nrg ∧ tLd.pend 4 = false ∧ tLd.gp 4 = false ∧
    (sLd ring0.word).ringUsed 0 tLd 7 = false ∧ readRing (sLd ring0.word) tLd (fun w => ringAccepts 16 7 w) = true ∧
    Runs (sLd (ring0.word + 2 ^ 127)) 0 tLd ∧ Handles tLd ∧ (sLd (ring0.word + 2 ^ 127)).ringUsed 0 tLd 7 = false ∧
    readRing (sLd (ring0.word + 2 ^ 127)) tLd (fun w => !ringAccepts 16 7 w) = true ∧
    tLd.seq.stores.countP (fun x => !x.arr) < 15 ∧ tLd.seq.ctl.ackcnt ≤ 1024 ∧ inWindow (tLd.g 4).toNat = true ∧ winOff (tLd.g 4).toNat + 16 ≤ 65536 ∧
    Serves (sLd ring0.word).mem tLd (winSlot (tLd.g 4).toNat) 2 := by unfold Runs Handles Serves; decide +kernel

/-- Ranges: empty, not of whole lines, one line; a page that is pin-eligible and one that is not. -/
def tCa : Strand := sg t0 [(4, pv 1), (5, 128), (6, 127), (7, pv 6 + 8), (8, pv 1 + 64)]
/-- The line of page 1, dirty. -/
def mDirt : Mem := match m0.physAcc (ownWho 0) .write 0x21008 8 (fun _ => pbOf 8 77 false) with | .ok _ m => { m with lines := m.lines.filter (fun l => l.name = 0x21000 / 128) } | _ => m0
theorem meets_CacheResult_dirty : LineWays mDirt ∧ mDirt.edge = [] ∧
    (match Mem.rangeCheck 0 0 .r true (pv 1) mDirt (rangePages (pv 1) 128) with
      | (.ok ls, m) => decide (ls.length = 1) && m.edge.isEmpty && m.lines.all (fun j => decide (j.data.length = 128)) && ls.all (fun x => match m.frameOf 0 x.1 x.2.1 with
        | some pa => m.lines.any (fun k => !k.unb && k.dirty && decide (pa ≤ 128 * k.name ∧ 128 * k.name < pa + x.2.2) &&
            m.lines.all (fun j => j.unb || decide (j.name ≠ k.name) || decide (j = k)) && [0, 1].all (fun h => !m.offline (128 * k.name + 64 * h) && (m.keysAt (128 * k.name + 64 * h)).isEmpty))
        | none => false)
      | _ => false) = true := by unfold LineWays; decide +kernel
def framesOf (ls : List (Leaf × Nat × Nat)) (m : Mem) : List (Nat × Nat) := ls.filterMap (fun x => (m.frameOf 0 x.1 x.2.1).map (fun pa => (pa, x.2.2)))
theorem meets_CacheResult : Runs (sm tCa) 0 tCa ∧ Handles tCa ∧ tCa.busy [4, 0] = false ∧ tCa.gp 4 = false ∧ tCa.gp 0 = false ∧ (tCa.g 0).toNat = 0 ∧
    (tCa.busy [4, 6] = false ∧ tCa.gp 6 = false ∧ (tCa.g 6).toNat ≠ 0 ∧ (tCa.g 6).toNat % 128 ≠ 0) ∧
    (tCa.busy [8, 5] = false ∧ tCa.gp 8 = false ∧ tCa.gp 5 = false ∧ (tCa.g 5).toNat ≠ 0 ∧ (tCa.g 8).toNat % 128 ≠ 0) ∧
    (tCa.busy [3, 7] = false ∧ tCa.gp 7 = false ∧ inWindow (tCa.g 7).toNat = false ∧ tCa.loadFull = false ∧
      (match m0.page 0 0 (tCa.g 7).toNat .r with | (.ok l, _) => l.pinEl && !l.ub && decide (l.loc = 0) | _ => false) = true ∧
      (match m0.page 0 0 (tCa.g 4).toNat .r with | (.ok l, _) => !l.pinEl | _ => false) = true) ∧
    (tCa.busy [4, 5] = false ∧ rangeOk (tCa.g 4).toNat (tCa.g 5).toNat = true ∧ tCa.barred (dieOfSn 0) tCa.seq.seq 3 = false ∧
      (sm tCa).admits 0 = true ∧
      (match Mem.rangeCheck 0 0 .w false (pv 1) mHit (rangePages (pv 1) 128) with | (.ok ls, m) => !tCa.atBehind ls && !m.rangeHeld 0 ls && !m.framesHeld false (framesOf ls m) | _ => false) = true ∧
      (match Mem.rangeCheck 0 0 .r true (pv 1) mHit (rangePages (pv 1) 128) with | (.ok ls, m) => !tCa.atBehind ls && !m.rangeHeld 0 ls && decide (m.lines ≠ []) && !m.framesHeld true (framesOf ls m) | _ => false) = true) := by
  unfold Runs Handles; decide +kernel

/-- Handles 31 and 32, a receive the spec allows and one it does not. -/
def tPo : Strand :=
  (fun t => { t with str := { t.str with posts := [⟨5, 0, 0, 0, 0, none, 4⟩], ovfs := [⟨0, 3, 3, 9, []⟩] } }) (sg t0 [(4, 31), (5, 2 ^ 49 * 4), (6, 32), (7, 0), (8, 5)])
theorem meets_PostResult : Runs (st tPo) 0 tPo ∧ Handles tPo ∧ tPo.busy [3, 4, 5] = false ∧ tPo.busy [3, 6, 7] = false ∧ tPo.gp 4 = false ∧ tPo.gp 5 = false ∧
    tPo.gp 6 = false ∧ tPo.gp 7 = false ∧ (tPo.g 4).toNat < 32 ∧ 32 ≤ (tPo.g 6).toNat ∧ recvOf (tPo.g 7).toNat (tPo.g 7).toNat = none ∧
    (match recvOf (tPo.g 7).toNat (tPo.g 5).toNat with | some r => tPo.str.ovfs.all (fun o => !r.matches o.sx o.sy o.tag) | none => false) = true ∧
    (((st tPo).onCore (coreOfSn 0)).map (fun v => v.str.posts.length)).sum < 32 ∧ tPo.str.posts.length < 32 := by unfold Runs Handles; decide +kernel

/-- What is on its way to strand 4: a chunk to the end of slot 2, a message, a refused chunk and a refused value at and before their time. -/
def u4 : Strand := { t0 with lin := 1 }
def ch0 : Chunk := ⟨0, 0, 16, 1, 65536 * 2 + 65528, pbOf 8 7 true, 0, 0, none⟩
def ms0 : Msg := ⟨0, 3, 16, 1, 65535, pbOf 8 7 true, none⟩
def rd0 : Redir := ⟨0, 1, 0, 65536 * 2 + 8, 64, 7, true, 65536 * 3 + 32, 5, none⟩
def sWay0 : State := { st t0 with strands := [(0, t0), (4, u4)], redirs := [{ rd0 with slice := 4 }, rd0], clock := 256, mem := Mem.reset.putArrObj 3 32 ⟨1, 0, 0, 0, 0, 0⟩ }
def sWay : State := ag { sWay0 with chunks := [{ ch0 with tlin := 0 }, ch0], msgs := [{ ms0 with tlin := 0 }, ms0] } 1 0 0
def sRetry : State := { sWay with chunks := [ch0, { ch0 with retry := some 256 }], redirs := [rd0, { rd0 with retry := some 257 }] }
def aSend : Acc := ⟨16, 0, 3, 0, .send 0 5, [], false, false⟩
def ms1 : Msg := { ms0 with slin := 0 }
def tAsk : Strand := t0.mapSeq (fun q => { q with loads := [{ aSend with kind := .send 1 4 }], gpend := [(3, true)] })
def sAns : State := { sWay with strands := [(0, tAsk), (4, u4)], msgs := [ms1], agent := ⟨0, 0, 0⟩ }
def tSend : Strand := t0.mapSeq (fun q => { q with loads := [aSend], gpend := [(3, true)] })
theorem meets_ArrivalsFromOthers :
    (sWay.chunks[sWay.agent.a]? = some ch0 ∧ chunkFirst sWay.chunks 1 ch0 = true ∧ sWay.snOf 0 1 = some 4 ∧ sWay.strand? 4 = some u4 ∧ u4.run = .running ∧
      (u4.slot (ch0.off / 65536)).draining = false ∧ ch0.obj = 0 ∧ sWay.mem.openSlot u4 (ch0.off / 65536) = some 2 ∧ ch0.off % 65536 + ch0.data.length = 65536) ∧
    (sWay.msgs[sWay.agent.a]? = some ms0 ∧ msgFirst sWay.msgs 1 ms0 = true ∧ u4.str.posts = [] ∧
      ((sWay.onCore (coreOfSn 4)).map (fun v => v.str.ovfs.length)).sum < 32) ∧
    (sAns.msgs[sAns.agent.a]? = some ms1 ∧ msgFirst sAns.msgs 0 ms1 = true ∧ sAns.snOf 0 1 = some 4 ∧ sAns.strand? 4 = some u4 ∧ sAns.snOf 0 ms1.slin = some 0 ∧
      sAns.strand? 0 = some tAsk ∧ tAsk.seq.loads.find? (fun y => decide (y.id = ms1.acc)) = some { aSend with kind := .send 1 4 }) ∧
    (sRetry.chunks[sRetry.agent.a]? = some { ch0 with retry := some 256 } ∧ sRetry.isSaved 0 0 = false ∧ 256 ≤ sRetry.clock ∧
      sRetry.redirs[sRetry.agent.a]? = some { rd0 with retry := some 257 } ∧ ¬ 257 ≤ sRetry.clock) ∧
    (Runs (ag (st tSend) 0 16 0) 0 tSend ∧ tSend.seq.loads.find? (fun x => decide (x.id = 16)) = some aSend ∧ aSend.kind = .send 0 5 ∧
      tblGet 0 tSend.seq.glat (BitVec.ofNat 5 aSend.dest).toNat = 0) := by unfold Runs; decide +kernel
def uHalt : Strand := { u4 with run := .halted .save }
def aHost : Atom := ⟨.add, 32, 1, false, 0, false, true, none, false, false⟩
def xHost : Acc := ⟨16, 0, 3, pv 5, .atom aHost false 0 false 0 false, [⟨pv 5, 4, .fwd 1 0x5000 (pv 5), false, false, false, false, false, []⟩], false, false⟩
def tHost : Strand := t0.mapSeq (fun q => { q with loads := [xHost], gpend := [(3, true)], seq := 2, nextId := 17 })
def sHost : State := ag { st tHost with hostOps := [⟨4, 16, 0⟩, ⟨0, 16, 5⟩] } 1 0 0
theorem meets_RedirectHostAtomic :
    (sWay.redirs[sWay.agent.a]? = some rd0 ∧ redirFirst sWay.redirs 1 rd0 = true ∧ (sWay.inst? 0).isSome = true ∧ sWay.snOf 0 1 = some 4 ∧ sWay.strand? 4 = some u4 ∧
      u4.run = .running ∧ Serves sWay.mem u4 (rd0.dst / 65536) 2 ∧ Serves sWay.mem u4 (rd0.obj / 65536) 3 ∧ (u4.slot 2).zero = false ∧ (u4.slot 3).zero = false) ∧
    uHalt.run ≠ .running ∧
    (sHost.hostOps[1]? = some ⟨0, 16, 5⟩ ∧ sHost.strand? 0 = some tHost ∧ tHost.findAny 16 = some xHost ∧ aHost.redir = none ∧ xHost.parts.length = 1 ∧ sHost.agent.a = 1) := by
  unfold Serves; decide +kernel

/-- A clock at the drain, at the start and at the end of shutter 1, and one before each. -/
def sSh (t : Strand) (clk : Nat) (d b : Bool) : State := { st t with clock := clk, mem := { Mem.reset with shut := ⟨1, d, b, false⟩ } }
def tSh : Strand := sg t0 [(4, 65535), (5, 65536)]
theorem meets_ShutterResult : (Runs (sSh tSh 0 false false) 0 tSh ∧ tSh.busy [3, 4] = false ∧ tSh.gp 4 = false ∧ (tSh.g 4).toNat < 2 ^ 16 ∧ tSh.busy [3, 5] = false ∧
      tSh.gp 5 = false ∧ 2 ^ 16 ≤ (tSh.g 5).toNat ∧ Handles tSh ∧ tSh.seq.wait = .none) ∧
    (Runs (sSh (t0.setWait (.shutter 0)) 0 false false) 0 (t0.setWait (.shutter 0)) ∧ (t0.setWait (.shutter 0)).seq.wait = .shutter 0 ∧ 0 < 1) ∧
    (t0.setWait (.shutter 1)).seq.wait = .shutter 1 ∧
    8190 * 1 ≤ (sSh t0 7938 false false).clock + 252 ∧ (sSh t0 7937 false false).clock + 252 < 8190 * 1 ∧
    (8190 * 1 ≤ (sSh t0 8190 true false).clock ∧ (sSh t0 8190 true false).mem.shut.drained = true) ∧ (sSh t0 8189 true false).clock < 8190 * 1 ∧
    ((sSh t0 8526 true true).mem.shut.begun = true ∧ shutterStart 1 + shutterLen 1 = (sSh t0 8526 true true).clock ∧ (sSh t0 8526 true true).mem.shut.overrun = false) ∧
    8190 * (1 + 1) + shutterLen (1 + 1) ≤ (sSh t0 (8190 * 2 + 336) true true).clock ∧
    (sSh t0 8525 true true).clock < shutterStart (sSh t0 8525 true true).mem.shut.n0 + shutterLen (sSh t0 8525 true true).mem.shut.n0 := by
  unfold Runs Handles; decide +kernel
def sSched : State := { State.reset with schedLoad := some 1536, clock := 1536, cores := [(3, { Core.fresh with pend := some (7, 9) })], agent := ⟨3, 0, 0⟩ }
theorem meets_ScheduleCourse : State.reset.schedLoad = none ∧ sSched.schedLoad = some 1536 ∧ 1536 ≤ sSched.clock ∧ ({ sSched with clock := 1535 } : State).clock < 1536 ∧
    (sSched.core sSched.agent.a).pend = some (7, 9) ∧ sSched.clock % 32 = 0 ∧ ({ sSched with clock := 1535 } : State).clock % 32 ≠ 0 ∧ Firmware (ag State.reset 8 0 3) 3 ∧ Firmware (ag sSched 8 0 3) 3 := by
  unfold Firmware; decide +kernel

/-- An address-generator tile: mode and counter values, a bound one, one that runs, and an allotment of two. -/
def tAg : Strand := sg t0 [(4, 0x1000), (5, 2 * 2 + 1024), (6, 3), (7, 2 ^ 64 - 4)]
def wa (a : Ag) : Strand := { t0 with str := { t0.str with ags := [(3, a)] } }
def tBound : Strand := wa { Ag.off with conf := true, bind := true, pos := 5 }
def tAgRun : Strand := wa { Ag.off with conf := true, run := .token }
def tNag : Strand := { t0 with allot := { t0.allot with nag := 2 } }
theorem meets_AgResult : (Runs (st tAg) 0 tAg ∧ (3#2).toNat < tAg.allot.nag ∧ tAg.busy [4, 5] = false ∧ tAg.gp 4 = false ∧ tAg.gp 5 = false ∧ tAg.busy [6, 7] = false ∧
      (tAg.ag 3).run = .stopped ∧ tAg.agUsed 3 = false ∧ (agMode (tAg.g 4).toNat (tAg.g 5).toNat).isSome = true ∧
      ((tAg.ag 3).counterSet 3 (tAg.g 6).toNat (tAg.g 7).toNat).isSome = true) ∧
    (Runs (st tBound) 0 tBound ∧ (15#4).toNat < tBound.allot.tkn ∧ (tBound.ag 3).conf = true ∧ (tBound.ag 3).bind = true ∧ (tBound.ag 3).run = .stopped) ∧
    (Runs (st tAgRun) 0 tAgRun ∧ (tAgRun.ag 3).run ≠ .stopped) ∧ (Runs (st tNag) 0 tNag ∧ tNag.allot.nag ≤ (2#2).toNat ∧ Handles tNag) := by
  unfold Runs Handles; decide +kernel

/-- Operands of stream commands: an arrival object, the longest copy and the first too long, an index vector, a live ring, a tile. -/
def tStr : Strand :=
  (fun t => { t with str := { t.str with ags := [(3, { Ag.off with conf := true })] } })
    (sg (wr t0 [(15, ring0)]) [(4, win 3 0), (5, pv 1), (6, win 2 32), (7, 2 ^ 32 - 1), (8, 2 ^ 32), (9, win 2 64), (10, 0x101), (11, 65536), (12, 0x101 + 2 ^ 32 * 512)])
theorem meets_StreamIssues : Runs (st tStr) 0 tStr ∧ tStr.busy [4, 5, 6, 7] = false ∧ tStr.anyPois [4, 5, 6, 7] = false ∧ tStr.busy [4, 5, 6, 8] = false ∧
    tStr.busy [10, 9, 0, 11] = false ∧ tStr.anyPois [10, 9, 0, 11] = false ∧ tStr.str.queue.length < 16 ∧ (tStr.g 7).toNat < 2 ^ 32 ∧ 2 ^ 32 ≤ (tStr.g 8).toNat ∧ Handles tStr ∧
    (match (st tStr).mem.arrCheck tStr (tStr.g 6).toNat with | .ok a => decide (a = win 2 32) | _ => false) = true ∧
    (match (st tStr).mem.arrCheck tStr (tStr.g 0).toNat with | .ok a => decide (a = 0) | _ => false) = true ∧
    (gathLegal 6 1024 = true ∧ windowRange (tStr.g 9).toNat (4 * 1024) = true) ∧ cvcopyLegal 0 3 4 = true ∧
    (cvcopyLegal 1 9 4 = true ∧ (15#4).toNat < tStr.allot.nrg ∧ (tStr.ring 15).live = true) ∧
    ((tStr.g 11).toNat ≤ 65536 ∧ (tStr.g 10).toNat < 2 ^ 16 ∧ (tStr.g 10).toNat % 256 < ((st tStr).instOf tStr.kinst).w ∧
      (tStr.g 10).toNat / 256 < ((st tStr).instOf tStr.kinst).h ∧ (0xF0000#20).toNat % 65536 + (tStr.g 11).toNat ≤ 65536 ∧ (tStr.g 0).toNat = 0 ∧
      windowRange (win 2 0) 65536 = true) ∧
    (tStr.pend 0 = false ∧ tStr.gp 0 = false ∧ ringldLegal 0 1 256 = true ∧ (3#2).toNat < tStr.allot.nag ∧ (tStr.ag 3).conf = true ∧ (tStr.ag 3).bind = false ∧
      (tStr.ag 3).run = .stopped ∧ tStr.agRunning 3 = false) ∧
    (tStr.pend 9 = false ∧ tStr.gp 9 = false ∧ tStr.busy [3, 12] = false ∧ tStr.gp 12 = false ∧
      (((st tStr).instOf tStr.kinst).sendTargets (tStr.g 12).toNat).isSome = true ∧ windowRange (tStr.g 9).toNat (bitsOf (tStr.g 12).toNat 32 10) = true) := by
  unfold Runs Handles; decide +kernel

/-- A strand with security privilege, and the key slot 31 in each state. -/
def tSec : Strand := sg { t0 with secp := true } [(4, 31), (5, win 2 65472), (6, 32)]
def sSec (k : Nat) : State :=
  { st tSec with mem := { Mem.reset.bankWrite 2 65472 (pbOf 64 (2 ^ 500 + 7) false) with cfg := cfgPut (cfgPut [] (offKstat 31) k) (offPctx 31) (2 ^ 32), keys := [(31, (1, 2))] } }
theorem meets_SecResult : (Runs (st t0) 0 t0 ∧ Handles t0 ∧ t0.secp = false) ∧
    (Runs (sSec 0) 0 tSec ∧ Handles tSec ∧ tSec.secp = true ∧ tSec.busy [3, 6, 5] = false ∧ tSec.gp 6 = false ∧ tSec.gp 5 = false ∧ 32 ≤ (tSec.g 6).toNat) ∧
    (tSec.busy [3, 4] = false ∧ tSec.gp 4 = false ∧ (tSec.g 4).toNat = 31 ∧ tSec.pend 5 = false ∧ inWindow (tSec.g 5).toNat = true ∧ (tSec.g 5).toNat % 64 = 0 ∧
      Serves (sSec 0).mem tSec (winSlot (tSec.g 5).toNat) 2 ∧ tSec.blocked tSec.seq.seq false (winPart tSec (tSec.g 5).toNat 64 []) = false ∧
      pbPois ((sSec 0).mem.bankRead 2 (winOff (tSec.g 5).toNat) 64) = false) ∧
    (sSec 0).mem.kst 31 = 0 ∧ (sSec 1).mem.kst 31 = 1 ∧ (sSec 2).mem.kst 31 = 2 ∧ 2 ≤ (sSec 3).mem.kst 31 ∧ Runs (sSec 2) 0 tSec ∧ Runs (sSec 1) 0 tSec ∧
    (∀ e ∈ (sSec 2).strands, (sSec 2).mem.keyCore 31 (coreOfSn e.1) = false) ∧ (sSec 2).mem.scrubUnits 31 ≠ [] := by unfold Runs Handles Serves; decide +kernel
/-- The last byte of the descriptor poisoned, an address that is not aligned, a live strand in the slot's context, a context of no unit, a scrub under way. -/
def sSecP : State := { sSec 0 with mem := (sSec 0).mem.bankWrite 2 65535 [(0, true)] }
def sSecU (ctx : Nat) : State := { sSec 2 with mem := { (sSec 2).mem with cfg := cfgPut (sSec 2).mem.cfg (offPctx 31) ctx } }
theorem meets_SecResult_codes : (Runs sSecP 0 tSec ∧ sSecP.mem.kst 31 = 0 ∧ pbPois (sSecP.mem.bankRead 2 (winOff (tSec.g 5).toNat) 64) = true ∧
      Serves sSecP.mem tSec (winSlot (tSec.g 5).toNat) 2) ∧ (tSec.pend 6 = false ∧ tSec.gp 6 = false ∧ (tSec.g 6).toNat % 64 ≠ 0) ∧
    (Runs (sSecU (2 ^ 63)) 0 tSec ∧ (sSecU (2 ^ 63)).mem.kst 31 = 2 ∧ (sSecU (2 ^ 63)).mem.keyCore 31 (coreOfSn 0) = true) ∧
    ((sSecU 0).mem.kst 31 = 2 ∧ (∀ e ∈ (sSecU 0).strands, (sSecU 0).mem.keyCore 31 (coreOfSn e.1) = false) ∧ (sSecU 0).mem.scrubUnits 31 = []) ∧
    ((sSec 3).mem.kst 31 = 3 ∧ Runs (sSec 3) 0 tSec) := by unfold Runs Serves; decide +kernel

/-- Rings of 256 elements of 4 bytes, a repeat count at its greatest, an arrival object; a queue with an entry. -/
def mring (slot : Nat) : Ring := { ring0 with slot := slot, trows := 64, logn := 0, tail := 1 }
def tMx : Strand := sg (wr t0 [(1, mring 2), (2, mring 3)]) [(4, 65535), (5, 9), (6, win 2 65504)]
def eMx : MxEnt := ⟨0, .zero 6 2, 0, 1, 0, none, none, false⟩
def tMxQ : Strand := { t0 with mx := { t0.mx with queue := [eMx] } }
theorem meets_MatrixIssues : Runs (st tMx) 0 tMx ∧ tMx.mx.queue.length < 16 ∧ tMx.mx.queue = [] ∧ Handles tMx ∧ accRangeLegal false 0 7 = true ∧
    ((2#4).toNat < tMx.allot.nrg ∧ accRangeLegal (decide ((3#2) = 3)) 0 3 = true ∧ tMx.pend 6 = false ∧ tMx.gp 6 = false ∧
      (match (st tMx).mem.arrCheck tMx (tMx.g 6).toNat with | .ok a => decide (a = win 2 65504) | _ => false) = true ∧ (tMx.ring 2).live = true ∧
      32 * lfBits 3 ≤ (tMx.ring 2).bytes) ∧
    (mxstLegal 1 0 0 0 0 7 = true ∧ mxstRegsLegal 1 4 5 = true ∧ tMx.busy [4, 5, 6] = false ∧
      tMx.mxRing (.st 2 7 1 0 0 1 none 65535 9 false 0 false false) = none) ∧
    (mxstepLegal 0 0 0 0 2 1 9 = true ∧ tMx.busy [4, 6] = false ∧ tMx.anyPois [4, 6] = false ∧ 1 ≤ (tMx.g 4).toNat ∧ (tMx.g 4).toNat < 65536 ∧
      tMx.mxRing (.step 9 1 2 0 1 0 0 0 0 0 true 65535 false) = none) ∧
    (Runs (st tMxQ) 0 tMxQ ∧ tMxQ.mx.queue ≠ []) ∧ 8 < (1#3).toNat + (7#3).toNat + 1 ∧ (tMx.ring 3).live = false := by unfold Runs Handles; decide +kernel
def mxAt (x : MxEnt) : Strand := { tMx with mx := { t0.mx with queue := [x] } }
def xLd : MxEnt := ⟨0, .ld 2 6 2 0, 0, 7, 0, none, none, false⟩
def xSt : MxEnt := ⟨0, .step 9 1 2 0 1 0 0 0 0 0 true 3 false, 0, 1, 0, none, none, false⟩
theorem meets_MatrixWorks : MatrixAt (st tMxQ) 0 tMxQ eMx [] ∧ eMx.arr = 0 ∧ eMx.done < 2 ∧
    MatrixAt (st (mxAt ⟨0, .mov 3 3 true, 0, 0, 0, none, none, false⟩)) 0 (mxAt ⟨0, .mov 3 3 true, 0, 0, 0, none, none, false⟩) ⟨0, .mov 3 3 true, 0, 0, 0, none, none, false⟩ [] ∧
    (MatrixAt (st (mxAt xLd)) 0 (mxAt xLd) xLd [] ∧ xLd.done + 1 < 2 * 8 ∧ Mem.reset.ringsReach (mxAt xLd) [2] = none) ∧
    (MatrixAt (st (mxAt xSt)) 0 (mxAt xSt) xSt [] ∧ xSt.done + 1 < 3 ∧ (MxStep.of 9 1 2 0 1 0 0 0 0 0 true 3 false).pair = false ∧
      Mem.reset.ringsReach (mxAt xSt) ([1] ++ ((mxAt xSt).scaleRing (MxStep.of 9 1 2 0 1 0 0 0 0 0 true 3 false) (MxStep.of 9 1 2 0 1 0 0 0 0 0 true 3 false).a).toList ++ [2] ++
        ((mxAt xSt).scaleRing (MxStep.of 9 1 2 0 1 0 0 0 0 0 true 3 false) (MxStep.of 9 1 2 0 1 0 0 0 0 0 true 3 false).b).toList) = none) := by
  unfold MatrixAt Runs; decide +kernel

/-- The block of four rows, requests at node 127, a window byte and a byte of a local frame. -/
def nodeBlk : List PB := ((List.range 16).flatMap (fun k => pbOf 8 (k * 1000003) false)) ++
  (([.nscan 0 0 0, .nsum 0 1 0, .nemit 0 1 3, .nend] : List Instr).flatMap (fun i => pbOf 4 ((encode i).headD 0).toNat false)) ++ List.replicate 112 (0, false)
def tNi : Strand := sg t0 [(4, win 2 65280), (5, 127), (6, 128), (7, win 2 128), (8, pv 1 + 4095)]
def nReq : NReq := ⟨0, 16, 0, [0], []⟩
def sNi : State := { sm tNi with mem := m0.bankWrite 2 65280 nodeBlk, nodes := [(127, ⟨List.replicate 15 nReq, none⟩)] }
theorem meets_NodeInstrResult :
    (Runs sNi 0 tNi ∧ tNi.busy [3, 4] = false ∧ tNi.gp 4 = false ∧ tNi.pend 5 = false ∧ tNi.gp 5 = false ∧ (tNi.g 4).toNat % 256 = 0 ∧ (tNi.g 5).toNat < 128 ∧
      inWindow (tNi.g 4).toNat = true ∧ Serves sNi.mem tNi (winSlot (tNi.g 4).toNat) 2 ∧
      (∀ p ∈ winParts tNi (tNi.g 4).toNat 256 [], tNi.blocked tNi.seq.seq false p = false) ∧
      badRow (rowsOf ((pbBytes (sNi.mem.bankRead 2 (winOff (tNi.g 4).toNat) 256)).drop 128)) 0 false = none ∧
      (∀ r ∈ rowRings (liveRows (rowsOf ((pbBytes (sNi.mem.bankRead 2 (winOff (tNi.g 4).toNat) 256)).drop 128))), r < tNi.allot.nrg) ∧ tNi.loadFull = false ∧
      (sNi.node (tNi.g 5).toNat).queue.length < 16 ∧ rowRings (liveRows (rowsOf ((pbBytes nodeBlk).drop 128))) = [3]) ∧
    (Handles tNi ∧ tNi.pend 6 = false ∧ tNi.gp 6 = false ∧ 128 ≤ (tNi.g 6).toNat ∧ tNi.busy [3, 7] = false ∧ tNi.gp 7 = false ∧ (tNi.g 7).toNat % 256 ≠ 0) ∧
    (tNi.busy [3, 8] = false ∧ tNi.gp 8 = false ∧ inWindow (tNi.g 8).toNat = false ∧
      (match sNi.mem.page 0 0 (tNi.g 8).toNat .r with
        | (.ok l, m) => (match m.frameOf 0 l (tNi.g 8).toNat with | some pa => m.rewrites.all (fun r => decide (r.stack ≠ stackOf pa)) | none => false)
        | _ => false) = true) ∧
    ((sNi.node 127).prog = none ∧ (sNi.node 127).queue ≠ [] ∧ (sNi.node 0).queue = [] ∧ 16 * 7 + 15 = 127) := by unfold Runs Handles Serves; decide +kernel

/-- A program at node 17 with two streams of four bytes, an empty one, and one of another width; at its third row. -/
def nArgs : List (Nat × Bool) := (List.range 16).map (fun k => (if k = 0 then pv 1 else if k = 1 then 3 else k * 77777, decide (k = 9)))
def nRun : NRun := ⟨⟨0, 16, 0, [], nArgs⟩, 2, [(0, ⟨4, false, [(5, false), (2 ^ 32 - 1, true), (0, false)]⟩), (1, ⟨4, false, [(5, false), (0, false)]⟩), (2, ⟨4, false, []⟩), (3, ⟨16, false, [(0, false)]⟩)], 0, [], [], 4, 1, none⟩
def nAcc : Acc := ⟨16, 0, 3, 0, .node none, [], false, false⟩
def tNd : Strand := wr (t0.mapSeq (fun q => { q with loads := [nAcc], gpend := [(3, true)] })) [(3, { ring0 with trows := 1, logn := 0, tail := 0 }), (6, { ring0 with trows := 1, tail := 4 })]
def sNd (r : NRun) : State := ag { st tNd with nodes := [(17, ⟨[nReq], some r⟩)], mem := m0 } 1 1 0
theorem meets_NodeComputes : OnNode (sNd nRun) 17 nRun tNd ∧ (1#3) ≠ 7#3 ∧ (nRun.stream 0).fits (ntyEb 1) = true ∧ ntyFmt 1 = none ∧ (nRun.stream 1).fits (ntyEb 1) = true ∧
    (nRun.stream 0).elems ≠ [] ∧ (nRun.stream 2).fits (ntyEb 1) = true ∧ (nRun.stream 2).elems = [] ∧ (nRun.stream 3).fits (ntyEb 1) = false ∧ nRun.fill = [] ∧
    tNd.seq.loads.find? (fun x => decide (x.id = nRun.req.acc)) = some nAcc ∧ tblGet 0 tNd.seq.glat (BitVec.ofNat 5 nAcc.dest).toNat = 0 := by
  unfold OnNode; decide +kernel
/-- At a node of the page's stack: a scan's first, last and past-last element, a page without a leaf, a gather, tiles before their last byte, at it, and a full ring. -/
def nk : Nat := 16 * stackOf 0x21000 + 1
def sNk (r : NRun) : State := ag { sNd r with nodes := [(nk, ⟨[nReq], some r⟩)] } (nk / 16) (nk % 16) 0
def isOk (x : NRead) : Bool := match x with | .ok _ _ _ => true | _ => false
def isFail (x : NRead) : Bool := match x with | .fail _ => true | _ => false
def isBank (x : SlotAns) (b : Nat) : Bool := match x with | .bank c => decide (c = b) | _ => false
def rFill (n k : Nat) : NRun := { nRun with fill := [(n, List.replicate k (5, true), k / 4)] }
def rPast : NRun := { nRun with pos := 3 }
def rNone : NRun := { nRun with req := { nReq with args := [(pv 9, false), (1, true)] } }
theorem meets_NodeMoves_rows : OnNode (sNk nRun) nk nRun tNd ∧ nRun.fill = [] ∧ nRun.arg 0 % ntyEb 1 = 0 ∧ nRun.arg 1 < 2 ^ 32 ∧ nRun.pos < nRun.arg 1 ∧
    isOk ((sNk nRun).mem.nodeRead nk 0 ((nRun.arg 0 + nRun.pos * ntyEb 1) % 2 ^ 64) (ntyEb 1)) = true ∧
    (OnNode (sNk rPast) nk rPast tNd ∧ rPast.arg 1 ≤ rPast.pos ∧ (rPast.stream 0).elems.length ≤ rPast.pos) ∧
    (OnNode (sNk rNone) nk rNone tNd ∧ rNone.pos < rNone.arg 1 ∧
      isFail ((sNk rNone).mem.nodeRead nk 0 ((rNone.arg 0 + rNone.pos * ntyEb 1) % 2 ^ 64) (ntyEb 1)) = true) ∧
    ((nRun.stream 0).fits (ntyEb 1) = true ∧ (nRun.stream 0).elems[nRun.pos]? = some (5, false) ∧
      isOk ((sNk nRun).mem.nodeRead nk 0 (nRun.arg 0 + 5 * ntyEb 1) (ntyEb 1)) = true) := by
  unfold OnNode; decide +kernel
/-- The program's strand with an acquire before it that covers node memory, while an earlier load has no reply. -/
def sNb : State :=
  let t := tNd.mapSeq (fun q => { q with loads := [{ aRep with seq := 0 }, { nAcc with seq := 2 }], barriers := [⟨1, 1, 16, true, 2⟩] })
  { sNk nRun with strands := [(0, t)] }
theorem meets_NodeMoves_barred : (sNk nRun).nodeBarred nRun = false ∧ sNb.nodeBarred nRun = true ∧ (nRun.stream 0).elems[nRun.pos]? = some (5, false) := by decide +kernel
theorem meets_NodeMoves_tiles : (OnNode (sNk (rFill 3 1)) nk (rFill 3 1) tNd ∧ (tNd.ring 3).full = false ∧ (tNd.ring 3).bytes = 64 ∧ (tNd.ring 3).live = true ∧ (tNd.ring 4).live = false ∧ OnNode (sNk (rFill 4 4)) nk (rFill 4 4) tNd ∧ nRun.arg 2 % ntyEb 1 ≠ 0 ∧
      isBank ((sNk nRun).mem.ringAns tNd (tNd.ring 3) false) 2 = true ∧ ((tblGet ([], 0) (rFill 3 59).fill 3).1 ++ pbOf (ntyEb 1) 5 false).length < 64 ∧
      (tNd.ring 3).bytes ≤ ((tblGet ([], 0) (rFill 3 60).fill 3).1 ++ pbOf (ntyEb 1) 5 false).length ∧ (tNd.ring 3).bytes < ((tblGet ([], 0) (rFill 3 62).fill 3).1 ++ pbOf (ntyEb 1) 5 false).length ∧ OnNode (sNk (rFill 3 59)) nk (rFill 3 59) tNd ∧ OnNode (sNk (rFill 3 60)) nk (rFill 3 60) tNd) ∧
    (OnNode (sNk (rFill 6 60)) nk (rFill 6 60) tNd ∧ (tNd.ring 6).full = true ∧ (tNd.ring 6).live = true ∧ (tNd.ring 6).bytes ≤ 64 ∧
      isBank ((sNk nRun).mem.ringAns tNd (tNd.ring 6) false) 2 = true) := by
  unfold OnNode; decide +kernel

/-- A loop of three rows in which one PE computes and the others pass; entries of load queues; a flushed loop, one with a store left; a step that waits. -/
def mkCw (fn d a b : Nat) : Nat := fn * 2 ^ 34 + d * 2 ^ 22 + a * 2 ^ 16 + b * 2 ^ 10
def tAr (p fn d : Nat) : Strand :=
  { t0 with arr := { t0.arr with st := .run, ii := 3, nstg := 2, svm := 1, rb := 5, iter := 1, trip := 10 },
            arrx := { t0.arrx with hdrs := [(0, some 258)], pes := (List.range 16).map (fun q => { Pe.fresh with cw := [(0, if q = p then mkCw fn d 3 20 else 0)], regs := [(3, ⟨7, true, false⟩), (25, ⟨0xFFFFFFFF, true, false⟩)] }) } }
def arMeets (p fn d : Nat) : Bool :=
  let t := tAr p fn d
  let w := t.cwNow p
  t.engineOn 1 && decide (t.arr.st = .run) && !t.arrx.await && t.arrx.parked.isNone && decide (t.arr.row + 1 < t.arr.ii) && decide (t.arrx.pes.length = 16) &&
    t.arrx.pes.all (fun x => x.flight.isEmpty) && (List.range 16).all (fun q => decide (q = p) || decide ((t.cwNow q).fn = 0)) &&
    decide (w.fn = fn ∧ w.ty = 0 ∧ w.ma = 0 ∧ w.mb = 0 ∧ w.hld = false ∧ w.d = d ∧ w.a ≠ 60 ∧ w.b ≠ 60) &&
    decide (t.src p w.a w.stg = ⟨7, true, false⟩) && decide (t.src p w.b w.stg = ⟨0xFFFFFFFF, true, false⟩)
theorem meets_ArrayStepResult : Runs (st (tAr 0 1 0)) 0 (tAr 0 1 0) ∧ Runs (st (tAr 15 0x16 47)) 0 (tAr 15 0x16 47) ∧
    ((arrTable.map (·.1)).all (fun f => arMeets 0 f 0 && arMeets 15 f 47)) = true := by unfold Runs; decide +kernel
def lqPart : Part := ⟨win 2 65532, 4, .bank 2 65532, false, false, false, false, false, []⟩
def lqEnt : LqEnt := ⟨16, 0, false, false, .zero, [lqPart], false, 0⟩
def wPes (t : Strand) (l : List Pe) : Strand := { t with arrx := { t.arrx with pes := l } }
def tLq : Strand := wPes (tAr 0 1 0) (List.replicate 15 Pe.fresh ++ [{ Pe.fresh with lq := [{ lqEnt with id := 15, filled := true }, lqEnt] }])
def tFl : Strand := wPes { t0 with arr := { t0.arr with st := .flush, fch := 15 } } (List.replicate 15 Pe.fresh ++ [{ Pe.fresh with lq := [{ lqEnt with filled := true }] }])
def tFs : Strand := wPes tFl (List.replicate 15 Pe.fresh ++ [{ Pe.fresh with sq := [.zero] }])
theorem meets_ArrayEvents_one :
    (Runs (ag (st tLq) 0 15 1) 0 tLq ∧ 15 < tLq.arrx.pes.length ∧ (tLq.pe 15).lq[1]? = some lqEnt ∧ lqEnt.filled = false ∧ lqEnt.cp = false ∧ lqEnt.parts = [lqPart] ∧
      lqPart.done = false ∧ lqPart.place = .bank 2 65532 ∧ tLq.blocked lqEnt.seq true lqPart = false) ∧
    (Runs (st tFl) 0 tFl ∧ tFl.engineOn 1 = true ∧ tFl.arr.st = .flush ∧ (∀ x ∈ tFl.arrx.pes, x.flight = []) ∧ (∀ x ∈ tFl.arrx.pes, x.sq = [] ∧ ∀ y ∈ x.lq, y.filled = true) ∧
      tFl.arrx.outl = [] ∧ tFl.outlBehind = false ∧ tFl.arr.shadow = none) ∧
    (Runs (st tFs) 0 tFs ∧ tFs.engineOn 1 = true ∧ tFs.arr.st = .flush ∧ (∀ x ∈ tFs.arrx.pes, x.flight = []) ∧ ∃ x ∈ tFs.arrx.pes, x.sq ≠ []) := by
  unfold Runs; decide +kernel

/-- A row of which PE 15 loads from the race-checked page: its checks are awaited. -/
def tEv : Strand :=
  wPes { tAr 0 1 0 with arrx := { (tAr 0 1 0).arrx with await := true } }
    (List.replicate 15 Pe.fresh ++ [{ Pe.fresh with cw := [(0, mkCw 0x35 0 3 4 + 9)], regs := [(3, ⟨BitVec.ofNat 32 (pv 2 + 4092), true, false⟩), (4, ⟨0, true, false⟩), (15, ⟨0, true, false⟩)] }])
theorem meets_ArrayEvents_two : Runs (sm tEv) 0 tEv ∧ tEv.arrx.await = true ∧ tEv.engineOn 1 = true ∧ tEv.holds peIds tEv = false ∧
    (match StepFx.words 0 tEv ⟨tEv, m0, 0, [], [], [], [], [], [], none, [], []⟩ peIds with
      | .ok f => decide (tEv.seq.ctl.ackcnt + (f.stores.map (fun x => x.parts.countP (fun p => p.place.remote (dieOfSn 0)))).sum ≤ 1024) && (f.accs.flatMap (fun x => x.2.2)).any (·.rc) &&
          (match State.checkParts 0 tEv ((sm tEv).setMem f.m) (f.accs.flatMap (fun x => x.2.2.map (fun p => (x.2.1, p)))) with
            | .pass s1 => (match State.performAccs 0 tEv s1 f.accs with | .ok (_, s2) => (s2.strand? 0).isSome | .error _ => false)
            | _ => false)
      | _ => false) = true := by unfold Runs; decide +kernel

/-- A copy in its last row and one before it, a tile that waits for its token, tiles with an element to come, a ring with a written tile. -/
def sEnt : SEnt := ⟨0, .copy (win 3 65530) (win 2 60) 70, 0, 0, 0, 0, false, false, none, 0, none, 0, none⟩
def tCp (e : SEnt) : Strand := { t0 with str := { t0.str with queue := [e] } }
def cpMeets (done b c n : Nat) : Bool :=
  let e := { sEnt with cmd := .copy (win 3 65464) (win 2 60) 70, done := done }
  let t := tCp e
  let s := st t
  let ra := win 2 60 + done
  let wa := win 3 65464 + done
  s.cmdReady 0 t e && decide (e.done < 70 ∧ e.arr = 0 ∧ e.flying = 0 ∧ inWindow ra = true ∧ inWindow wa = true ∧ ra < 2 ^ 64 ∧ wa < 2 ^ 64 ∧
    (t.slot (winSlot ra)).bank = some b ∧ (t.slot (winSlot wa)).bank = some c ∧ (t.slot (winSlot ra)).zero = false ∧ (t.slot (winSlot wa)).zero = false ∧
    n = min (min (70 - e.done) 64) (min (64 - ra % 64) (64 - wa % 64)) ∧ s.agent.a = 0 ∧ s.strand? 0 = some t)
def agEnt : Ag := { Ag.off with conf := true, les := 2, bind := true, pe := 15, base := win 2 65516, n := [3, 2, 1, 1], s := [4, 8, 0, 0], sch := 15 }
def tAgE (a : Ag) : Strand := { t0 with str := { t0.str with ags := [(3, a)] }, tok := 2 ^ 15, arrx := { t0.arrx with pes := List.replicate 16 Pe.fresh } }
def agMeets (a : Ag) : Bool :=
  let t := tAgE a
  let s := ag (st t) 0 3 0
  let va := (t.ag 3).address (t.ag 3).pos
  decide (s.agent.b = 3 ∧ t.engineOn 3 = true ∧ t.barred 0 (t.ag 3).seq 1 = false ∧ (t.ag 3).parked = none ∧ s.strand? 0 = some t ∧ s.agent.a = 0) &&
    (match a.run with
      | .token => t.token (t.ag 3).sch
      | .running => decide ((t.ag 3).ten = false ∧ (t.ag 3).sq = false ∧ (t.ag 3).les = 2 ∧ va % 4 = 0 ∧ inWindow va = true ∧ winSlot va = 2 ∧
          (t.slot (winSlot va)).zero = false ∧ (t.ag 3).pe < t.arrx.pes.length ∧ (t.pe (t.ag 3).pe).lq.length < 8 ∧ (t.ag 3).pos + 1 < (t.ag 3).total)
      | _ => false)
def rLd (l : List Resv) : Ring := { ring0 with tail := 3, resv := l }
def tRl : Strand := wr t0 [(15, rLd [⟨3, true, false⟩, ⟨0, false, false⟩])]
def tRo : Strand := wr t0 [(15, rLd [⟨3, false, false⟩, ⟨0, true, false⟩])]
theorem meets_StreamWorks : cpMeets 0 2 3 4 = true ∧ cpMeets 4 2 3 4 = true ∧ cpMeets 68 2 3 2 = true ∧ Serves Mem.reset t0 2 2 ∧ Serves Mem.reset t0 3 3 ∧
    agMeets { agEnt with run := .token } = true ∧ agMeets { agEnt with run := .running } = true ∧ agMeets { agEnt with run := .running, pos := 4 } = true ∧
    (Runs (ag (st tRl) 0 15 0) 0 tRl ∧ (tRl.ring 15).resv = [⟨3, true, false⟩, ⟨0, false, false⟩]) ∧
    (Runs (ag (st tRo) 0 15 0) 0 tRo ∧ (tRo.ring 15).resv = [⟨3, false, false⟩, ⟨0, true, false⟩]) := by unfold Runs Serves; decide +kernel

/-- Acknowledgements due and none; a load and a store on their way to the slice, the store against another strand's write; a race's reply; a fetch from the window. -/
def pLd : Part := ⟨pv 1 + 4088, 8, .frame 0x21FF8, false, false, false, false, false, []⟩
def aLd : Acc := ⟨17, 0, 3, pv 1 + 4088, .load 8 false, [pLd], false, false⟩
def tAk : Strand := (t0.mapCtl (fun c => { c with ackcnt := 1 })).mapSeq (fun q => { q with acks := [.ls true], loads := [aLd], gpend := [(3, true)], seq := 2, nextId := 18 })
def pRc : Part := ⟨pv 2 + 8, 8, .frame 0x22008, true, false, false, false, false, pbOf 8 0x55 false⟩
def xRc : Store := ⟨17, 1, false, pv 2 + 8, [pRc], true⟩
def tRc (w : Wait) : Strand := (t0.mapSeq (fun q => { q with stores := [xRc], seq := 2, nextId := 18 })).setWait w
def mRace : Mem := match m0.physAcc ⟨0, 4, 0, 3, false, true, 0⟩ .write 0x22008 8 (fun _ => pbOf 8 1 false) with | .ok _ m => m | _ => m0
def tWf : Strand := t0.mapSeq (fun q => { q with pc := BitVec.ofNat 64 (win 0 0) })
/-- A copy whose write awaits its acknowledgement, to arrive at an object of slot 2 or at none. -/
def tCk (arr : Nat) : Strand := ((tCp { sEnt with flying := 1 }).mapCtl (fun c => { c with ackcnt := 1 })).mapSeq (fun q => { q with acks := [.cp false true arr 64] })
def accIs (ok : Bool) (x : MR SRes) : Bool := match x with | .ok r _ => ok && r.passed.isNone | .race _ _ => !ok | _ => false
theorem meets_AccessReplies :
    (Runs (sm tAk) 0 tAk ∧ Runs (ag (sm tAk) 0 17 0) 0 tAk ∧ tAk.seq.acks[0]? = some (.ls true) ∧ t0.seq.acks[0]? = none ∧ (.ls true) ≠ AckOf.cp true true 0 64 ∧
      tAk.seq.loads.find? (fun x => decide (x.id = (ag (sm tAk) 0 17 0).agent.b)) = some aLd ∧ tAk.blocked aLd.seq false pLd = false ∧
      accIs true ((ag (sm tAk) 0 17 0).homeRead (coreOfSn 0) (tAk.who 0 0 aLd.rc aLd.id) pLd) = true) ∧
    (Runs (ag (sm (tRc (.check 17))) 0 17 0) 0 (tRc (.check 17)) ∧ (tRc (.check 17)).seq.loads = [] ∧
      (tRc (.check 17)).seq.stores.find? (fun x => decide (x.id = 17)) = some xRc ∧ xRc.rc = true ∧ (tRc (.check 17)).seq.wait = .check xRc.id ∧ pRc.done = false ∧
      (tRc (.check 17)).blocked xRc.seq false pRc = false ∧ accIs true (m0.at 0 ((tRc (.check 17)).who 0 0 true xRc.id) .write pRc.place pRc.n (fun _ => pRc.data)) = true ∧
      accIs false (mRace.at 0 ((tRc (.check 17)).who 0 0 true xRc.id) .write pRc.place pRc.n (fun _ => pRc.data)) = true) ∧
    (let t := tRc (.checked none)
     Runs (st t) 0 t ∧ t.seq.trap.raised = [] ∧ t.seq.stores.find? (·.rc) = some xRc ∧ t.seq.wait = .checked none) ∧
    (let t := tRc (.checked (some (4, 7, 2, false, 4 * (0x22008 / 128) + 3)))
     Runs (st t) 0 t ∧ t.seq.trap.raised = [] ∧ t.seq.stores.find? (·.rc) = some xRc ∧ t.run = .running ∧ Handles t) ∧
    (Runs (st (tCk 0)) 0 (tCk 0) ∧ Runs (st (tCk (win 2 64))) 0 (tCk (win 2 64)) ∧ (tCk (win 2 64)).seq.acks[0]? = some (.cp false true (win 2 64) 64) ∧
      (tCk 0).str.queue = [{ sEnt with flying := 1 }] ∧ Serves (st t0).mem (tCk (win 2 64)) (winSlot (win 2 64)) 2) ∧
    (Runs (st tWf) 0 tWf ∧ inWindow tWf.seq.pc.toNat = true ∧ Handles tWf) := by unfold Runs Handles Serves; decide +kernel

/-- Two broadcasts of a strand number beside another's; a slice with an entry of a released region. -/
def sRw : State := { st t0 with mem := { Mem.reset with rel := [⟨3, 1, [255]⟩, ⟨0, 2, [7, 255]⟩, ⟨0, 3, [255]⟩] }, agent := ⟨0, 255, 0⟩ }
theorem meets_ReleaseWork : sRw.mem.rel = [⟨3, 1, [255]⟩] ++ ⟨0, 2, [7, 255]⟩ :: [⟨0, 3, [255]⟩] ∧
    (∀ x ∈ ([⟨3, 1, [255]⟩] : List RelBc), ¬ (x.sn = sRw.agent.a ∧ sRw.agent.b ∈ x.left)) ∧ 0 = sRw.agent.a ∧ sRw.agent.b ∈ [7, 255] ∧
    (mRace.lines.map (·.slice)) = [homeOfPa 0x22008] ∧ (mRace.lines.all (fun l => l.races.any (fun r => r.writer.isSome))) = true := by decide +kernel

/-- A line, two parts that wait for frames with and without one in the list, an access held to the bound and one short of it. -/
def lnAt (pa way : Nat) : Line := ⟨homeOfPa pa, setOf (pa / 128), way, pa / 128, false, 0, true, false, way, way, 0, 0, pbOf 128 (2 ^ 1000 + 12345) false, [.empty, .empty, .empty, .empty]⟩
def hd0 : Held := ⟨0, 0, 16, 100, false⟩
def spl : Spill := ⟨0, 0x40004, 0, 0x15000, [hd0]⟩
def mRsv : Mem := ({ m0 with cfg := cfgPut (cfgPut m0.cfg (offRsvcfg 0 0) (0x18000 + 2)) (offRsvptr 0 0) (1 * 2 ^ 32 + 3) } : Mem).putWords 0x18008 8 0x30000
def sSpl (m : Mem) (clk : Nat) : State := { st t0 with mem := { m with spills := [{ spl with part := 1 }, spl], lines := [lnAt 0x21000 0, { (lnAt 0x21000 1) with unb := true, vpart := 0x40004 }] }, clock := clk, agent := ⟨1, 0, 0⟩ }
/-- A frame taken with the part backed at it, none to take, and an entry of the list that cannot be read yet. -/
def gotFrame (x : Option (Option Nat × Mem)) : Option Mem := match x with | some (some _, m) => some m | _ => none
def quietB (p : Nat) (m : Mem) : Bool := decide (m.admits p = true ∧ m.shut.drained = false ∧ m.shut.begun = false ∧ m.rewrites = [] ∧ m.mask = none ∧ m.migs = [])
def noFrame (x : Option (Option Nat × Mem)) (y : Spill) : Bool := match x with | some (none, m) => decide (m.spills[1]? = some y) | _ => false
def shutM (m : Mem) : Mem := { m with shut := ⟨1, true, false, false⟩ }
def slwBad (v : Nat) : Bool := decide (11 < bitsOf v 40 4 ∨ (192 ≤ bitsOf v 48 8 ∧ bitsOf v 48 8 < 255) ∨ (bitsOf v 16 16) &&& (bitsOf v 0 16) ≠ bitsOf v 16 16)
def slwGo (v : Nat) : Nat := 2 ^ 63 + v
def mMask (set : Nat) (all : Bool) (w : Option Nat) : Mem :=
  { Mem.reset with mask := some ⟨0, 0x00FF, 0x000F, all, 191, set, w⟩, lines := [{ (lnAt 0x21000 3) with set := set, slice := 191 }, { (lnAt 0x21000 9) with set := set, slice := 191, name := 99 }] }
def maskMeets (m : Mem) : Bool :=
  match m.mask with
  | none => false
  | some c => decide (c.wmask ≠ 0 ∧ c.umask ≠ 0 ∧ c.part < 12 ∧ c.slice < 192) && m.lines.all (fun l => !l.unb && !l.pinned && m.devOpen (128 * l.name) && decide (l.part = c.part ∧ l.slice = c.slice ∧ l.set = c.set))
/-- A part is backed at the frame that was taken, since nothing holds its writes back. -/
theorem gotFrame_backs (x : Option (Option Nat × Mem)) (y : Spill) (h : (match gotFrame x with | some m => quietB y.part m | none => false) = true) :
    ∃ f m n, x = some (some f, m) ∧ m.backAt y.part y.vpart y.entry f = some n := by
  match x, h with
  | some (some f, m), h =>
    have hq : Quiet y.part m := of_decide_eq_true (p := m.admits y.part = true ∧ m.shut.drained = false ∧ m.shut.begun = false ∧ m.rewrites = [] ∧ m.mask = none ∧ m.migs = []) h
    obtain ⟨n, hn, -⟩ := hq.backAt y.vpart y.entry f
    exact ⟨f, m, n, rfl, hn⟩
  | some (none, _), h => cases h
  | none, h => cases h
theorem meets_SpillAndMask_frame : ∃ f m n, (sSpl mRsv 0).mem.takeFrame 0 0 = some (some f, m) ∧ m.backAt spl.part spl.vpart spl.entry f = some n :=
  gotFrame_backs _ spl (by decide +kernel)
theorem meets_SpillAndMask :
    ((sSpl mRsv 0).mem.spills[(sSpl mRsv 0).agent.a]? = some spl ∧ (∀ y ∈ (sSpl mRsv 0).mem.spills.take 1, ¬ (y.part = spl.part ∧ y.die = spl.die)) ∧
      ((sSpl (shutM mRsv) 0).mem.takeFrame 0 0).isNone = true) ∧
    (noFrame ((sSpl m0 0).mem.takeFrame 0 0) spl = true ∧ (sSpl m0 0).mem.listEmpty 0 0 = true ∧ (sSpl m0 0).strand? 0 = some t0 ∧ t0.run = .running ∧
      100 + 210000 ≤ (sSpl m0 210100).clock ∧ (sSpl m0 210099).clock < 100 + 210000) ∧
    (bitOf (cfgGet m0.cfg offSlwstat) 0 = false ∧ slwBad (12 * 2 ^ 40) = true ∧ slwBad (192 * 2 ^ 48) = true ∧ slwBad (254 * 2 ^ 48) = true ∧ slwBad 65536 = true ∧
      slwBad (255 * 2 ^ 48 + 11 * 2 ^ 40 + 0xFFFFFFFF) = false ∧ slwBad (191 * 2 ^ 48) = false ∧ (BitVec.ofNat 64 (slwGo 65536)).getLsbD 63 = true ∧ Firmware (ag (sSpl m0 0) 8 0 1) 1) ∧
    maskMeets (mMask 1022 false none) = true ∧ maskMeets (mMask 1023 true none) = true ∧ maskMeets (mMask 1023 false none) = true ∧
    ((mMask 3 false (some 100)).mask = some ⟨0, 0x00FF, 0x000F, false, 191, 3, some 100⟩ ∧ (mMask 3 false (some 100)).listEmpty 0 3 = true) := by
  unfold Firmware; decide +kernel

/-- A list of eight entries with its last counts; instances whose operators the portal carries and does not; an invalidation with a page in use and not; a bad copy. -/
def sRg : State := { st t0 with mem := { m0 with cfg := cfgPut (cfgPut m0.cfg (offRsvcfg 11 3) 2) (offRsvptr 11 3) (2 ^ 32 * 3), xinv := [(0, 0x40001, 0, false)], tlb := [⟨0, 0, 0x40001, 0x2100F, 0, .leaf⟩, ⟨0, 0, 0x40002, 0x2202F, 0, .leaf⟩], remapBad := [14] } }
theorem meets_RegisterActs : 2 ^ (ringLogn (cfgGet sRg.mem.cfg (offRsvcfg 11 3)) + 1) = 8 ∧ (7 + 8 - bitsOf (cfgGet sRg.mem.cfg (offRsvptr 11 3)) 32 16 % 8) % 8 ≤ 4 ∧
    ¬ (0 + 8 - bitsOf (cfgGet sRg.mem.cfg (offRsvptr 11 3)) 32 16 % 8) % 8 ≤ 4 ∧
    (sRg.insts.any (fun e => decide (e.2.part = 0) && aopForeign e.2.aopset) = true ∧ aopForeign 3 = false) ∧
    (bitOf (cfgGet sRg.mem.cfg (offXinv 1)) 61 = false ∧ bitOf (cfgGet (cfgPut [] (offXinv 1) (2 ^ 61)) (offXinv 1)) 61 = true) ∧
    (sRg.agent.a = 0 ∧ sRg.mem.xinv.find? (fun x => decide (x.1 = 0)) = some (0, 0x40001, 0, false) ∧ t0.usesPages (sRg.mem.dropsPage 0 0x40001 (xinvPages 0) false) = false ∧
      tAk.usesPages (sRg.mem.dropsPage 0 0x40001 (xinvPages 0) false) = true) ∧
    2 * 7 + (1 + 1) % 2 ∈ sRg.mem.remapBad ∧ 2 * 7 + (0 + 1) % 2 ∉ sRg.mem.remapBad ∧ Firmware (ag sRg 8 0 1) 1 := by unfold Firmware; decide +kernel

/-- A well-formed job and a malformed one; a checkpoint read before its last chunk and after it; a wait at the bound and short of it. -/
def sMg (d : Nat) : State := { st t0 with mem := { m0 with cfg := cfgPut (cfgPut (cfgPut m0.cfg (offMgsrc d) 0x21000) (offMgdst d) 0x50000) (offMgva d) (pv 1) } }
def mgV (md : Nat) : Nat := 2 ^ 63 + md * 2 ^ 56 + 2 ^ 52 + 2 ^ 49 + 0x14008
def mgJ (done : Nat) (w : Option Nat) : MigJob := ⟨3, 1, 0, 1, 2, 0x14008, 0x21000, 0x50000, 0, done, w, none⟩
def sMj (done : Nat) (w : Option Nat) (clk : Nat) : State := { st t0 with mem := { m0 with migs := [mgJ done w], entry := 2 }, clock := clk, agent := ⟨3, 0, 0⟩ }
def mgOk (s : State) (j : MigJob) (goes : Bool) : Bool :=
  match s.mem.mgChunk j.part (j.src + 64 * j.done) (j.dst + 64 * j.done) with | .ok x => decide (x.isSome = goes) | .error _ => false
def sMs (done : Nat) : State := { sMj done none 0 with mem := shutM (sMj done none 0).mem }
theorem meets_MigrationWork : (∀ j ∈ (sMg 3).mem.migs, j.die ≠ 3) ∧ (BitVec.ofNat 64 (mgV 0)).getLsbD 63 = true ∧ ((sMg 3).mem.mgJob 3 (mgV 0)).bad = false ∧
    ((sMg 3).mem.mgJob 3 (mgV 3)).bad = true ∧ (∃ j ∈ (sMj 0 none 0).mem.migs, j.die = 3) ∧ (0#64).getLsbD 63 = false ∧
    ((mgJ 0 none).mode = 1 ∧ (mgJ 0 none).dst ≠ 2 ^ 48 ∧ (mgJ 0 none).queue = none ∧ mgBytes 0 / 64 = 64 ∧
      mgOk (sMj 63 none 0) (mgJ 63 none) true = true ∧ mgOk (sMj 0 none 0) (mgJ 0 none) true = true ∧ mgOk (sMs 0) (mgJ 0 none) false = true) ∧
    (100 + 210000 ≤ (sMj 0 (some 100) 210100).clock ∧ (sMj 0 (some 100) 210099).clock < 100 + 210000 ∧ (sMj 0 (some 100) 0).mem.listEmpty 2 1 = true) ∧ Firmware (ag (sMg 3) 8 0 1) 1 := by
  unfold Firmware; decide +kernel

/-- A word that is reached, one on a stack that is rewritten, and a TICKET of a group without members; a dirty entry of the edge and a clean one; a load of the host's word that is on its way. -/
def sEd : State := { st t0 with groups := [0x40000], mem := { m0.wr 0x40004 1 1 with lines := [lnAt 0x21000 0], rewrites := [⟨1, [], 0, 0⟩], edge := [⟨0, 0x21000, pbOf 8 3 false, true, 5, 0⟩, ⟨0, 0x21008, pbOf 8 3 false, false, 5, 0⟩] } }
def pFw : Part := ⟨pv 5 + 4088, 8, .fwd 1 0x5FF8 (pv 5 + 4088), false, false, false, false, false, []⟩
def aFw : Acc := ⟨16, 0, 31, pv 5 + 4088, .load 8 false, [pFw], false, false⟩
def tFw : Strand := t0.mapSeq (fun q => { q with loads := [aFw], gpend := [(31, true)], seq := 2, nextId := 18 })
theorem meets_EdgeAndForward :
    (peerAtom false 0 = some (.add, 32) ∧ (peerAtom false 24).isSome = true ∧ (peerAtom true 1).isSome = true ∧ sEd.edgeDrops 5 0x40048 = some 0x40000 ∧
      sEd.edgeDrops 5 (2 ^ 36) = none ∧ sEd.mem.edgeFetch (dieOfStack (stackOf (2 ^ 36))) (2 ^ 36 / 8 * 8) = none ∧
      sEd.edgeDrops 5 0x21FFC = none ∧ (sEd.mem.edgeFetch (dieOfStack (stackOf 0x21FFC)) (0x21FFC / 8 * 8)).isSome = true) ∧
    ((sEd.mem.edge.filter (fun e => decide (e.die = sEd.agent.a)))[sEd.agent.b]? = some ⟨0, 0x21000, pbOf 8 3 false, true, 5, 0⟩ ∧ (Mem.ownWrite { sEd.mem with edge := [] } 12 0x21000 (pbOf 8 3 false)).isSome = true ∧
      (sEd.mem.edge.filter (fun e => decide (e.die = (ag sEd 0 1 0).agent.a)))[(ag sEd 0 1 0).agent.b]? = some ⟨0, 0x21008, pbOf 8 3 false, false, 5, 0⟩) ∧
    ((st tFw).strand? 0 = some tFw ∧ tFw.seq.loads.find? (fun x => decide (x.id = 16)) = some aFw ∧ aFw.kind = .load 8 false ∧ aFw.parts = [pFw] ∧ pFw.done = false ∧
      pFw.place = .fwd 1 0x5FF8 (pv 5 + 4088) ∧ tFw.blocked aFw.seq false pFw = false) := by decide +kernel

/-- Host queue 5 of four packets in device memory or on the host. -/
def pkt (l : List (Nat × Nat × Nat)) : List Byte := l.foldl (fun b x => splice b x.1 (toBytes x.2.1 x.2.2)) (List.replicate 64 0)
def hostPut (h : Tbl Byte) (a : Nat) (bs : List Byte) : Tbl Byte := (List.range bs.length).foldl (fun t k => tblPut 0 t (extKey 1 (a + k)) (bs.getD k 0)) h
def qs (auth : Bool) (x : Queue) (tail : Nat) (ps : List (Nat × List Byte)) (mem : Mem) : State :=
  ps.foldl (fun s e => { s with host := hostPut s.host (0x10000 + 64 + 64 * (e.1 % 4)) e.2 })
    { st t0 with mem := { mem with cfg := cfgPut mem.cfg (offQcfg 5) (2 ^ 63 + 0x10000 + 18 + (if auth then 32 else 0)) }, queues := tblPut .fresh [] 5 x, agent := ⟨5, 0, 0⟩, host := hostPut [] 0x10000 (toBytes 8 tail) }
def aq (head tail : Nat) : Queue := ⟨.active, 0, head, tail, head, [], [], 0, none⟩
def sq (l : List (Nat × Nat × Nat)) (auth : Bool) (mem : Mem) : State := qs auth (aq (2 ^ 64 - 1) 1) 1 [(2 ^ 64 - 1, pkt l)] mem
/-- PacketAt as a test, the packet at HEAD, and the state once it is read. -/
def atHead (s : State) (typ : Nat) : Bool :=
  s.qReads 5 && decide (s.agent.a = 5 ∧ (s.queue 5).st = .active ∧ (s.queue 5).pkts = [] ∧ (s.queue 5).head ∉ (s.queue 5).done) &&
    (match s.qTake 5 with | some (b, _) => pktOk b && decide (fld b 0 1 = typ ∧ fld b 56 8 = 0) | none => false)
def hd (s : State) : List Byte := match s.qTake 5 with | some (b, _) => b | none => []
def rs (s : State) : State := match s.qTake 5 with | some (_, r) => r | none => s
def sTn (x : QState) (ridx tail typ : Nat) : State := qs true ⟨x, 0, 7, 7, ridx, [], [], 0, none⟩ tail [(7, pkt [(0, 1, typ)])] Mem.reset
def tnMeets (s : State) (tail : Nat) : Bool :=
  s.qOn 5 && decide ((s.queue 5).pkts = []) && (match s.qGet 5 0 8 with | some (l, s1) => decide (ofBytes l = tail ∧ s1.qLogn 5 = 2) | none => false)
def tnNext (s : State) (tail : Nat) (ok : Bool) : Bool :=
  let s2 := s.setQueue 5 { s.queue 5 with tail := tail, st := .active }
  s2.qReads 5 && (match s2.qTake 5 with | some (b, _) => !s2.qSkips 5 b && decide (pktOk b = ok) | none => false)
def mSig : Mem := m0.putWords 0x21010 8 (2 ^ 48 + 5)
def sgPkt (typ val op : Nat) : List (Nat × Nat × Nat) := [(0, 1, typ), (8, 8, pv 1 + 16), (16, 8, val), (24, 1, op)]
def useIs (x : SigUse) (f : Nat → Bool) : Bool := match x with | .ok v _ => f v | _ => false
theorem meets_QueueWork_packets :
    (tnMeets (sTn .idle 6 11 2) 11 = true ∧ 4 < (11 + 2 ^ 64 - 6 % 2 ^ 64) % 2 ^ 64 ∧ (10 + 2 ^ 64 - 6 % 2 ^ 64) % 2 ^ 64 ≤ 4 ∧
      tnMeets (sTn .active 6 10 2) 10 = true ∧ tnNext (sTn .active 6 10 2) 10 true = true ∧ tnNext (sTn .active 6 10 9) 10 false = true ∧
      tnMeets (sTn .active 7 7 9) 7 = true) ∧
    atHead (sq [(0, 1, 2)] false m0) 2 = true ∧
    (atHead (sq (sgPkt 3 (2 ^ 48 - 1) 1) true mSig) 3 = true ∧ ((sq (sgPkt 3 5 1) true mSig).queue 5).parked = none ∧
      useIs ((rs (sq (sgPkt 3 5 1) true mSig)).sigUse 0 (pv 1 + 16) false id) (fun v => waitHolds 0 5 v && !waitHolds 1 5 v) = true) ∧
    (let s := sq (sgPkt 4 3 0) true mSig
     let u := (rs s).qStart 5 (s.queue 5).head 4 0 .started
     atHead s 4 = true ∧ (match u.qGet 5 (u.qOff 5 (s.queue 5).head) 64 with
       | some (b, s1) => decide (b = hd s) && useIs (s1.sigUse (u.qPart 5) (pv 1 + 16) true (sigOp 0 3)) (fun _ => true)
       | none => false) = true) := by decide +kernel
/-- A stopped queue on the host, one in device memory inside a shutter; writers of its QCTL. -/
def sStp (mem : Mem) (b c : Nat) : State :=
  { qs true ⟨.stopped, 5, 1, 2, 1, [], [], 0, some 3⟩ 2 [(1, pkt [(0, 1, 9)])] { mem with cfg := cfgPut mem.cfg (offVfcfg 192) 16 } with agent := ⟨8, b, c⟩ }
def sStq : State := { sStp m0 0 1 with mem := shutM { m0 with cfg := cfgPut m0.cfg (offQcfg 5) (0x20000 + 18) } }
theorem meets_QueueWork_qctl : QctlMay (sStp m0 0 1) 5 ∧ QctlMay (sStp m0 192 0) 5 ∧ ¬ QctlMay (sStp m0 191 0) 5 ∧ QctlMay sStq 5 ∧
    ((sStp m0 0 1).queue 5).st = .stopped ∧ ((sStp m0 0 1).queue 5).pkts = [] ∧ ((sStp m0 0 1).queue 5).head ≠ ((sStp m0 0 1).queue 5).tail ∧
    (match (sStp m0 0 1).qTake 5 with | some (b, _) => decide (fld b 56 8 = 0) | none => false) = true ∧
    (sStq.queue 5).st = .stopped ∧ sStq.qTake 5 = none ∧ QctlMay (ag (sTn .active 7 7 9) 8 0 1) 5 ∧ ((sTn .active 7 7 9).queue 5).st ≠ .stopped ∧
    ((sStp m0 0 0).agent.b = 0 ∧ (sStp m0 0 0).boot.st = 1 ∧ (sStp m0 0 0).agent.c < 1) := by unfold QctlMay; decide +kernel

/-- A page with a leaf and one without; queues with authority and without; a member present, absent and asking, at the last number that may be admitted and past it. -/
def mgPkt (va : Nat) : List (Nat × Nat × Nat) := [(0, 1, 5), (8, 8, va), (16, 1, 0), (17, 1, 0), (18, 1, 0)]
def hsPkt : List (Nat × Nat × Nat) := [(0, 1, 6), (8, 1, 7)] ++ (List.range 7).map (fun i => (16 + 4 * i, 4, 2 ^ (i + 3)))
def sHs : State := { sq hsPkt true m0 with mem := { m0 with rewrites := [⟨7, [8, 16, 32, 64, 128, 256, 512], 5, 9⟩] }, queues := tblPut .fresh [] 5 { aq 10 10 with pkts := [⟨9, 6, 0, .started, none⟩] }, agent := ⟨7, 0, 0⟩ }
def mMb (state dseq : Nat) : Mem := ((((m0.wr (0x40000 + 64 + 32 * 63 + 2) 1 state).wr (0x40000 + 56) 8 dseq).wr (0x40000 + 64 + 32 * 63 + 24) 8 0).wr 0x40000 4 (2 ^ 32 - 1))
def mbPkt (op : Nat) : List (Nat × Nat × Nat) := [(0, 1, 7), (8, 8, 0x40000), (16, 2, 63), (18, 1, op)]
/-- How a walk for a MIGRATE ends (waiting, without a leaf, with one), and whether a frame is there, awaited or not to be read yet. -/
def mgWalk (s : State) : Nat :=
  let r := rs s
  match r.mem.doWalk 0 (fld (hd s) 8 8) with
  | ((.wait, _), _) => 0
  | (_, m) => match m.leafAt 0 (fld (hd s) 8 8) with
    | none => 1
    | some (ent, e, lvl) =>
      if lvl = fld (hd s) 16 1 ∧ (⟨e, lvl⟩ : Leaf).loc = 0 ∧ (⟨e, lvl⟩ : Leaf).ub = false ∧ fld (hd s) 17 1 = 0 ∧ s.mem.migs = [] then
        match ((r.setMem m).qStart 5 (s.queue 5).head 5 0 .started).mem.takeFrame 0 0 with
        | none => 2
        | some (none, _) => 3
        | some (some f, _) => if (⟨(⟨e, lvl⟩ : Leaf).home, 0, lvl, 0, 0, ent, bitsOf e 12 27 * 4096, f, pv 1, 0, none, some (5, (s.queue 5).head)⟩ : MigJob).bad then 5 else 4
      else 5
def sMv (va : Nat) (m : Mem) : State := sq (mgPkt va) true m
/-- The tables in stack 0 and the partition's list in stack 1, which is rewritten. -/
def mRw : Mem := { m0 with cfg := cfgPut (cfgPut m0.cfg (offRsvcfg 0 0) (2 ^ 36 + 2)) (offRsvptr 0 0) (2 ^ 32 + 3), rewrites := [⟨1, [], 0, 0⟩] }
theorem meets_ConfigPackets_migrate : atHead (sMv (pv 9) m0) 5 = true ∧ (sMv (pv 9) m0).qPart 5 = 0 ∧ mgWalk (sMv (pv 9) m0) = 1 ∧ atHead (sMv (pv 1) (shutM m0)) 5 = true ∧
    mgWalk (sMv (pv 1) (shutM m0)) = 0 ∧ atHead (sMv (pv 1) mRsv) 5 = true ∧ mgWalk (sMv (pv 1) mRsv) = 4 ∧ mgWalk (sMv (pv 1) m0) = 3 ∧
    atHead (sMv (pv 1) mRw) 5 = true ∧ mgWalk (sMv (pv 1) mRw) = 2 := by decide +kernel
theorem meets_ConfigPackets_hashset :
    (atHead (sq hsPkt true m0) 6 = true ∧ (rs (sq hsPkt true m0)).qAuth 5 = true ∧ atHead (sq hsPkt false m0) 6 = true ∧ (rs (sq hsPkt false m0)).qAuth 5 = false) ∧
    (sHs.mem.rewrites.find? (fun r => decide (r.stack = sHs.agent.a)) = some ⟨7, [8, 16, 32, 64, 128, 256, 512], 5, 9⟩ ∧ InProgress sHs 5 9 6) := by
  unfold InProgress; decide +kernel
/-- A MEMBER packet at a queue on the host, whose read leaves the state as it was. -/
def sMm (op state dseq : Nat) (auth : Bool) : State := sq (mbPkt op) auth (mMb state dseq)
def mmAt (s : State) : Bool :=
  atHead s 7 && s.qHost 5 && decide (fld (hd s) 8 8 = 0x40000 ∧ fld (hd s) 16 2 = 63) && s.mem.ownOpen 12 0x40000 64 && s.mem.ownOpen 12 (0x40000 + 64 + 32 * 63) 32
theorem meets_ConfigPackets_member : mmAt (sMm 0 1 0 true) = true ∧ (sMm 0 1 0 true).qAuth 5 = true ∧ (sMm 0 1 0 true).mem.rd (0x40000 + 64 + 32 * 63 + 2) 1 = 1 ∧
    mmAt (sMm 0 0 0 true) = true ∧ (sMm 0 0 0 true).mem.rd (0x40000 + 64 + 32 * 63 + 2) 1 ≠ 1 ∧
    mmAt (sMm 1 2 4096 true) = true ∧ (sMm 1 2 4096 true).mem.rd (0x40000 + 64 + 32 * 63 + 2) 1 = 2 ∧
    ((sMm 1 2 4096 true).mem.rd (0x40000 + 56) 8 + 2 ^ 64 - (sMm 1 2 4096 true).mem.rd (0x40000 + 64 + 32 * 63 + 24) 8) % 2 ^ 64 = 4096 ∧
    mmAt (sMm 1 1 0 true) = true ∧ (sMm 1 1 0 true).mem.rd (0x40000 + 64 + 32 * 63 + 2) 1 ≠ 2 ∧ mmAt (sMm 0 1 0 false) = true ∧ mmAt (sMm 1 2 0 false) = true ∧
    (sMm 0 1 0 false).qAuth 5 = false ∧ fld (hd (sMm 0 1 0 false)) 18 1 = 0 ∧ fld (hd (sMm 1 2 0 true)) 18 1 = 1 := by decide +kernel

/-- The tables of `m0`, and an image of one strand at page 1 with an empty start and a small allotment; image slots for partition 0. -/
def mImg : Mem :=
  { Mem.reset with
    cfg := [(0x40000, 0x11001), (0x60000, 0x200004)]
    dram := ([(0x11000, 1), (0x11001, 0x20), (0x11002, 1), (0x12008, 1), (0x12009, 0x30), (0x1200A, 1), (0x13000, 1), (0x13001, 0x40), (0x13002, 1), (0x14008, 0x0F),
        (0x14009, 0x10), (0x1400A, 2)] : List (Nat × Byte)) ++
      [(0x21000, 1), (0x2100C, 2), (0x21100, 1), (0x21104, 4), (0x21109, 8), (0x21110, 3), (0x21114, 0x20), (0x21115, 3), (0x21119, 2), (0x21200, 1), (0x21204, 4),
        (0x2120C, 4), (0x21210, 4), (0x21214, 1)] }
def laPkt (va : Nat) : List (Nat × Nat × Nat) := [(0, 1, 1), (8, 8, va), (27, 1, 2), (28, 1, 16)]
def laW : Waiting := ⟨0, 7, 1, pkt (laPkt (pv 1)), 0, 0, none, false⟩
def qLa (va : Nat) : State := { sq (laPkt va) true mImg with insts := [(0, i0)] }
/-- Whether the device can read the launch's image, and whether its checks pass. -/
def touched (s : State) (ok : Bool) : Bool :=
  match (rs s).touchHead 0 (fld (hd s) 8 8) with | some u => decide (u.launchError 0 (hd s) = 0) == ok | none => false
def qLs : State := { qLa (pv 1) with mem := shutM (qLa (pv 1)).mem }
theorem meets_LaunchWork_packets : atHead (qLa (pv 1)) 1 = true ∧ (rs (qLa (pv 1))).qPart 5 = 0 ∧ touched (qLa (pv 1)) true = true ∧ atHead (qLa (pv 9)) 1 = true ∧
    touched (qLa (pv 9)) false = true ∧ atHead qLs 1 = true ∧ ((rs qLs).touchHead 0 (fld (hd qLs) 8 8)).isNone = true := by decide +kernel
/-- The strand of an instance of one core as saved, without banks; its core is free. -/
def i1 : Inst := { i0 with logw := 0, logh := 0, move := true }
def vSv : Saved := savedRec 0 ((tHold.mapSeq (fun q => { q with slots := List.replicate 16 Slot.empty })).halt .save) none false
def sRs (l : List Saved) : State := { st t0 with mem := mImg, strands := [], insts := [(0, i1)], saved := l }
def wPr : Waiting := ⟨0, 7, 1, [], 3, 5, none, false⟩
def sPl (f : Nat) : State := { st t0 with mem := mImg, insts := [(0, { i1 with move := decide (f = 1) })], waiting := if f = 2 then [] else [laW] }
def isFresh (x : Option Image) : Bool := match x with | some im => decide (im.kind = 1) | none => false
/-- The partition's HOSTEN set and an image whose AOPSET holds operators that the portal cannot carry. -/
def sPf0 : State := { sPl 0 with mem := { mImg with cfg := cfgPut mImg.cfg (offPortctl 0) 1 } }
def sPh : State := { sPf0 with mem := { sPf0.mem with dram := sPf0.mem.dram.flatMap (fun e => if e.1 = 0x2100C then [(0x2100B, 0xFF), e] else [e]) } }
def imgIs (x : Option Image) (f : Image → Bool) : Bool := match x with | some im => f im | none => false
theorem meets_LaunchWork_places : ((sPl 0).winner 0).map (·.1) = some laW ∧ (sPl 0).moving 0 = false ∧ Quiet laW.part (sPl 0).mem ∧ (sPl 0).mem.spills = [] ∧ (sPl 0).saved = [] ∧ laW.kinst = none ∧
    imgIs ((sPl 0).image 0 (fld laW.pkt 8 8)) (fun im => decide (im.kind = 1)) = true ∧ (sPl 0).mem.hosten 0 = false ∧ (sPl 1).moving 0 = true ∧ (sPl 2).winner 0 = none := by
  unfold Quiet; decide +kernel
theorem meets_LaunchWork_refused : (sPh.winner 0).map (·.1) = some laW ∧ sPh.moving 0 = false ∧
    imgIs (sPh.image 0 (fld laW.pkt 8 8)) (fun im => sPh.mem.hosten 0 && aopForeign im.aopset) = true := by decide +kernel
def vSl : Saved := { vSv with slot := some 0 }
def sRq : State := { sRs [vSl] with mem := shutM mImg }
theorem meets_LaunchWork_restores :
    ((sRs []).restoreSpot 0 = none ∧ ((sRs [vSv]).restoreSpot 0).isSome = true ∧ (sRs [vSv]).inst? 0 = some i1 ∧ i1.move = true ∧ (sRs [vSv]).savedOf 0 = [vSv] ∧
      vSv.banks = [] ∧ vSv.slot = none ∧ ((sRs [vSv]).loadSaved vSv).isSome = true) ∧
    (sRq.savedOf 0 = [vSl] ∧ (sRq.restoreSpot 0).isSome = true ∧ sRq.inst? 0 = some i1 ∧ (sRq.loadSaved vSl).isNone = true) ∧
    (0 < wPr.level ∧ { wPr with level := 0 }.level = 0) := by decide +kernel

/-- Strands that may be pre-empted, and for each condition one that may not. -/
def entryAt (s : State) (e : Nat) : State := s.setMem { s.mem with entry := e }
def tSv (w : Wait) : Strand := ({ t0 with run := .halted .save } : Strand).setWait w
def mSlots : Mem := { m0 with cfg := cfgPut (cfgPut m0.cfg (offImgcfg 0) 0x200004) (offWdcfg 0) (2 * 2 ^ 40) }
def sPe (t : Strand) : State := { st t with mem := mSlots, insts := [(0, { i1 with move := false })] }
theorem meets_PreemptWork_strands :
    (t0.run = .running ∧ t0.secp = false ∧ (sPe t0).slotsFree 0 ≠ 0 ∧ tSec.secp = true ∧ (tSv .none).run ≠ .running ∧ (st t0).slotsFree 0 = 0) ∧
    ((sPe t0).mayPreempt 0 { i1 with move := false } = true ∧ (sPe t0).moving 0 = false ∧ (st t0).mayPreempt 0 i0 = false ∧ (sPl 1).moving 0 = true) ∧
    ((sPe t0).unplaced 0 = none) ∧ ((31 : Reg) ≠ 0 ∧ 1 < 20 ∧ t0.pend 31 = false) ∧
    (Runs (sPe (tSv .none)) 0 (tSv .none) ∧ (tSv .none).run = .halted .save ∧ (tSv .none).seq.trap.raised = [] ∧
      (sPe (tSv .none)).replyFree 0 (tSv .none) = true ∧ (sPe (tSv .none)).canRelease 0 (tSv .none) = true ∧ (sPe (tSv .none)).replyFree 0 { tSv .none with seq := tAk.seq } = false) ∧
    (Runs (sPe (tSv (.release 0))) 0 (tSv (.release 0)) ∧ (sPe (tSv (.release 0))).replyFree 0 (tSv (.release 0)) = true ∧ ((sPe (tSv (.release 0))).freeSlot 0).isSome = true ∧
      (sPe (tSv (.release 0))).relDone 0 0 = true ∧ (sPe (tSv (.release 0))).admits 0 = true ∧ Quiet 0 (sPe (tSv (.release 0))).mem ∧ (entryAt (sPe t0) 1).admits 0 = false ∧
      ((sPe (tSv (.release 0))).instOf 0).evict = false) := by unfold Runs Quiet; decide +kernel
/-- A saved instance of eight by eight cores waits for the core at its position 1 in either half, which instances 0 and 8 fill; instance 0 is of a lower level than the one
that waits, or no candidate is earlier than its place. -/
def wRs : Waiting := ⟨0, 7, 1, [], 0, 0, some 9, false⟩
def sBusy (x : Nat) : State :=
  { st t0 with
    mem := mSlots
    strands := [(4 * coreAt (partX 0 + x) (partY 0), t0), (4 * coreAt (partX 0 + x + 8) (partY 0), { t0 with kinst := 8 })]
    insts := [(0, { i0 with logw := 0, logh := 0, level := 2, ox := partX 0 + x, oy := partY 0 }), (8, { i0 with logw := 0, logh := 0, level := 0, priv := true, ox := partX 0 + x + 8, oy := partY 0 }), (9, { i0 with logw := 3, logh := 3 })]
    saved := [{ vSv with kinst := 9, lin := x }]
    waiting := [wRs]
    clock := 131072 }
theorem meets_PreemptWork_compaction : (sBusy 1).moving 0 = false ∧ (sBusy 1).stuck 0 = some wRs ∧
    (match (sBusy 1).wants wRs with | some x => (sBusy 1).suffices x.1 x.2 | none => false) = true ∧
    ((sBusy 1).compactPick 0 0 0).map (·.1) = some 0 := by decide +kernel
theorem meets_PreemptWork_priority : (sBusy 0).moving 0 = false ∧ (sBusy 0).unplaced 0 = some wRs ∧ (∀ e ∈ (sBusy 0).strands, e.2.run ≠ .halted .save) ∧
    (sBusy 0).victims wRs ((sBusy 0).lowerInsts 0 wRs) = some [0] ∧ ((sBusy 0).standing 0).length ≤ (sBusy 0).slotsFree 0 ∧
    (sBusy 0).mayPreempt 0 ((sBusy 0).instOf 0) = true := by decide +kernel
theorem meets_PreemptWork_quantum : bitsOf (cfgGet (sBusy 0).mem.cfg (offWdcfg 0)) 40 16 = 2 ∧ 0 + 2 * 65536 = (sBusy 0).clock ∧
    (sBusy 0).competing 0 = [wRs] ∧ wRs.level ≤ 2 ∧ (sBusy 0).spotFor wRs = none ∧ (sBusy 0).mayPreempt 0 ((sBusy 0).instOf 0) = true := by decide +kernel

/-- A halted strand alone and beside another of its instance; one that escalated; a count at the watchdog's limit and below it; hop headers; queues of two partitions. -/
def tEnd : Strand := t0.setWait .halted
def iPkt : Inst := { i0 with pkt := some (7, 3), count := 5 }
def qGo : Queue := ⟨.active, 0, 4, 6, 3, [⟨3, 1, 0, .started, none⟩], [], 0, none⟩
def sEn (t : Strand) (l : List (Nat × Strand)) : State := { st t with mem := mSlots, strands := (0, t) :: l, insts := [(0, iPkt)], queues := [(7, qGo)] }
def tKeep : Strand := { t0 with run := .halted .keep }
def vRst (b : Nat) : BitVec 64 := BitVec.ofNat 64 (2 ^ 63 + b)
def sRe : State := { sEn t0 [] with mem := { m0 with cfg := cfgPut (cfgPut (cfgPut m0.cfg (offQcfg 7) 0x30012) (offQcfg 9) 0x40010) (offQpart 9) 1 }, queues := [(7, qGo), (9, qGo)] }
theorem meets_EndsAndResets :
    (Runs (sEn tEnd [(4, t0)]) 0 tEnd ∧ tEnd.run = .running ∧ tEnd.seq.wait = .halted ∧ (sEn tEnd [(4, t0)]).strand? 4 = some t0 ∧ t0.kinst = tEnd.kinst ∧ t0.seq.wait ≠ .halted) ∧
    (Runs (sEn tEnd []) 0 tEnd ∧ (sEn tEnd []).standing 0 = [(0, tEnd)] ∧ (sEn tEnd []).savedOf 0 = [] ∧ ((sEn tEnd []).instOf 0).pkt = some (7, 3) ∧
      InProgress (sEn tEnd []) 7 3 1) ∧
    (Runs (sEn tKeep []) 0 tKeep ∧ tKeep.run = .halted .keep ∧ (sEn tKeep []).standing 0 = [(0, tKeep)] ∧ (sEn tKeep []).replyFree 0 tKeep = true ∧
      (sEn tKeep []).admits ((sEn tKeep []).instOf 0).part = true ∧ t0.run ≠ .halted .keep ∧ (sEn tKeep []).slotsFree 0 ≠ 0 ∧ tKeep.seq.wait = .none ∧
      (sEn tKeep []).canRelease 0 tKeep = true) ∧
    ((sEn t0 []).inst? 0 = some iPkt ∧ 5 ≤ iPkt.count ∧ bitsOf (cfgGet (cfgPut [] (offWdcfg 0) 5) (offWdcfg 0)) 0 40 = 5 ∧ bitsOf (cfgGet (cfgPut [] (offWdcfg 0) 0) (offWdcfg 0)) 0 40 = 0) ∧
    ((vRst (2 ^ 61)).getLsbD 63 = true ∧ (vRst (2 ^ 61)).getLsbD 61 = true ∧ bitsOf (vRst (2 ^ 61)).toNat 0 16 = 0 ∧ iPkt.priv = false ∧ iPkt.evict = false ∧ iPkt.esc = none ∧
      (sEn t0 []).standing 0 ≠ [] ∧ ((sEn t0 []).standing 0).countP (fun e => decide (e.2.run = .running)) ≤ (sEn t0 []).slotsFree 0) ∧
    (hopsBad 8 0x30 false = true ∧ hopsBad 8 0 false = false) ∧
    ((vRst (2 ^ 62 + 11 * 65536)).getLsbD 62 = true ∧ bitsOf (vRst (2 ^ 62 + 11 * 65536)).toNat 16 4 = 11 ∧ (vRst (2 ^ 60)).getLsbD 60 = true ∧ (vRst 0).getLsbD 62 = false) ∧
    (Firmware (ag (sEn t0 []) 8 0 1) 1 ∧ (sEn t0 []).boot.st = 1 ∧ (sEn t0 []).agent.c < 1) ∧
    (sRe.agent.a = 0 ∧ (tblFind sRe.queues 7).isSome = true ∧ sRe.qOn 7 = true ∧ sRe.qPart 7 = 0 ∧ sRe.qPart 9 = 1) := by unfold Runs InProgress Firmware; decide +kernel
/-- The same escalation held by the sweeps, waiting for its release, after it, with no image slot free, in another partition's entry, with a reply to come; the last partition's reset. -/
def tKl : Strand := tKeep.mapCtl (fun c => { c with cseq := 120 })
def tKw : Strand := tKeep.setWait (.release 4)
def sKs (r : List RelBc) : State := { sEn tKw [] with mem := { mSlots with rel := r } }
def sK0 : State := { sEn tKeep [] with mem := m0 }
theorem meets_EndsAndResets_escalation :
    (Runs (sEn tKl []) 0 tKl ∧ (sEn tKl []).standing 0 = [(0, tKl)] ∧ (sEn tKl []).replyFree 0 tKl = true ∧ (sEn tKl []).slotsFree 0 ≠ 0 ∧ tKl.seq.wait = .none ∧
      (sEn tKl []).canRelease 0 tKl = false) ∧
    (Runs (sKs [⟨0, 4, [7]⟩]) 0 tKw ∧ (sKs [⟨0, 4, [7]⟩]).slotsFree 0 ≠ 0 ∧ tKw.seq.wait = .release 4 ∧ (sKs [⟨0, 4, [7]⟩]).relDone 0 4 = false ∧
      (sKs [⟨0, 4, [7]⟩]).replyFree 0 tKw = true ∧ (sKs [⟨0, 4, [7]⟩]).standing 0 = [(0, tKw)]) ∧
    (Runs (sKs []) 0 tKw ∧ (sKs []).relDone 0 4 = true ∧ (sKs []).replyFree 0 tKw = true ∧ Quiet (partOfSn 0) (sKs []).mem) ∧
    (Runs sK0 0 tKeep ∧ sK0.slotsFree 0 = 0 ∧ sK0.replyFree 0 tKeep = true ∧ sK0.admits 0 = true ∧ Quiet (partOfSn 0) sK0.mem) ∧
    ((entryAt (sEn tKeep []) 1).admits 0 = false ∧ (sEn tKeep []).replyFree 0 (tKeep.mapSeq (fun _ => tAk.seq)) = false) ∧
    ((ag sRe 11 0 0).agent.a = 11 ∧ (ag sRe 1 0 0).qPart 9 = 1 ∧ (ag sRe 1 0 0).qPart 4095 ≠ 1) := by unfold Runs Quiet; decide +kernel

/-- Plain registers, the first and the last of a function's ranges, key slot 31 idle and not, a bank to scrub at its time and before it, a privileged launch. -/
def mVf : Mem := { m0 with cfg := cfgPut (cfgPut (cfgPut m0.cfg (offKstat 31) 2) (offPctx 31) (3 * 2 ^ 32 + 2 ^ 63)) (offPcbank 31 0) 77 }
def sFa : State := { st t0 with mem := { mVf with unclr := [(192, 65536), (5, 0)], scrubs := [31], scrubAt := 1000, cfg := cfgPut mVf.cfg (offScrprog 31) (3 * 2 ^ 32) }, clock := 2024, agent := ⟨192, 0, 0⟩ }
def isBk (x : Option ScrubUnit) (b : Nat) : Bool := match x with | some (.bank c) => decide (c = b) | _ => false
def sSl : State := { st t0 with mem := mImg.poke 0x30000 (clean (pkt (laPkt (pv 1)))), agent := ⟨8, 0, 3⟩ }
def slOk : Bool :=
  match sSl.mem.ownRead 0 (bitsOf (vRst 0x30000).toNat 6 52 * 64) 64 with
  | some (l, m) => pktOk (pbBytes l) && decide (fld (pbBytes l) 0 1 = 1) &&
    (match (sSl.setMem m).touchHead 0 (fld (pbBytes l) 8 8) with | some u => decide (u.launchError 0 (pbBytes l) = 0) | none => false)
  | none => false
theorem meets_FirmwareActs : sFa.boot.st = 1 ∧ cfgMode 0x7FF000 = none ∧
    (cfgMode offPwrlim = some 3 ∧ (plainReg offPwrlim).isSome = true ∧ cfgMode (offPshare 11) = some 1 ∧ (plainReg (offPshare 11)).isSome = true) ∧
    (Firmware (ag sFa 8 0 3) 3 ∧ sFa.agent.c < 3) ∧ ((0 : Nat) < 3 ∧ ([0, 0, 0, 0] : List (BitVec 8)).length ≠ 8 ∧ (List.replicate 8 (0 : BitVec 8)).length = 8) ∧ sFa.mem.keysAt 65536 = [] ∧
    (sFa.mem.unclr.find? (fun x => decide (x.1 = sFa.agent.a)) = some (192, 65536) ∧ sFa.mem.devOpen 65536 = true) ∧
    (keyReg 0x10 = true ∧ keyReg 0xF8 = true ∧ m0.kst 31 = 0 ∧ mVf.kst 31 ≠ 0) ∧
    (sFa.mem.scrubs = 31 :: [] ∧ bitsOf (cfgGet sFa.mem.cfg (offScrprog 31)) 0 24 = 0 ∧ isBk (sFa.mem.scrubUnits 31)[0]? 77 = true ∧ sFa.mem.scrubAt + 1024 ≤ sFa.clock ∧
      0 + 1 < bitsOf (cfgGet sFa.mem.cfg (offScrprog 31)) 32 24 ∧ ({ sFa with clock := 2023 } : State).clock < sFa.mem.scrubAt + 1024) := by unfold Firmware; decide +kernel
/-- The unit of a function that a zeroed key slot's only range covers. -/
def sFk : State :=
  { sFa with mem := { sFa.mem with cfg := cfgPut (cfgPut sFa.mem.cfg (offPctx 31) (2 ^ 40 + 2 ^ 63)) (offKrange 31 0) (1 * 65536 + 1) } }
theorem unitShut_all (m : Mem) (u : Nat) (h : ∀ k r, k = 31 → r = 0 → bitsOf (cfgGet m.cfg (offKstat k)) 0 2 = 2 ∧ bitsOf (cfgGet m.cfg (offPctx k)) 40 4 = 1 ∧
    bitsOf (cfgGet m.cfg (offKrange k r)) 16 23 * 65536 = u ∧ bitsOf (cfgGet m.cfg (offKrange k r)) 0 16 = 1) (pa : Nat) (h1 : u ≤ pa) (h2 : pa < u + 65536) : m.keyShut pa = true := by
  obtain ⟨a, b, c, d⟩ := h 31 0 rfl rfl
  unfold Mem.keyShut Mem.keysAt
  simp only [List.any_map, List.any_filter, List.any_eq_true]
  refine ⟨31, by decide, ?_⟩
  simp only [a, b, Function.comp, Bool.and_eq_true, decide_eq_true_eq, List.any_eq_true]
  exact ⟨⟨by decide, 0, by decide, by omega, by omega⟩, by decide⟩
theorem meets_FirmwareActs_shut : sFk.mem.unclr.find? (fun x => decide (x.1 = sFk.agent.a)) = some (192, 65536) ∧ sFk.mem.devOpen 65536 = true ∧
    ∀ pa, 65536 ≤ pa → pa < 65536 + 65536 → sFk.mem.keyShut pa = true :=
  ⟨by decide +kernel, by decide +kernel, unitShut_all _ _ (by rintro k r rfl rfl; decide +kernel)⟩
theorem meets_FirmwareActs_launch : (vRst 0x30000).getLsbD 63 = true ∧ bitsOf (vRst 0x30000).toNat 0 4 = 0 ∧
    Firmware sSl 3 ∧ slOk = true := by unfold Firmware; decide +kernel

/-- In M mode with a version above MINVER and at it; in recovery with a staging area that fails its first check; with an accepted image about to be
written over the flash. -/
def sBo (st v : Nat) : State := ({ State.reset with boot := { Boot.reset with st := st, version := v, minver := 3 } } : State).setOwner 3 0 false
def sBw : State := { sBo 2 4 with boot := { (sBo 2 4).boot with rmstat := 2 }, agenda := [.flashWrite] }
def sVf (c : Nat) : State := { sBo 1 4 with mem := { m0 with cfg := cfgPut m0.cfg (offVfcfg 192) c } }
theorem meets_BootWork_function : (sVf 0x1B).boot.st = 1 ∧ bitOf (cfgGet (sVf 0x1B).mem.cfg (offVfcfg 192)) 4 = true ∧ bitsOf (cfgGet (sVf 0x1B).mem.cfg (offVfcfg 192)) 0 4 = 11 ∧
    12 ≤ bitsOf (cfgGet (sVf 0x1C).mem.cfg (offVfcfg 192)) 0 4 ∧ bitOf (cfgGet (sVf 0x0B).mem.cfg (offVfcfg 192)) 4 = false := by decide +kernel
theorem meets_BootWork : (sBo 1 4).boot.st ≠ 2 ∧ (sBo 2 4).boot.st = 2 ∧ bootCheck (sBo 2 4).boot.staging 3 ≠ 0 ∧ bootCheck (sBo 2 4).boot.flash 3 ≠ 0 ∧ (sBo 1 4).boot.st = 1 ∧
    (sBo 1 4).boot.minver < (sBo 1 4).boot.version ∧ (sBo 1 3).boot.version ≤ (sBo 1 3).boot.minver ∧ (sBo 1 4).owner ≠ 0 ∧ State.reset.owner = 0 ∧
    (sBo 2 4).boot.rmstat ≠ 2 ∧ (sBw.boot.rmstat = 2 ∧ sBw.boot.st = 2 ∧ sBw.agenda = .flashWrite :: []) := by decide +kernel
/-- An image of 2^20 bytes and version 3 that the checks of hash and signature accept passes every check. -/
def flashOk : Tbl Byte := [(0, 0x46), (1, 0x4D), (2, 0x49), (3, 0x4B), (4, 3), (10, 0x10)]
theorem meets_BootWork_accepted (h1 : sm3 (slice (imgBytes flashOk 0 256) 48 64) = Config.keyHash)
    (h2 : sm3 (imgBytes flashOk 256 (2 ^ 20)) = digestOf (slice (imgBytes flashOk 0 256) 16 32)) (h3 : imageSigned (imgBytes flashOk 0 256) = true) :
    bootCheck flashOk 3 = 0 := by
  have e1 : ¬ (fld (imgBytes flashOk 0 256) 0 4 ≠ 0x4B494D46 ∨ fld (imgBytes flashOk 0 256) 176 80 ≠ 0 ∨ fld (imgBytes flashOk 0 256) 8 8 < 2 ^ 20 ∨
      2 ^ 26 < fld (imgBytes flashOk 0 256) 8 8) := by decide +kernel
  have e2 : ¬ fld (imgBytes flashOk 0 256) 4 4 < 3 := by decide +kernel
  have e3 : fld (imgBytes flashOk 0 256) 8 8 = 2 ^ 20 := by decide +kernel
  unfold bootCheck
  dsimp only
  rw [if_neg e1, if_neg (fun h => h h1), if_neg e2, e3, if_neg (fun h => h h2), if_neg (by simp [h3])]

/-- Masters 1 and 3, an offer at its last moment and after it; cores with live strands. -/
def sOw (own off clk : Nat) (p : Bool) : State := ({ st t0 with offered := 5000, clock := clk } : State).setOwner own off p
theorem meets_OwnershipAndPower : (sOw 0 0 0 false).owner = 0 ∧ ((sOw 1 3 2100004999 true).offerPend = true ∧ (sOw 1 3 2100004999 true).offer = 3 ∧
      (sOw 1 3 2100004999 true).clock < (sOw 1 3 2100004999 true).offered + 2100000000 ∧ (sOw 1 3 2100004999 true).owner = 1) ∧
    ((sOw 1 3 2100005000 true).owner ≠ 0 ∧ (sOw 1 3 2100005000 true).offered + 2100000000 ≤ (sOw 1 3 2100005000 true).clock ∧ (sOw 1 3 2100005000 true).offerPend = true) ∧
    ((st t0).strand? 0 = some t0 ∧ coreOfSn 0 ∈ coresOfPart 0 ∧ coreOfSn 0 ∈ (st t0).livesOf 0) ∧ (sOw 1 0 0 false).boot.st = 1 ∧ (sBo 2 4).boot.st ≠ 1 ∧
    (({ sOw 1 0 0 false with agenda := [.command 1 .pschedldGo] } : State).agenda = .command 1 .pschedldGo :: [] ∧ commandOf .pschedldGo = true ∧ (sOw 1 0 0 false).owner = 1) := by decide +kernel

/-- Group descriptors: the last member present with package 5, one with none present, one whose only member's TICKET names the record or the one before. -/
def mTk : Mem := (((m0.wr (0x40000 + 64 + 32 * 63 + 2) 1 1).wr (0x40000 + 64 + 32 * 63) 2 5).wr (0x40000 + 16) 8 0x50000).wr (0x40000 + 24) 8 256
def sPf (q tick : Nat) : State :=
  ag { st t0 with mem := ((((m0.wr (0x40000 + 56) 8 q).wr (0x40000 + 4) 1 1).wr (0x40000 + 64 + 2) 1 1).wr (0x40000 + 64 + 8) 4 tick) } 0x40000 0 0
theorem meets_CollectiveWork_writes : (mTk.rd (0x40000 + 24) 8 = 256 ∧ mTk.rd (0x40000 + 64 + 32 * 63 + 2) 1 = 1 ∧ mTk.rd (0x40000 + 64 + 32 * 63) 2 = 5 ∧
      mTk.rd (0x40000 + 64 + 2) 1 ≠ 1 ∧ 248 + 8 ≤ mTk.rd (0x40000 + 24) 8) ∧
    (mTk.ownWrite 12 (0x50000 + 63 * 256 + 248) (pbOf 8 7 false)).isSome = true ∧ ((shutM mTk).ownWrite 12 (0x50000 + 63 * 256 + 248) (pbOf 8 7 false)).isNone = true := by
  decide +kernel
theorem meets_CollectiveWork_records :
    (let s := sPf (2 ^ 64 - 1) (2 ^ 32 - 1)
     s.mem.rd (0x40000 + 56) 8 = 2 ^ 64 - 1 ∧ min (s.mem.rd (0x40000 + 4) 1) 64 = 1 ∧ s.mem.lines = [] ∧ s.mem.unclr = [] ∧ s.mem.edge = [] ∧ quietB 12 s.mem = true ∧ s.mem.rd (0x40000 + 64 + 2) 1 = 1 ∧
       s.mem.rd (0x40000 + 64 + 8) 4 = (2 ^ 64 - 1) % 2 ^ 32 ∧ s.mem.rd (0x40000 + 64 + 4) 4 ≤ s.mem.rd (0x40000 + 64 + 12) 4) ∧
    (sPf 7 6).mem.rd (0x40000 + 64 + 8) 4 ≠ 7 ∧ m0.rd (0x40000 + 4) 1 = 0 := by decide +kernel
theorem hashF_lt (n a : Nat) (row : Nat → Nat) : hashF n a row < 2 ^ n := by
  induction n with
  | zero => simp [hashF]
  | succ n ih =>
    have h : b2n (parityN 19 (Nat.land (bitsOf a 13 19) (row n))) ≤ 1 := by cases parityN 19 (Nat.land (bitsOf a 13 19) (row n)) <;> decide
    have := Nat.mul_le_mul_right (2 ^ n) h
    simp only [hashF, Nat.pow_succ]; omega
theorem meets_CollectiveWork_open : (∀ k, m0.keysAt k = []) ∧ (∀ k, m0.offline k = false) := by
  constructor <;> intro k
  · have h : ∀ x ∈ span 0 32, bitsOf (cfgGet m0.cfg (offKstat x)) 0 2 = 0 := by decide +kernel
    simp only [Mem.keysAt, List.map_eq_nil_iff, List.filter_eq_nil_iff]
    intro x hx; simp [h x hx]
  · have h : ∀ a < 8, ∀ b < 2, cfgGet m0.cfg (offPcoff a b) = 0 := by decide +kernel
    have hs : stackOf k < 8 := Nat.mod_lt _ (by decide)
    have hp : m0.pcOf k < 2 ^ 7 := Nat.xor_lt_two_pow (Nat.mod_lt _ (by decide)) (hashF_lt 7 _ _)
    simp [Mem.offline, h _ hs (m0.pcOf k / 64) (by omega), bitOf]

/-- Strand 0 about to issue the word at the start of page 0: an `add`, an unassigned function, a SEC word. -/
def sIs (w : Nat) : State := { sm t0 with mem := m0.putWords 0x20000 4 w, agenda := [.issue 0] }
def gets (w : Nat) (ok : Instr → State → Bool) : Bool :=
  match ({ sIs w with agenda := [], agent := ⟨0, 0, 0⟩ } : State).fetch 0 t0 with
  | (.ok v f, s1) => decide (v.toNat = w ∧ s1.strand? 0 = some t0) &&
      (match decodeWords v f with | .ok i => ok i s1 | .error _ => ok .nop s1)
  | _ => false
/-- Whether the instruction goes on from the state in which it is the one in hand. -/
def goesOn (w : Nat) (i : Instr) (s1 : State) : Bool :=
  match exec i (s1.setStrand 0 (t0.mapSeq (fun q => { q with ir := (BitVec.ofNat 32 w, 0) }))) with
  | .next s3 => !((s1.setStrand 0 (t0.mapSeq (fun q => { q with ir := (BitVec.ofNat 32 w, 0) }))).stalled s3 0)
  | _ => false
def isErr (w : Nat) : Bool := match decodeWords (BitVec.ofNat 32 w) 0 with | .error _ => true | _ => false
theorem meets_StepRunsDecoded_words : (sIs 0x04642800).agenda = .issue 0 :: [] ∧ (sIs 0x04642800).strand? 0 = some t0 ∧ t0.run = .running ∧ t0.seq.wait = .none ∧
    t0.seq.trap.raised = [] ∧ gets 0x04642800 (goesOn 0x04642800) = true ∧ (gets 0x046428FF (fun _ _ => true) = true ∧ isErr 0x046428FF = true) ∧
    (gets 0xD8000000 (fun _ _ => true) = true ∧ fOp (0xD8000000#32) = 0x36#6 ∧ t0.secp = false) ∧ Handles t0 := by unfold Handles; decide +kernel
/-- A step of an event and one of a row; a fetch that misses in the cache. -/
def sIf : State := { sNk { nRun with req := { nReq with rows := [(encode .nend).headD 0] }, row := 0 } with agenda := [.row nk] }
def m0f (w : Nat) : Mem := m0.putWords 0x20000 4 w
def fetched (w : Nat) (x : MR SRes) : Bool := match x with | .ok r _ => !pbPois r.old && decide (pbNat r.old = w) | _ => false
theorem meets_StepRunsDecoded_others : ({ st t0 with agenda := [.event .hang 0 0 0] } : State).agenda = .event .hang 0 0 0 :: [] ∧ (sIf.nodeRow nk).isSome = true ∧
    State.reset.agenda = [] ∧ (sIs 0x04642800).admits 0 = true ∧ inWindow t0.seq.pc.toNat = false ∧ ((sIs 0x04642800).core (coreOfSn 0)).ic = [] ∧ isLong 0x04642800#32 = false ∧
    (match (m0f 0x04642800).page 0 0 t0.seq.pc.toNat .x with
      | (.ok l, m) => decide (l.place t0.seq.pc.toNat = .frame 0x20000) && fetched 0x04642800 (m.at 0 ⟨0, 0, 5, 0, false, false, 0⟩ .read (.frame 0x20000) 4 id)
      | _ => false) = true := by decide +kernel

theorem meets_DecodeEncodeAgree : (Instr.add 3 4 5).wf = true ∧ (Instr.add 3 4 5).isRow = false ∧ encode (.add 3 4 5) = [0x04642800] ∧
    (encode (.gath 31 4 0 8 6 1024)).length = 2 ∧ (Instr.gath 31 4 0 8 6 1024).wf = true ∧ ((Instr.nscan 6 7 14).wf = true ∧ (Instr.nscan 6 7 14).isRow = true) ∧
    (match decodeWords 0x04642800 0 with | .ok i => decide (i = .add 3 4 5) | _ => false) = true ∧
    (match decodeRow ((encode (.nscan 6 7 14)).headD 0) with | .ok i => decide (i = .nscan 6 7 14) | _ => false) = true := by decide +kernel
theorem meets_StepKeepsScheduleLegal : ScheduleLegal State.reset ∧ (match step State.reset with | .next _ => true | _ => false) = true := by
  unfold ScheduleLegal; decide +kernel

/-! ### Results that the spec gives -/

/-- The register of strand 0 after an instruction from the state with the registers given. -/
def resultOf (i : Instr) (l : List (Nat × Nat)) (r : Reg) : Option Nat :=
  match exec i (st (sg t0 l)) with
  | .next s => (s.strand? 0).map (fun t => (t.g r).toNat)
  | _ => none
/-- The same for FPSTAT. -/
def flagsOf (i : Instr) (l : List (Nat × Nat)) : Option Nat :=
  match exec i (st (sg t0 l)) with
  | .next s => (s.strand? 0).map (fun t => t.seq.ctl.fpstat.toNat)
  | _ => none
/-- The example of R163, and its corner. -/
theorem test_div : resultOf (.div 3 4 5) [(4, 2 ^ 64 - 7), (5, 2)] 3 = some (2 ^ 64 - 3) ∧ resultOf (.rem 3 4 5) [(4, 2 ^ 64 - 7), (5, 2)] 3 = some (2 ^ 64 - 1) ∧
    resultOf (.divn 3 4 5) [(4, 7)] 3 = some (2 ^ 64 - 1) ∧ resultOf (.remn 3 4 5) [(4, 7)] 3 = some 7 ∧
    resultOf (.div 3 4 5) [(4, 2 ^ 63), (5, 2 ^ 64 - 1)] 3 = some (2 ^ 63) ∧ resultOf (.rem 3 4 5) [(4, 2 ^ 63), (5, 2 ^ 64 - 1)] 3 = some 0 := by decide +kernel
/-- R164: the immediates' extensions. -/
theorem test_imm : resultOf (.addi 3 4 0xFFFF) [(4, 0)] 3 = some (2 ^ 64 - 1) ∧ resultOf (.andi 3 4 0xFFFF) [(4, 2 ^ 64 - 1)] 3 = some 0xFFFF ∧
    resultOf (.lui 3 0xFFF0) [] 3 = some (2 ^ 64 - 2 ^ 20) ∧ resultOf (.addi 0 4 1) [(4, 5)] 0 = some 0 := by decide +kernel
/-- The examples after R181: -2.75 is 0xC006000000000000, -0.5 and -1.0 in FP32; NX is bit 4, NV bit 0, SAT bit 5 of FPSTAT (R57, R58). -/
theorem test_fcvt : resultOf (.fcvtfi 3 4 1 1) [(4, 0xC006000000000000)] 3 = some (2 ^ 64 - 2) ∧ resultOf (.fcvtfi 3 4 1 2) [(4, 0xC006000000000000)] 3 = some (2 ^ 64 - 3) ∧
    flagsOf (.fcvtfi 3 4 1 1) [(4, 0xC006000000000000)] = some 16 ∧ resultOf (.fcvtfn 3 4 0 0) [(4, 0xBF000000)] 3 = some 0 ∧
    flagsOf (.fcvtfn 3 4 0 0) [(4, 0xBF000000)] = some 16 ∧ resultOf (.fcvtfn 3 4 0 0) [(4, 0xBF800000)] 3 = some 0 ∧ flagsOf (.fcvtfn 3 4 0 0) [(4, 0xBF800000)] = some 33 := by decide +kernel
/-- The example of R110: stack 1, die 0, slice 7. -/
theorem test_home : stackOf 0x1000034580 = 1 ∧ bitsOf 0x1000034580 7 32 = 0x2000068B ∧ homeOfPa 0x1000034580 = 7 := by decide +kernel
/-- The example after R213: `adds.i8x4` saturates each byte. -/
theorem test_adds : (cwValue { Cw.of 0 with fn := 0x03, ty := 2 } ⟨0, false, false⟩ 0 0x7F800102 0x0180FF7F 0).v = 0x7F80007F := by decide +kernel
/-- The example of R272, after the copy: `arradd` of 2,000 to COUNT 3,072 with TARGET 4,096. -/
theorem test_arrive : (⟨4096, 3072, 0, 0, 1, 0⟩ : ArrObj).arrive 2000 0 = ⟨4096, 976, 1, 0, 0x100, 1⟩ := by decide +kernel
/-- The example after R325: the bf16x2 sum rounds to what was there, and is inexact; `amoinc` and `amodec` wrap. -/
theorem test_atomics : (⟨.faddB2, 32, 0x3B803B80, false, 0, false, false, none, false, false⟩ : Atom).apply (pbOf 4 0x3F804000 false) = pbOf 4 0x3F804000 false ∧
    (⟨.inc, 32, 5, false, 0, false, false, none, false, false⟩ : Atom).apply (pbOf 4 5 false) = pbOf 4 0 false ∧
    (⟨.dec, 32, 5, false, 0, false, false, none, false, false⟩ : Atom).apply (pbOf 4 0 false) = pbOf 4 5 false := by decide +kernel
/-- The reset machine runs the word that stands where it fetches next: `addi g3, g0, 1` (R81's example). -/
def runsFirst (nbits w : Nat) (r : Reg) : Option Nat :=
  match step (State.reset.withFetchWord nbits w) with
  | .next s => (s.strand? 0).map (fun t => (t.g r).toNat)
  | _ => none
theorem test_runs_first : runsFirst 32 0x08600001 3 = some 1 := by decide +kernel

/-- R379: a value is 4 bytes and a byte with V in bit 0 and P in bit 1, and a record is padded to a multiple of 8 bytes. -/
theorem test_image_record : recBytes 1 [(0x12345678, true, true)] = [0x78, 0x56, 0x34, 0x12, 3, 0, 0, 0] := by decide
/-- R379: what a record holds is read back. -/
theorem test_image_read : readVals 2 (recBytes 2 [(5, true, false), (0xFFFFFFFF, false, true)]) = [(5, true, false), (0xFFFFFFFF, false, true)] := by decide

/-! ### Loads, stores and atomics of pages -/

/-- Pages 1 and 2 plain, 3 and 4 race-checked, and 5 strongly ordered. -/
def mTwo : Mem := mp [(1, 0x2100F), (2, 0x2200F), (3, 0x2302F), (4, 0x2402F), (5, 0x2504F)]
def pgB (m : Mem) (va n : Nat) (perm : Perm) (f : Leaf → Leaf → Bool) : Bool :=
  decide (inWindow va = false ∧ inWindow (va + n - 1) = false ∧ va + n ≤ 2 ^ 64) &&
  match m.page 0 0 va perm with
  | (.ok l1, m1) =>
    if (va + n - 1) / 4096 = va / 4096 then l1.sameAttr l1 && f l1 l1
    else (match m1.page 0 0 ((va + n - 1) / 4096 * 4096) perm with | (.ok l2, _) => l1.sameAttr l2 && f l1 l2 | _ => false)
  | _ => false
def tPg : Strand := sp (sg t0 [(4, pv 1 + 8), (5, pv 1 + 4092), (6, pv 3 + 4088), (7, pv 5 + 8), (8, pv 3 + 120), (9, pv 9), (10, 2 ^ 62), (11, pv 5 + 1), (12, pv 3 + 124), (13, pv 0), (14, pv 3 + 4092)]) [3]
def sTw (t : Strand) : State := { st t with mem := mTwo }
def pSco : Part := ⟨pv 5, 8, .frame 0x25000, false, true, false, false, false, pbOf 8 7 false⟩
def tSco : Strand := tPg.mapSeq (fun q => { q with stores := [⟨16, 1, false, pv 5, [pSco], false⟩], seq := 2, nextId := 17 })
theorem meets_LoadStoreIssues_pages : (Runs (sTw tPg) 0 tPg ∧ tPg.busy [3, 4] = false ∧ tPg.gp 4 = false ∧ tPg.loadFull = false ∧ tPg.seq.stores.countP (fun x => !x.arr) < 16) ∧
    pgB mTwo (effAddr tPg 4 0) 8 .r (fun l _ => !l.rc && !l.sco) = true ∧ pgB mTwo (effAddr tPg 5 0) 8 .w (fun l k => !l.rc && !l.sco && decide (l ≠ k)) = true ∧
    (pgB mTwo (effAddr tPg 6 0) 8 .w (fun l _ => l.rc) = true ∧ aligned (effAddr tPg 6 0) 8 = true) ∧
    (pgB mTwo (effAddr tPg 7 0) 8 .r (fun l _ => l.sco) = true ∧ aligned (effAddr tPg 7 0) 8 = true ∧ tPg.scoBusy = false) ∧
    (Runs (sTw tSco) 0 tSco ∧ tSco.scoBusy = true ∧ tSco.busy [3, 7] = false ∧ tSco.gp 7 = false ∧ tSco.loadFull = false) ∧
    (pgB mTwo (effAddr tPg 8 3) 4 .r (fun l _ => l.rc) = true ∧ aligned (effAddr tPg 8 3) 4 = false ∧ effAddr tPg 8 3 / 128 = (effAddr tPg 8 3 + 4 - 1) / 128) ∧
    tPg.seq.ctl.ackcnt + 2 ≤ 1024 := by unfold Runs; decide +kernel
def parksB (x : Xl × Mem) : Bool := match x with | (.park _ _ _, _) => true | _ => false
def xlateB (x : Xl × Mem) : Bool := match x with | (.xlate, _) => true | _ => false
def leafB (x : Xl × Mem) (f : Leaf → Bool) : Bool := match x with | (.leaf l, _) => f l | _ => false
theorem meets_AccessTraps_pages : (Runs (sm tPg) 0 tPg ∧ Handles tPg ∧ tPg.busy [1, 13] = false ∧ tPg.gp 13 = false) ∧
    leafB (m0.translate 0 0 (effAddr tPg 13 0)) (fun l => !l.allows .w && !l.allows .rw && l.allows .r) = true ∧
    (xlateB (m0.translate 0 0 (effAddr tPg 10 0)) = true ∧ inWindow (effAddr tPg 10 0) = false ∧ effAddr tPg 10 0 + 8 ≤ 2 ^ 64) ∧
    parksB (m0.translate 0 0 (effAddr tPg 9 0)) = true ∧
    (match m0.page 0 0 (effAddr tPg 5 0) .r with
      | (.ok l1, m1) => (match m1.page 0 0 ((effAddr tPg 5 0 + 8 - 1) / 4096 * 4096) .r with | (.ok l2, _) => !l1.sameAttr l2 | _ => false)
      | _ => false) = true ∧
    (pgB mTwo (effAddr tPg 11 0) 8 .r (fun l _ => l.sco) = true ∧ aligned (effAddr tPg 11 0) 8 = false) ∧
    (pgB mTwo (effAddr tPg 12 0) 8 .w (fun l _ => l.rc) = true ∧ aligned (effAddr tPg 12 0) 8 = false ∧ effAddr tPg 12 0 / 128 ≠ (effAddr tPg 12 0 + 8 - 1) / 128) ∧
    (pgB mTwo (effAddr tPg 14 0) 8 .w (fun l k => l.rc && decide (l ≠ k)) = true ∧ aligned (effAddr tPg 14 0) 8 = false) ∧
    (tPg.busy [3, 4, 0] = false ∧ tPg.gp 3 = true ∧ tPg.gp 1 = false ∧ redirOk ((sm tPg).instOf 0) 64 ((sg tPg [(1, 2 ^ 56)]).g 1).toNat = false ∧
      redirOk ((sm tPg).instOf 0) 64 ((sg tPg [(1, 0x4000000F8)]).g 1).toNat = true ∧ tPg.seq.reds.length < 64 ∧ (tPg.g 9).toNat % 8 = 0) := by unfold Runs Handles; decide +kernel

/-- A load whose bytes are all there, retired and not; one that the constant cache serves; stores to a frame and to the host. -/
def pDone : Part := ⟨pv 1 + 4, 2, .frame 0x21004, false, false, false, false, true, [(0x80, true), (0x7F, false)]⟩
def aDone (rc : Bool) : Acc := ⟨7, 5, 31, pv 1 + 4, .load 2 true, [pDone], rc, false⟩
def tLdd (a : Acc) : Strand := t0.mapSeq (fun q => { q with loads := [a], seq := 9, nextId := 9 })
def pCc : Part := ⟨pv 0 + 2, 2, .frame 0x20002, false, false, true, true, false, []⟩
def aCc : Acc := ⟨7, 5, 3, pv 0 + 2, .load 2 false, [pCc], false, false⟩
def sCc : State := { ag (sm (tLdd aCc)) 0 7 0 with cores := [(0, { Core.fresh with cc := [⟨0x20000 / 128, pbOf 128 0x1234560000 false⟩] })] }
def aRcl : Acc := { aLd with id := 17, va := pv 2 + 8, parts := [{ pRc with data := [] }], rc := true }
def sHm (a : Acc) (m : Mem) : State := ag { st (tLdd a) with mem := m } 0 a.id 0
def xFr : Store := ⟨8, 5, false, pv 1 + 8, [⟨pv 1 + 8, 2, .frame 0x21008, false, false, false, false, false, [(9, true), (8, false)]⟩], false⟩
def xFw : Store := ⟨8, 5, false, pv 5, [⟨pv 5, 2, .fwd 1 0x5000 (pv 5), false, true, false, false, false, [(9, true), (8, false)]⟩], false⟩
def tSt (x : Store) : Strand := t0.mapSeq (fun q => { q with stores := [x], seq := 9, nextId := 9 })
theorem meets_LoadReplyStorePerform_pages :
    (Runs (ag (st (tLdd (aDone true))) 0 7 0) 0 (tLdd (aDone true)) ∧ (tLdd (aDone true)).seq.loads.find? (fun x => decide (x.id = 7)) = some (aDone true) ∧
      (aDone true).kind = .load 2 true ∧ allDone (aDone true).parts = true ∧ (partBytes (aDone true).parts).length = 2 ∧ (tLdd (aDone true)).seq.trap.raised = [] ∧
      tblGet 0 (tLdd (aDone true)).seq.glat (BitVec.ofNat 5 (aDone true).dest).toNat = 0) ∧
    (Runs (ag (st (tLdd (aDone false))) 0 7 0) 0 (tLdd (aDone false)) ∧ (aDone false).rc = false) ∧
    (Runs sCc 0 (tLdd aCc) ∧ aCc.parts = [pCc] ∧ pCc.place = .frame 0x20002 ∧ (tLdd aCc).blocked aCc.seq false pCc = false ∧
      sCc.cached 0 pCc = some (pbOf 2 0x3456 false)) ∧
    (accIs true ((sHm aRcl m0).homeRead 0 ((tLdd aRcl).who 0 0 true 17) { pRc with data := [] }) = true ∧ Runs (sHm aRcl m0) 0 (tLdd aRcl) ∧
      (tLdd aRcl).blocked aRcl.seq false { pRc with data := [] } = false) ∧
    (accIs false ((sHm aRcl mRace).homeRead 0 ((tLdd aRcl).who 0 0 true 17) { pRc with data := [] }) = true ∧ (tLdd aRcl).run = .running ∧ Handles (tLdd aRcl) ∧ (tLdd aRcl).seq.trap.raised = []) ∧
    (Runs (sm (tSt xFr)) 0 (tSt xFr) ∧ (tSt xFr).seq.stores[0]? = some xFr ∧ xFr.rc = false ∧
      xFr.parts.all (fun p => !p.done && !(tSt xFr).blocked xFr.seq xFr.arr p && accIs true (m0.at 0 ((tSt xFr).who 0 0 false xFr.id) .write p.place p.n (fun _ => p.data))) = true) ∧
    (Runs (sm (tSt xFw)) 0 (tSt xFw) ∧ xFw.parts.all (fun p => !(tSt xFw).blocked xFw.seq xFw.arr p && decide (p.place = .fwd 1 0x5000 (pv 5))) = true) := by
  unfold Runs Handles; decide +kernel

/-- A reduction with a redirect on each kind of page; a release at its three points; a strand that has an unanswered atomic on the strongly ordered page; one whose
acknowledgements are all counted. -/
def tRed (va : Nat) (w : Wait) : Strand := (sg t0 [(4, va), (5, 16), (3, 0x4000000F8)]).setWait w
def redB (m : Mem) (va : Nat) (f : Leaf → Bool) : Bool := match m.page 0 0 va .rw with | (.ok l, _) => f l | _ => false
def xSco : Acc := ⟨16, 1, 0, pv 5, .atom aAmo false 0 false 0 false, [pSco], false, true⟩
def tScA (n : Nat) : Strand := ((tRed (pv 5) .none).mapCtl (fun c => { c with ackcnt := n })).mapSeq (fun q => { q with reds := [xSco], seq := 2, nextId := 17 })
theorem meets_AtomicIssues_orders :
    (Runs (sTw (tRed (pv 1) .none)) 0 (tRed (pv 1) .none) ∧ (tRed (pv 1) .none).busy [3, 4, 5] = false ∧ (tRed (pv 1) .none).gp 4 = false ∧ amoLegal 4 5 = true ∧ amoLegal 2 2 = true ∧
      (sTw (tRed (pv 1) .none)).aopIn (tRed (pv 1) .none) 0 = true ∧ (tRed (pv 1) .none).seq.reds.length < 64 ∧ (tRed (pv 1) .none).gp 3 = false ∧
      redirOk ((sTw (tRed (pv 1) .none)).instOf 0) 64 ((tRed (pv 1) .none).g 3).toNat = true) ∧
    (redB mTwo (pv 1) (fun l => !l.rc && !l.sco && !(l.place (pv 1)).remote 0) && redB mTwo (pv 3) (fun l => l.rc) && redB mTwo (pv 5) (fun l => l.sco)) = true ∧
    redB { m0 with cfg := cfgPut m0.cfg (offPortctl 0) 1 } (pv 5) (fun l => (l.place (pv 5)).remote 0) = true ∧
    ((tRed (pv 1) .none).performedAll 0 5 (tRed (pv 1) .none).seq.seq 8 = true ∧ (sTw (tRed (pv 1) .none)).canRelease 0 (tRed (pv 1) .none) = true ∧
      (tScA 1).performedAll 0 5 (tScA 1).seq.seq 8 = false) ∧
    ((tRed (pv 1) (.release 3)).seq.wait = .release 3 ∧ ({ sTw (tRed (pv 1) (.release 3)) with mem := { mTwo with rel := [⟨0, 3, [1]⟩] } } : State).relDone 0 3 = false ∧
      (sTw (tRed (pv 1) (.release 3))).relDone 0 3 = true ∧ (tRed (pv 1) .released).seq.wait = .released) ∧
    (∃ x ∈ (tScA 1).seq.loads ++ (tScA 1).seq.reds, x.kind.onPath 3 = true ∧ (x.kind.performed = false ∨ x.ack = true) ∧ x.parts.any (·.sco) = true) ∧
    1024 ≤ (tScA 1024).seq.ctl.ackcnt := by unfold Runs; decide +kernel
def aRdr : Atom := { aAmo with red := true, redir := some 0x4000000F8 }
def xRdr (p : Part) (rc : Bool) : Acc := ⟨16, 0, 3, p.va, .atom aRdr false 0 false 0 false, [p], rc, false⟩
def tRdr (x : Acc) : Strand := t0.mapSeq (fun q => { q with reds := [x], seq := 2, nextId := 17 })
def pRcA : Part := { pRc with data := [] }
def pFwA : Part := ⟨pv 5, 8, .fwd 1 0x5000 (pv 5), false, false, false, false, false, []⟩
theorem meets_AtomicUpdate_others :
    (Runs (ag (sm (tRdr (xRdr pAmo false))) 0 16 0) 0 (tRdr (xRdr pAmo false)) ∧ (tRdr (xRdr pAmo false)).findAny 16 = some (xRdr pAmo false) ∧ aRdr.redir = some 0x4000000F8 ∧
      (tRdr (xRdr pAmo false)).atomBlocked (xRdr pAmo false) = false ∧ (tRdr (xRdr pAmo false)).barred 0 0 3 = false ∧
      accIs true (m0.at 0 ((tRdr (xRdr pAmo false)).who 0 3 false 16) .atomic pAmo.place 8 aRdr.apply) = true) ∧
    (Runs (ag { st (tRdr (xRdr pRcA true)) with mem := mRace } 0 16 0) 0 (tRdr (xRdr pRcA true)) ∧ Handles (tRdr (xRdr pRcA true)) ∧
      accIs false (mRace.at 0 ((tRdr (xRdr pRcA true)).who 0 3 true 16) .atomic pRcA.place 8 aRdr.apply) = true) ∧
    (Runs (ag (sm (tRdr (xRdr pFwA false))) 0 16 0) 0 (tRdr (xRdr pFwA false)) ∧ allDone (xRdr pFwA false).parts = false ∧
      256 ≤ ({ sm t0 with hostOps := List.replicate 256 ⟨4, 16, 0⟩ } : State).hostOps.length ∧ (sm t0).hostOps.length < 256) ∧
    ((tblGet 0 (tRdr (xRdr pAmo false)).seq.glat 3 = 0)) := by unfold Runs Handles; decide +kernel

end Sys2Proof.Tests
end

section
/-! SUPPORT. The results of the integer operations in the terms of the tables of R162 to R165: words against unbounded integers. -/
namespace Sys2Proof.Machine

/-! ### Sums, products and comparisons (R162, R164) -/

theorem ofInt_toInt_sub (a b : W64) : BitVec.ofInt 64 (a.toInt - b.toInt) = a - b := by
  rw [Int.sub_eq_add_neg, BitVec.ofInt_add, BitVec.ofInt_neg, BitVec.ofInt_toInt, BitVec.ofInt_toInt, BitVec.sub_eq_add_neg]

theorem ofInt_toInt_mul (a b : W64) : BitVec.ofInt 64 (a.toInt * b.toInt) = a * b := by
  rw [BitVec.ofInt_mul, BitVec.ofInt_toInt, BitVec.ofInt_toInt]

/-- A sign-extended immediate adds as the integer it denotes. -/
theorem add_sext {w : Nat} (a : W64) (i : BitVec w) : a + sext i = BitVec.ofInt 64 (a.toInt + i.toInt) := by
  rw [BitVec.ofInt_add, BitVec.ofInt_toInt]; rfl

theorem mul_sext {w : Nat} (a : W64) (i : BitVec w) : a * sext i = BitVec.ofInt 64 (a.toInt * i.toInt) := by
  rw [BitVec.ofInt_mul, BitVec.ofInt_toInt]; rfl

theorem toInt_sext {w : Nat} (i : BitVec w) (h : w ≤ 64) : (sext i).toInt = i.toInt := BitVec.toInt_signExtend_of_le h

theorem getLsbD_andn (a b : W64) (i : Nat) : (a &&& ~~~b).getLsbD i = (a.getLsbD i && !b.getLsbD i) := by
  by_cases h : i < 64
  · simp [h]
  · simp [BitVec.getLsbD_of_ge a i (Nat.le_of_not_lt h)]

theorem getLsbD_zext {w : Nat} (i : BitVec w) (k : Nat) (h : w ≤ 64) : (zext i).getLsbD k = i.getLsbD k := by
  rw [BitVec.getLsbD_setWidth]
  by_cases hk : k < 64
  · simp [hk]
  · simp [BitVec.getLsbD_of_ge i k (by omega)]

theorem boolW_decide (c : Prop) [Decidable c] : boolW (decide c) = if c then 1 else 0 := by
  by_cases h : c <;> simp [boolW, h]

theorem boolW_slt (a b : W64) : boolW (a.slt b) = if a.toInt < b.toInt then 1 else 0 := by
  rw [BitVec.slt_eq_decide, boolW_decide]

theorem boolW_ult (a b : W64) : boolW (a.ult b) = if a.toNat < b.toNat then 1 else 0 := by
  rw [BitVec.ult_eq_decide, boolW_decide]

theorem toInt_min (a b : W64) : (if b.slt a then b else a).toInt = min a.toInt b.toInt := by
  rw [apply_ite BitVec.toInt, BitVec.slt_eq_decide]; simp only [decide_eq_true_eq]; split <;> omega

theorem toInt_max (a b : W64) : (if a.slt b then b else a).toInt = max a.toInt b.toInt := by
  rw [apply_ite BitVec.toInt, BitVec.slt_eq_decide]; simp only [decide_eq_true_eq]; split <;> omega

theorem toNat_min (a b : W64) : (if b.ult a then b else a).toNat = min a.toNat b.toNat := by
  rw [apply_ite BitVec.toNat, BitVec.ult_eq_decide]; simp only [decide_eq_true_eq]; split <;> omega

theorem toNat_max (a b : W64) : (if a.ult b then b else a).toNat = max a.toNat b.toNat := by
  rw [apply_ite BitVec.toNat, BitVec.ult_eq_decide]; simp only [decide_eq_true_eq]; split <;> omega

/-! ### Shifts (R162, R165) -/

theorem shl_eq (a : W64) (n : Nat) : a <<< n = BitVec.ofNat 64 (a.toNat * 2 ^ n) :=
  BitVec.eq_of_toNat_eq (by simp [Nat.shiftLeft_eq])

theorem shr_eq (a : W64) (n : Nat) : a >>> n = BitVec.ofNat 64 (a.toNat / 2 ^ n) := by
  have hlt : a.toNat / 2 ^ n < 2 ^ 64 := Nat.lt_of_le_of_lt (Nat.div_le_self _ _) a.isLt
  exact BitVec.eq_of_toNat_eq (by
    rw [BitVec.toNat_ushiftRight, BitVec.toNat_ofNat, Nat.mod_eq_of_lt hlt, Nat.shiftRight_eq_div_pow])

theorem sraW_eq (a : W64) (n : Nat) : sraW a n = BitVec.ofInt 64 (a.toInt / 2 ^ n) := by
  unfold sraW
  rw [← BitVec.ofInt_toInt (x := a.sshiftRight n), BitVec.toInt_sshiftRight, Int.shiftRight_eq_div_pow]
  push_cast; rfl

/-- Bit `i` of a rotated word comes from below the rotation's end, or wraps around it. -/
theorem getLsbD_rotrW (a : W64) (n i : Nat) (hn : n < 64) (hi : i < 64) : (rotrW a n).getLsbD i = a.getLsbD ((i + n) % 64) := by
  unfold rotrW
  rw [BitVec.getLsbD_or, BitVec.getLsbD_ushiftRight, BitVec.getLsbD_shiftLeft, Nat.add_comm n i]
  rcases Nat.eq_zero_or_pos n with rfl | hpos
  · simp [Nat.mod_eq_of_lt hi]
  · rw [Nat.mod_eq_of_lt (show 64 - n < 64 by omega)]
    by_cases h : i + n < 64
    · simp [Nat.mod_eq_of_lt h, show i < 64 - n by omega]
    · rw [show (i + n) % 64 = i - (64 - n) by omega, BitVec.getLsbD_of_ge a (i + n) (by omega)]
      simp [hi, show ¬ i < 64 - n by omega]

/-- An immediate extended and shifted left is its integer times the power of two (R77, R164, R172). -/
theorem sext_shl {w : Nat} (i : BitVec w) (n : Nat) : sext i <<< n = BitVec.ofInt 64 (i.toInt * 2 ^ n) := by
  rw [BitVec.ofInt_mul, BitVec.shiftLeft_eq_mul_twoPow]
  congr 1
  rw [show (2 : Int) ^ n = ((2 ^ n : Nat) : Int) by push_cast; rfl, BitVec.ofInt_natCast]
  exact BitVec.eq_of_toNat_eq (by rw [BitVec.toNat_twoPow, BitVec.toNat_ofNat])

theorem toInt_lui (i : BitVec 16) : (sext i <<< 16).toInt = i.toInt * 2 ^ 16 := by
  have hlo := BitVec.le_toInt i
  have hhi := BitVec.toInt_lt (x := i)
  rw [sext_shl, BitVec.toInt_ofInt]
  exact Int.bmod_eq_of_le_mul_two (by omega) (by omega)

/-- The displacement of a branch or `jal`, in bytes (R172, R173). -/
theorem sext_shl_two {w : Nat} (i : BitVec w) : sext i <<< 2 = BitVec.ofInt 64 (4 * i.toInt) := by
  rw [sext_shl, Int.mul_comm]; rfl

theorem addpc_eq (a : W64) (i : BitVec 16) : a + (sext i <<< 16) = BitVec.ofInt 64 ((a.toNat : Int) + i.toInt * 2 ^ 16) := by
  rw [sext_shl, BitVec.ofInt_add, BitVec.ofInt_natCast, BitVec.ofNat_toNat, BitVec.setWidth_eq]

/-! ### Division (R163) -/

theorem toInt_eq_zero_iff (b : W64) : b.toInt = 0 ↔ b = 0 := BitVec.toInt_inj (y := 0)
theorem toInt_eq_neg_one_iff (b : W64) : b.toInt = -1 ↔ b = BitVec.allOnes 64 := BitVec.toInt_inj (y := BitVec.allOnes 64)
theorem toInt_eq_min_iff (a : W64) : a.toInt = -2 ^ 63 ↔ a = BitVec.intMin 64 := BitVec.toInt_inj (y := BitVec.intMin 64)
theorem toNat_eq_zero_iff (b : W64) : b.toNat = 0 ↔ b = 0 := BitVec.toNat_inj (y := 0)

theorem divW_eq (a b : W64) : divW a b = if b.toInt = 0 then BitVec.ofInt 64 (-1)
    else if a.toInt = -2 ^ 63 ∧ b.toInt = -1 then BitVec.ofInt 64 (-2 ^ 63) else BitVec.ofInt 64 (a.toInt.tdiv b.toInt) := by
  simp only [divW, toInt_eq_zero_iff, toInt_eq_neg_one_iff, toInt_eq_min_iff]; rfl

theorem remW_eq (a b : W64) : remW a b = if b.toInt = 0 then a
    else if a.toInt = -2 ^ 63 ∧ b.toInt = -1 then 0 else BitVec.ofInt 64 (a.toInt - b.toInt * a.toInt.tdiv b.toInt) := by
  simp only [remW, toInt_eq_zero_iff, toInt_eq_neg_one_iff, toInt_eq_min_iff]

theorem toNat_divnW (a b : W64) : (divnW a b).toNat = if b.toNat = 0 then 2 ^ 64 - 1 else a.toNat / b.toNat := by
  have hlt : a.toNat / b.toNat < 2 ^ 64 := Nat.lt_of_le_of_lt (Nat.div_le_self _ _) a.isLt
  rw [divnW, apply_ite BitVec.toNat, BitVec.toNat_ofNat, Nat.mod_eq_of_lt hlt]
  simp only [toNat_eq_zero_iff]; rfl

theorem toNat_remnW (a b : W64) : (remnW a b).toNat = if b.toNat = 0 then a.toNat else a.toNat % b.toNat := by
  have hlt : a.toNat % b.toNat < 2 ^ 64 := Nat.lt_of_le_of_lt (Nat.mod_le _ _) a.isLt
  rw [remnW, apply_ite BitVec.toNat, BitVec.toNat_ofNat, Nat.mod_eq_of_lt hlt]
  simp only [toNat_eq_zero_iff]

/-- Every division takes longer than a ck (R159). -/
theorem one_lt_divLat (mag : Nat) : 1 < divLat mag := by unfold divLat; omega

/-! ### Counting bits (R162) -/

/-- The number of significant bits is the least exponent of a power of two above the number. -/
theorem lt_two_pow_bitLen (n : Nat) : n < 2 ^ bitLen n := by
  unfold bitLen
  split
  · omega
  · exact Nat.lt_log2_self

theorem two_pow_bitLen_le (n : Nat) (h : n ≠ 0) : 2 ^ (bitLen n - 1) ≤ n := by
  rw [bitLen, if_neg h]; exact Nat.log2_self_le h

theorem bitLen_le {n k : Nat} (h : n < 2 ^ k) : bitLen n ≤ k := by
  unfold bitLen
  split
  · omega
  · exact (Nat.log2_lt ‹_›).mpr h

theorem bitLen_pos {n : Nat} (h : n ≠ 0) : 0 < bitLen n := by rw [bitLen, if_neg h]; omega

theorem clz_spec (a v : W64) (hv : v = BitVec.ofNat 64 (64 - bitLen a.toNat)) :
    v.toNat ≤ 64 ∧ a.toNat < 2 ^ (64 - v.toNat) ∧ (v.toNat < 64 → 2 ^ (63 - v.toNat) ≤ a.toNat) := by
  have hle : bitLen a.toNat ≤ 64 := bitLen_le a.isLt
  rw [hv, BitVec.toNat_ofNat, Nat.mod_eq_of_lt (by omega), show 64 - (64 - bitLen a.toNat) = bitLen a.toNat by omega]
  refine ⟨by omega, lt_two_pow_bitLen _, fun h => ?_⟩
  rw [show 63 - (64 - bitLen a.toNat) = bitLen a.toNat - 1 by omega]
  exact two_pow_bitLen_le _ (fun h0 => by simp [h0, bitLen] at h)

theorem ctzN_le (k x : Nat) : ctzN k x ≤ k := by
  induction k generalizing x with
  | zero => exact Nat.le_refl 0
  | succ k ih =>
    have := ih (x / 2)
    unfold ctzN; split <;> omega

/-- All bits below the count are 0. -/
theorem testBit_of_lt_ctzN (k x i : Nat) (h : i < ctzN k x) : x.testBit i = false := by
  induction k generalizing x i with
  | zero => exact absurd h (Nat.not_lt_zero i)
  | succ k ih =>
    unfold ctzN at h
    split at h
    · omega
    · cases i with
      | zero => simpa [Nat.testBit_zero] using ‹¬ x % 2 = 1›
      | succ i => rw [Nat.testBit_succ]; exact ih (x / 2) i (by omega)

/-- A number below 2^k that is not 0 has its lowest set bit at the count. -/
theorem ctzN_of_ne_zero (k x : Nat) (h0 : x ≠ 0) (hx : x < 2 ^ k) : ctzN k x < k ∧ x.testBit (ctzN k x) = true := by
  induction k generalizing x with
  | zero => omega
  | succ k ih =>
    unfold ctzN
    split
    · exact ⟨Nat.succ_pos k, by simpa [Nat.testBit_zero] using ‹x % 2 = 1›⟩
    · obtain ⟨hlt, hbit⟩ := ih (x / 2) (by omega) (by omega)
      rw [Nat.add_comm 1, Nat.testBit_succ]
      exact ⟨by omega, hbit⟩

theorem ctzN_zero (k : Nat) : ctzN k 0 = k := by
  induction k with
  | zero => rfl
  | succ k ih => simp [ctzN, ih, Nat.add_comm]

theorem ctz_spec (a v : W64) (hv : v = BitVec.ofNat 64 (ctzN 64 a.toNat)) :
    v.toNat ≤ 64 ∧ (a = 0 → v.toNat = 64) ∧ (a ≠ 0 → v.toNat < 64 ∧ a.getLsbD v.toNat = true ∧ ∀ i, i < v.toNat → a.getLsbD i = false) := by
  have hle := ctzN_le 64 a.toNat
  have hn : v.toNat = ctzN 64 a.toNat := by rw [hv, BitVec.toNat_ofNat, Nat.mod_eq_of_lt (by omega)]
  rw [hn]
  refine ⟨hle, ?_, fun h => ?_⟩
  · rintro rfl; exact ctzN_zero 64
  · obtain ⟨hlt, hbit⟩ := ctzN_of_ne_zero 64 a.toNat (fun h0 => h ((toNat_eq_zero_iff a).mp h0)) a.isLt
    exact ⟨hlt, hbit, fun i hi => testBit_of_lt_ctzN 64 a.toNat i hi⟩

theorem popN_eq_countP (k x : Nat) : popN k x = (List.range k).countP x.testBit := by
  induction k generalizing x with
  | zero => rfl
  | succ k ih =>
    have hshift : x.testBit ∘ Nat.succ = (x / 2).testBit := funext (Nat.testBit_succ x)
    rw [popN, ih, List.range_succ_eq_map, List.countP_cons, List.countP_map, hshift, Nat.testBit_zero, Nat.add_comm]
    rcases Nat.mod_two_eq_zero_or_one x with h | h <;> simp [h]

theorem popc_spec (a : W64) : (BitVec.ofNat 64 (popN 64 a.toNat)).toNat = (List.range 64).countP a.getLsbD := by
  have hle : (List.range 64).countP a.toNat.testBit ≤ 64 := Nat.le_trans List.countP_le_length (Nat.le_of_eq List.length_range)
  rw [BitVec.toNat_ofNat, popN_eq_countP, Nat.mod_eq_of_lt (by omega)]; rfl

/-! ### Extensions and alignment (R162, R173) -/

/-- The low `w` bits of a word, extended with their sign, are the residue of least magnitude. -/
theorem toInt_sext_setWidth (a : W64) (w : Nat) (h : w ≤ 64) : (sext (a.setWidth w)).toInt = (a.toNat : Int).bmod (2 ^ w) := by
  rw [toInt_sext _ h, BitVec.toInt_setWidth]

theorem toNat_zxw (a : W64) : (zext (a.setWidth 32)).toNat = a.toNat % 2 ^ 32 := by
  rw [BitVec.toNat_setWidth, BitVec.toNat_setWidth]; omega

theorem and_three_eq_zero_iff (a : W64) : a &&& 3#64 = 0#64 ↔ a.toNat % 4 = 0 := by
  rw [← BitVec.toNat_inj, BitVec.toNat_and, show (3#64).toNat = 2 ^ 2 - 1 from rfl, Nat.and_two_pow_sub_one_eq_mod]; rfl

end Sys2Proof.Machine
end

section
/-! SUPPORT. How an instruction of the sequencer completes, and each table of operations as the operations' results (R147, R151, R159, R162). -/
namespace Sys2Proof.Machine

/-! ### Completion (R151, R159) -/

theorem Strand.wait_done (t : Strand) (n : Nat) (gd : Reg) (v : W64) (p : Bool) : (t.done n gd v p).seq.wait = .none := rfl

/-- A result with a latency differs from one without in the latencies that run alone. -/
theorem Strand.doneIn_eq (t : Strand) (lat n : Nat) (gd : Reg) (v : W64) (p : Bool) :
    ∃ l, t.doneIn lat n gd v p = (t.done n gd v p).mapSeq (fun q => { q with glat := l }) := by
  unfold Strand.doneIn
  split
  · exact ⟨(t.done n gd v p).seq.glat, rfl⟩
  · exact ⟨_, rfl⟩

theorem RegsOnly.of_glat {t u : Strand} (h : RegsOnly t u) (l : Tbl Nat) : RegsOnly t (u.mapSeq (fun q => { q with glat := l })) := h

/-- An instruction that retires with a result completes as the tables say. -/
theorem writesAndRetires_of_done {i : Instr} {s : State} {sn : Nat} {t : Strand} {gd : Reg} {v : W64} {p : Bool} {res : W64 → Prop}
    (hx : exec i s = .next (s.setStrand sn (t.done 4 gd v p))) (hp : t.pend gd = false) (hv : res v) :
    WritesAndRetires i s sn t gd res p false :=
  ⟨_, _, v, hx, hv, .set s sn _, t.wrote_done 4 gd v p hp, t.regsOnly_done 4 gd v p, t.ctl_done 4 gd v p, t.pc_done 4 gd v p,
    t.wait_done 4 gd v p⟩

/-- The same of a result that is visible later. -/
theorem writesAndRetires_of_doneIn {i : Instr} {s : State} {sn : Nat} {t : Strand} {lat : Nat} {gd : Reg} {v : W64} {p : Bool} {res : W64 → Prop}
    (hx : exec i s = .next (s.setStrand sn (t.doneIn lat 4 gd v p))) (hl : 1 < lat) (hv : res v) :
    WritesAndRetires i s sn t gd res p true := by
  refine ⟨_, _, v, hx, hv, .set s sn _, t.wrote_doneIn lat 4 gd v p hl, ?_⟩
  obtain ⟨l, hl⟩ := t.doneIn_eq lat 4 gd v p
  rw [hl]
  exact ⟨(t.regsOnly_done 4 gd v p).of_glat l, t.ctl_done 4 gd v p, t.pc_done 4 gd v p, t.wait_done 4 gd v p⟩

/-- None of the registers an instruction names is pending. -/
theorem Strand.busy_eq_false_iff (t : Strand) (rs : List Reg) : t.busy rs = false ↔ ∀ r ∈ rs, t.pend r = false := by
  simp [Strand.busy]

theorem Strand.anyPois_pair (t : Strand) (ga gb : Reg) : t.anyPois [ga, gb] = (t.gp ga || t.gp gb) := by
  simp [Strand.anyPois]

/-! ### The register operations (R162-R165) -/

theorem writesAndRetires_of_oprTwo {i : Instr} {f : W64 → W64 → W64} {s : State} {sn : Nat} {t : Strand} {gd ga gb : Reg} {res : W64 → Prop}
    (hx : exec i s = oprTwo f gd ga gb s) (hr : Runs s sn t) (hb : t.busy [gd, ga, gb] = false) (hv : res (f (t.g ga) (t.g gb))) :
    WritesAndRetires i s sn t gd res (t.gp ga || t.gp gb) false := by
  rw [oprTwo_of f gd ga gb s sn t hr, hb, Strand.anyPois_pair] at hx
  exact writesAndRetires_of_done hx ((t.busy_eq_false_iff _).mp hb gd (by simp)) hv

theorem writesAndRetires_of_oprSlow {i : Instr} {lat : W64 → Nat} {f : W64 → W64 → W64} {s : State} {sn : Nat} {t : Strand} {gd ga gb : Reg}
    {res : W64 → Prop} (hx : exec i s = oprSlow lat f gd ga gb s) (hl : ∀ a, 1 < lat a) (hr : Runs s sn t)
    (hb : t.busy [gd, ga, gb] = false) (hv : res (f (t.g ga) (t.g gb))) :
    WritesAndRetires i s sn t gd res (t.gp ga || t.gp gb) true := by
  rw [oprSlow_of lat f gd ga gb s sn t hr, hb, Strand.anyPois_pair] at hx
  exact writesAndRetires_of_doneIn hx (hl _) hv

theorem writesAndRetires_of_oprOne {i : Instr} {f : W64 → W64} {s : State} {sn : Nat} {t : Strand} {gd ga : Reg} {res : W64 → Prop}
    (hx : exec i s = oprOne f gd ga s) (hr : Runs s sn t) (hb : t.busy [gd, ga] = false) (hv : res (f (t.g ga))) :
    WritesAndRetires i s sn t gd res (t.gp ga) false := by
  rw [oprOne_of f gd ga s sn t hr, hb] at hx
  exact writesAndRetires_of_done hx ((t.busy_eq_false_iff _).mp hb gd (by simp)) hv

/-! ### The tables: what each row runs, and that its result is the row's (R162-R165) -/

/-- R162 takes a shift amount from six bits. -/
theorem shAmt_lt (b : W64) : shAmt b < 64 := Nat.mod_lt _ (by decide)

theorem oprTable_exec : ∀ e ∈ oprTable, ∃ f : W64 → W64 → W64,
    (∀ gd ga gb s, exec (e.1 gd ga gb) s = oprTwo f gd ga gb s) ∧ ∀ a b, e.2 a b (f a b) := by
  simp only [oprTable, List.forall_mem_cons]
  refine ⟨?add, ?sub, ?and, ?or, ?xor, ?andn, ?shl, ?shr, ?sra, ?rotr, ?slt, ?sltn, ?min, ?max, ?minn, ?maxn, by simp⟩
  case add => exact ⟨fun a b => a + b, fun _ _ _ _ => rfl, BitVec.add_def⟩
  case sub => exact ⟨fun a b => a - b, fun _ _ _ _ => rfl, fun a b => (ofInt_toInt_sub a b).symm⟩
  case and => exact ⟨fun a b => a &&& b, fun _ _ _ _ => rfl, fun _ _ _ => BitVec.getLsbD_and⟩
  case or => exact ⟨fun a b => a ||| b, fun _ _ _ _ => rfl, fun _ _ _ => BitVec.getLsbD_or⟩
  case xor => exact ⟨fun a b => a ^^^ b, fun _ _ _ _ => rfl, fun _ _ _ => BitVec.getLsbD_xor⟩
  case andn => exact ⟨fun a b => a &&& ~~~b, fun _ _ _ _ => rfl, getLsbD_andn⟩
  case shl => exact ⟨fun a b => a <<< shAmt b, fun _ _ _ _ => rfl, fun a b => shl_eq a (shAmt b)⟩
  case shr => exact ⟨fun a b => a >>> shAmt b, fun _ _ _ _ => rfl, fun a b => shr_eq a (shAmt b)⟩
  case sra => exact ⟨fun a b => sraW a (shAmt b), fun _ _ _ _ => rfl, fun a b => sraW_eq a (shAmt b)⟩
  case rotr => exact ⟨fun a b => rotrW a (shAmt b), fun _ _ _ _ => rfl, fun a b i hi =>
    (getLsbD_rotrW a _ i (shAmt_lt b) hi).trans (by rw [shAmt, Nat.add_mod_mod])⟩
  case slt => exact ⟨fun a b => boolW (a.slt b), fun _ _ _ _ => rfl, boolW_slt⟩
  case sltn => exact ⟨fun a b => boolW (a.ult b), fun _ _ _ _ => rfl, boolW_ult⟩
  case min => exact ⟨fun a b => if b.slt a then b else a, fun _ _ _ _ => rfl, toInt_min⟩
  case max => exact ⟨fun a b => if a.slt b then b else a, fun _ _ _ _ => rfl, toInt_max⟩
  case minn => exact ⟨fun a b => if b.ult a then b else a, fun _ _ _ _ => rfl, toNat_min⟩
  case maxn => exact ⟨fun a b => if a.ult b then b else a, fun _ _ _ _ => rfl, toNat_max⟩

theorem slowTable_exec : ∀ e ∈ slowTable, ∃ (lat : W64 → Nat) (f : W64 → W64 → W64),
    (∀ gd ga gb s, exec (e.1 gd ga gb) s = oprSlow lat f gd ga gb s) ∧ (∀ a, 1 < lat a) ∧ ∀ a b, e.2 a b (f a b) := by
  simp only [slowTable, List.forall_mem_cons]
  refine ⟨?mul, ?mulh, ?mulhn, ?div, ?divn, ?rem, ?remn, by simp⟩
  case mul => exact ⟨fun _ => 3, fun a b => a * b, fun _ _ _ _ => rfl, fun _ => (by decide : 1 < 3), fun a b => (ofInt_toInt_mul a b).symm⟩
  case mulh => exact ⟨fun _ => 4, fun a b => BitVec.ofInt 64 (a.toInt * b.toInt / 2 ^ 64), fun _ _ _ _ => rfl, fun _ => (by decide : 1 < 4), fun _ _ => rfl⟩
  case mulhn => exact ⟨fun _ => 4, fun a b => BitVec.ofNat 64 (a.toNat * b.toNat / 2 ^ 64), fun _ _ _ _ => rfl, fun _ => (by decide : 1 < 4), fun _ _ => rfl⟩
  case div => exact ⟨fun a => divLat a.toInt.natAbs, divW, fun _ _ _ _ => rfl, fun _ => one_lt_divLat _, divW_eq⟩
  case divn => exact ⟨fun a => divLat a.toNat, divnW, fun _ _ _ _ => rfl, fun _ => one_lt_divLat _, toNat_divnW⟩
  case rem => exact ⟨fun a => divLat a.toInt.natAbs, remW, fun _ _ _ _ => rfl, fun _ => one_lt_divLat _, remW_eq⟩
  case remn => exact ⟨fun a => divLat a.toNat, remnW, fun _ _ _ _ => rfl, fun _ => one_lt_divLat _, toNat_remnW⟩

theorem oprOneTable_exec : ∀ e ∈ oprOneTable, ∃ f : W64 → W64,
    (∀ gd ga s, exec (e.1 gd ga) s = oprOne f gd ga s) ∧ ∀ a, e.2 a (f a) := by
  simp only [oprOneTable, List.forall_mem_cons]
  refine ⟨?clz, ?ctz, ?popc, ?sxb, ?sxh, ?sxw, ?zxw, by simp⟩
  case clz => exact ⟨fun a => BitVec.ofNat 64 (64 - bitLen a.toNat), fun _ _ _ => rfl, fun a => clz_spec a _ rfl⟩
  case ctz => exact ⟨fun a => BitVec.ofNat 64 (ctzN 64 a.toNat), fun _ _ _ => rfl, fun a => ctz_spec a _ rfl⟩
  case popc => exact ⟨fun a => BitVec.ofNat 64 (popN 64 a.toNat), fun _ _ _ => rfl, popc_spec⟩
  case sxb => exact ⟨fun a => sext (a.setWidth 8), fun _ _ _ => rfl, fun a => toInt_sext_setWidth a 8 (by decide)⟩
  case sxh => exact ⟨fun a => sext (a.setWidth 16), fun _ _ _ => rfl, fun a => toInt_sext_setWidth a 16 (by decide)⟩
  case sxw => exact ⟨fun a => sext (a.setWidth 32), fun _ _ _ => rfl, fun a => toInt_sext_setWidth a 32 (by decide)⟩
  case zxw => exact ⟨fun a => zext (a.setWidth 32), fun _ _ _ => rfl, toNat_zxw⟩

theorem immTable_exec : ∀ e ∈ immTable, ∃ f : W64 → BitVec 16 → W64,
    (∀ gd ga imm s, exec (e.1 gd ga imm) s = oprOne (f · imm) gd ga s) ∧ ∀ a imm, e.2 a imm (f a imm) := by
  simp only [immTable, List.forall_mem_cons]
  refine ⟨?addi, ?andi, ?ori, ?xori, ?slti, ?sltni, by simp⟩
  case addi => exact ⟨fun a i => a + sext i, fun _ _ _ _ => rfl, add_sext⟩
  case andi => exact ⟨fun a i => a &&& zext i, fun _ _ _ _ => rfl, fun a i k => by rw [BitVec.getLsbD_and, getLsbD_zext i k (by decide)]⟩
  case ori => exact ⟨fun a i => a ||| zext i, fun _ _ _ _ => rfl, fun a i k => by rw [BitVec.getLsbD_or, getLsbD_zext i k (by decide)]⟩
  case xori => exact ⟨fun a i => a ^^^ zext i, fun _ _ _ _ => rfl, fun a i k => by rw [BitVec.getLsbD_xor, getLsbD_zext i k (by decide)]⟩
  case slti => exact ⟨fun a i => boolW (a.slt (sext i)), fun _ _ _ _ => rfl, fun a i =>
    (boolW_slt a (sext i)).trans (by rw [toInt_sext i (by decide)])⟩
  case sltni => exact ⟨fun a i => boolW (a.ult (sext i)), fun _ _ _ _ => rfl, fun a i => boolW_ult a (sext i)⟩

theorem shiTable_exec : ∀ e ∈ shiTable, ∃ f : W64 → BitVec 6 → W64,
    (∀ gd ga n s, exec (e.1 gd ga n) s = oprOne (f · n) gd ga s) ∧ ∀ a n, e.2 a n (f a n) := by
  simp only [shiTable, List.forall_mem_cons]
  refine ⟨?shiL, ?shiR, ?shiA, ?shiO, by simp⟩
  case shiL => exact ⟨fun a n => a <<< n.toNat, fun _ _ _ _ => rfl, fun a n => shl_eq a n.toNat⟩
  case shiR => exact ⟨fun a n => a >>> n.toNat, fun _ _ _ _ => rfl, fun a n => shr_eq a n.toNat⟩
  case shiA => exact ⟨fun a n => sraW a n.toNat, fun _ _ _ _ => rfl, fun a n => sraW_eq a n.toNat⟩
  case shiO => exact ⟨fun a n => rotrW a n.toNat, fun _ _ _ _ => rfl, fun a n i hi => getLsbD_rotrW a n.toNat i n.isLt hi⟩

theorem muli_writes {gd ga : Reg} {imm : BitVec 16} {s : State} {sn : Nat} {t : Strand} (hr : Runs s sn t) (hd : t.pend gd = false)
    (ha : t.pend ga = false) :
    WritesAndRetires (.muli gd ga imm) s sn t gd (fun v => v = BitVec.ofInt 64 ((t.g ga).toInt * imm.toInt)) (t.gp ga) true := by
  have hb : t.busy [gd, ga] = false := (t.busy_eq_false_iff _).mpr (by simp [hd, ha])
  have hx : execMuli gd ga imm s = _ := State.onStrand_of s _ sn t hr.1 hr.2
  simp only [hb, Bool.false_eq_true, if_false] at hx
  exact writesAndRetires_of_doneIn hx (by decide) (mul_sext _ _)

theorem lui_writes {gd : Reg} {imm : BitVec 16} {s : State} {sn : Nat} {t : Strand} (hr : Runs s sn t) (hb : t.busy [gd] = false) :
    WritesAndRetires (.lui gd imm) s sn t gd (fun v => v.toInt = imm.toInt * 2 ^ 16) false false := by
  have hx : execLui gd imm s = _ := State.onStrand_of s _ sn t hr.1 hr.2
  simp only [hb, Bool.false_eq_true, if_false] at hx
  exact writesAndRetires_of_done hx ((t.busy_eq_false_iff _).mp hb gd (by simp)) (toInt_lui imm)

theorem addpc_writes {gd : Reg} {imm : BitVec 16} {s : State} {sn : Nat} {t : Strand} (hr : Runs s sn t) (hb : t.busy [gd] = false) :
    WritesAndRetires (.addpc gd imm) s sn t gd (fun v => v = BitVec.ofInt 64 ((t.seq.pc.toNat : Int) + imm.toInt * 2 ^ 16)) false false := by
  have hx : execAddpc gd imm s = _ := State.onStrand_of s _ sn t hr.1 hr.2
  simp only [hb, Bool.false_eq_true, if_false] at hx
  exact writesAndRetires_of_done hx ((t.busy_eq_false_iff _).mp hb gd (by simp)) (addpc_eq _ _)

/-! ### Words (R76, R164, R165) -/

theorem fOp_encSI (op : BitVec 6) (gd ga : Reg) (imm : BitVec 16) : fOp (encSI op gd ga imm) = op := by
  rw [fOp, encSI, BitVec.extractLsb'_append_eq_of_le (by decide), BitVec.extractLsb'_append_eq_of_le (by decide)]
  exact BitVec.extractLsb'_append_eq_left

theorem fGa_encSI (op : BitVec 6) (gd ga : Reg) (imm : BitVec 16) : fGa (encSI op gd ga imm) = ga := by
  rw [fGa, encSI, BitVec.extractLsb'_append_eq_of_le (by decide)]
  exact BitVec.extractLsb'_append_eq_right

/-- A word of `lui` or `addpc` with a register in its reserved field is refused (R78, R164). -/
theorem decodeWords_reserved_ga (w : W32) (h : fOp w = 0x09#6 ∨ fOp w = 0x0A#6) (ha : fGa w ≠ 0) :
    decodeWords w 0#32 = .error .reserved := by
  rcases h with h | h
  · simpa [decodeWords, isLong, decodeWord, h, resv] using ha
  · simpa [decodeWords, isLong, decodeWord, h, resv] using ha

theorem immTable_encode (gd ga : Reg) (imm : BitVec 16) :
    ∀ e ∈ immTable.zip [0x02#6, 0x03#6, 0x04#6, 0x05#6, 0x07#6, 0x08#6], encode (e.1.1 gd ga imm) = [e.2 ++ gd ++ ga ++ imm] := by
  simp only [immTable, List.zip_cons_cons, List.zip_nil_right, List.forall_mem_cons]
  exact ⟨rfl, rfl, rfl, rfl, rfl, rfl, by simp⟩

theorem shiTable_encode (gd ga : Reg) (n : BitVec 6) :
    ∀ e ∈ shiTable.zip [0#2, 1#2, 2#2, 3#2], encode (e.1.1 gd ga n) = [0x06#6 ++ gd ++ ga ++ (0#8 ++ e.2 ++ n)] := by
  simp only [shiTable, List.zip_cons_cons, List.zip_nil_right, List.forall_mem_cons]
  exact ⟨rfl, rfl, rfl, rfl, by simp⟩

theorem branchTable_encode (ga gb : Reg) (imm : BitVec 16) :
    ∀ e ∈ branchTable.zip [0x20#6, 0x21#6, 0x22#6, 0x23#6, 0x24#6, 0x25#6], encode (e.1.1 ga gb imm) = [e.2 ++ ga ++ gb ++ imm] := by
  simp only [branchTable, List.zip_cons_cons, List.zip_nil_right, List.forall_mem_cons]
  exact ⟨rfl, rfl, rfl, rfl, rfl, rfl, by simp⟩

/-! ### Branches and jumps (R172, R173) -/

theorem Strand.firstPois_pair (t : Strand) (ga gb : Reg) :
    t.firstPois [ga, gb] = if t.gp ga = true then some ga else if t.gp gb = true then some gb else none := by
  unfold Strand.firstPois
  cases ha : t.gp ga <;> cases hb : t.gp gb <;> simp [ha, hb]

/-- A branch, by the poison of its operands and by its comparison (R172). -/
theorem branch_of (taken : W64 → W64 → Bool) (ga gb : Reg) (imm : BitVec 16) (s : State) (sn : Nat) (t : Strand) (h : Runs s sn t)
    (hb : t.busy [ga, gb] = false) :
    branch taken ga gb imm s = .next (
      if t.gp ga = true then s.poisonTrap sn ga else if t.gp gb = true then s.poisonTrap sn gb
      else s.setStrand sn (t.jump (if taken (t.g ga) (t.g gb) then t.seq.pc + BitVec.ofInt 64 (4 * imm.toInt) else t.seq.pc + 4#64))) := by
  rw [branch, State.onStrand_of s _ sn t h.1 h.2, hb, t.firstPois_pair, sext_shl_two]
  by_cases pa : t.gp ga = true
  · simp [pa]
  · by_cases pb : t.gp gb = true <;> simp [pa, pb]

theorem retiresTo_of_jump {i : Instr} {s : State} {sn : Nat} {t : Strand} {target : W64}
    (hx : exec i s = .next (s.setStrand sn (t.jump target))) : RetiresTo i s sn t target :=
  ⟨_, _, hx, .set s sn _, fun _ => ⟨rfl, rfl, rfl⟩, ⟨rfl, rfl⟩, rfl, rfl, rfl⟩

/-- A jump with a link completes (R173). -/
theorem writesTo_of_jump {i : Instr} {s : State} {sn : Nat} {t : Strand} {gd : Reg} {v target : W64}
    (hx : exec i s = .next (s.setStrand sn ((t.setG gd v false).jump target))) (hp : t.pend gd = false) :
    WritesTo i s sn t gd (fun x => x = v) false false target :=
  ⟨_, _, v, hx, rfl, .set s sn _, t.wrote_done 0 gd v false hp, t.regsOnly_done 0 gd v false, t.ctl_done 0 gd v false, rfl, rfl⟩

theorem raisesInto_of_trap {i : Instr} {s : State} {sn : Nat} {t : Strand} {cause src detail val : Nat}
    (hx : exec i s = .next (s.trap sn cause src detail val)) (hr : Runs s sn t) (hh : Handles t) (h4 : src = 0 ∨ 4 ≤ src) :
    RaisesInto i s sn t cause src detail val := by
  obtain ⟨t', ht, hin⟩ := s.trap_handled sn cause src detail val t hr.2 hh h4
  exact ⟨_, t', ht ▸ hx, .set s sn t', hin⟩

/-- A poisoned operand raises POISON with its register's number in TVAL (R147). -/
theorem raisesInto_of_poisonTrap {i : Instr} {s : State} {sn : Nat} {t : Strand} {r : Reg} (hx : exec i s = .next (s.poisonTrap sn r))
    (hr : Runs s sn t) (hh : Handles t) : RaisesInto i s sn t 0x0D 0 0 r.toNat :=
  raisesInto_of_trap hx hr hh (.inl rfl)

theorem branchTable_exec : ∀ e ∈ branchTable, ∃ taken : W64 → W64 → Bool,
    (∀ ga gb imm s, exec (e.1 ga gb imm) s = branch taken ga gb imm s) ∧ ∀ a b, taken a b = true ↔ e.2 a b := by
  simp only [branchTable, List.forall_mem_cons]
  refine ⟨?beq, ?bne, ?blt, ?bge, ?bltn, ?bgen, by simp⟩
  case beq => exact ⟨fun a b => a == b, fun _ _ _ _ => rfl, fun _ _ => beq_iff_eq⟩
  case bne => exact ⟨fun a b => a != b, fun _ _ _ _ => rfl, fun _ _ => bne_iff_ne⟩
  case blt => exact ⟨fun a b => a.slt b, fun _ _ _ _ => rfl, fun _ _ => BitVec.slt_iff_toInt_lt⟩
  case bge => exact ⟨fun a b => !(a.slt b), fun _ _ _ _ => rfl, fun a b => by simp [BitVec.slt_eq_decide]⟩
  case bltn => exact ⟨fun a b => a.ult b, fun _ _ _ _ => rfl, fun _ _ => BitVec.ult_iff_toNat_lt⟩
  case bgen => exact ⟨fun a b => !(a.ult b), fun _ _ _ _ => rfl, fun a b => by simp [BitVec.ult_eq_decide]⟩

theorem execJal_of (gd : Reg) (off : BitVec 21) (s : State) (sn : Nat) (t : Strand) (h : Runs s sn t) (hd : t.pend gd = false) :
    execJal gd off s =
      .next (s.setStrand sn ((t.setG gd (t.seq.pc + 4#64) false).jump (t.seq.pc + BitVec.ofInt 64 (4 * off.toInt)))) := by
  rw [execJal, State.onStrand_of s _ sn t h.1 h.2, (t.busy_eq_false_iff [gd]).mpr (by simp [hd]), sext_shl_two]; rfl

/-- `jalr`, by the poison of its base and the alignment of its target (R173). -/
theorem execJalr_of (gd ga : Reg) (imm : BitVec 16) (s : State) (sn : Nat) (t : Strand) (h : Runs s sn t) (hd : t.pend gd = false)
    (ha : t.pend ga = false) :
    execJalr gd ga imm s = .next (
      if t.gp ga = true then s.poisonTrap sn ga
      else if (t.g ga + BitVec.ofInt 64 imm.toInt).toNat % 4 = 0 then
        s.setStrand sn ((t.setG gd (t.seq.pc + 4#64) false).jump (t.g ga + BitVec.ofInt 64 imm.toInt))
      else s.trap sn 0x04 0 0 (t.g ga + BitVec.ofInt 64 imm.toInt).toNat) := by
  rw [execJalr, State.onStrand_of s _ sn t h.1 h.2, (t.busy_eq_false_iff [gd, ga]).mpr (by simp [hd, ha])]
  simp only [and_three_eq_zero_iff]; rfl

end Sys2Proof.Machine
end

section
/-! PROOF. The integer operations, the branches and the jumps of the sequencer: O1, O2, O3. -/
open Sys2Proof Sys2Proof.Machine

/-- Settles O1: each row of the two tables runs a register operation whose result is the row's. -/
theorem oprTwoResult : Obligations.OprTwoResult := by
  refine ⟨fun e he s sn t gd ga gb hr hb => ?_, fun e he s sn t gd ga gb hr hb => ?_⟩
  · obtain ⟨f, hx, hv⟩ := oprTable_exec e he
    exact writesAndRetires_of_oprTwo (hx gd ga gb s) hr hb (hv _ _)
  · obtain ⟨lat, f, hx, hl, hv⟩ := slowTable_exec e he
    exact writesAndRetires_of_oprSlow (hx gd ga gb s) hl hr hb (hv _ _)

/-- Settles O2: the rows of the three tables run an operation of one source with the row's result; `muli`, `lui` and `addpc` by
their own meanings; the words field by field. -/
theorem oprOneResult : Obligations.OprOneResult := by
  refine ⟨fun s sn t gd ga hr hb => ⟨fun e he => ?_, fun e he imm => ?_, fun e he n => ?_⟩, fun s sn t gd imm hr hb => ?_,
    fun gd ga imm n w => ⟨immTable_encode gd ga imm, rfl, rfl, rfl, fun ha hw => ?_, shiTable_encode gd ga n⟩⟩
  · obtain ⟨f, hx, hv⟩ := oprOneTable_exec e he
    exact writesAndRetires_of_oprOne (hx gd ga s) hr hb (hv _)
  · obtain ⟨f, hx, hv⟩ := immTable_exec e he
    exact writesAndRetires_of_oprOne (hx gd ga imm s) hr hb (hv _ imm)
  · obtain ⟨f, hx, hv⟩ := shiTable_exec e he
    exact writesAndRetires_of_oprOne (hx gd ga n s) hr hb (hv _ n)
  · exact ⟨fun ga ha => muli_writes hr ((t.busy_eq_false_iff _).mp hb gd (by simp)) ha, lui_writes hr hb, addpc_writes hr hb⟩
  · refine ⟨.reserved, decodeWords_reserved_ga w ?_ ?_⟩
    · rcases hw with rfl | rfl
      · exact .inl (fOp_encSI _ gd ga imm)
      · exact .inr (fOp_encSI _ gd ga imm)
    · rcases hw with rfl | rfl
      · exact fun h0 => ha ((fGa_encSI _ gd ga imm).symm.trans h0)
      · exact fun h0 => ha ((fGa_encSI _ gd ga imm).symm.trans h0)

/-- Settles O3: a branch and a jump by the poison of what they read, the comparison and the alignment of the target. -/
theorem branchJumpResult : Obligations.BranchJumpResult := by
  refine ⟨fun e he s sn t ga gb imm hr hb => ?_, fun s sn t gd hr hd => ?_, fun e he ga gb imm => branchTable_encode ga gb imm e he⟩
  · obtain ⟨taken, hi, htaken⟩ := branchTable_exec e he
    have hx := (hi ga gb imm s).trans (branch_of taken ga gb imm s sn t hr hb)
    refine ⟨fun pa pb => ⟨fun hc => ?_, fun hc => ?_⟩, fun hh => ⟨fun pa => ?_, fun pa pb => ?_⟩⟩
    · exact retiresTo_of_jump (by simpa [pa, pb, (htaken _ _).mpr hc] using hx)
    · exact retiresTo_of_jump (by simpa [pa, pb, mt (htaken _ _).mp hc] using hx)
    · exact raisesInto_of_poisonTrap (by simpa [pa] using hx) hr hh
    · exact raisesInto_of_poisonTrap (by simpa [pa, pb] using hx) hr hh
  · have hjalr := fun ga imm => execJalr_of gd ga imm s sn t hr hd
    refine ⟨fun off => writesTo_of_jump (execJal_of gd off s sn t hr hd) hd, fun ga imm ha hp hal => ?_,
      fun ga imm ha hh => ⟨fun hp hal => ?_, fun hp => ?_⟩⟩
    · have hx := hjalr ga imm ha
      rw [hp, if_neg Bool.false_ne_true, if_pos hal] at hx
      exact writesTo_of_jump hx hd
    · have hx := hjalr ga imm ha
      rw [hp, if_neg Bool.false_ne_true, if_neg hal] at hx
      exact raisesInto_of_trap hx hr hh (.inl rfl)
    · have hx := hjalr ga imm ha
      rw [hp, if_pos rfl] at hx
      exact raisesInto_of_poisonTrap hx hr hh

end

section
/-! SUPPORT. What writing device memory changes: no table but its own, and of its bytes those of the chunk alone (R337, R402). -/
namespace Sys2Proof.Machine

/-! ### Lengths of encrypted chunks (R402) -/

@[simp] theorem length_toBytes (n x : Nat) : (toBytes n x).length = n := by
  induction n generalizing x with
  | zero => rfl
  | succ n ih => simp [toBytes, ih]

theorem length_xorBytes_le (a b : List Byte) : (xorBytes a b).length ≤ b.length := by
  rw [xorBytes, List.length_map, List.length_zip]
  exact Nat.min_le_right _ _

/-- A unit of AES-256-XTS gives no more than its 64 bytes. -/
theorem length_xtsUnit_le (dec : Bool) (data tweak : List Byte) (unit : Nat) (b : List Byte) :
    (xtsUnit dec data tweak unit b).length ≤ 64 := by
  have h (x : List Byte) (j : Nat) : (xorBytes x (toBytes 16 j)).length ≤ 16 := by
    have hx := length_xorBytes_le x (toBytes 16 j)
    rwa [length_toBytes] at hx
  simp only [xtsUnit, span, List.flatMap_cons, List.flatMap_nil, List.length_append, List.length_nil]
  exact Nat.add_le_add (h _ _) (Nat.add_le_add (h _ _) (Nat.add_le_add (h _ _) (Nat.add_le_add (h _ _) (Nat.le_refl 0))))

theorem Mem.length_xts_le (m : Mem) (dec : Bool) (k c : Nat) (b : List Byte) : (m.xts dec k c b).length ≤ 64 :=
  length_xtsUnit_le _ _ _ _ _

/-! ### A chunk of device memory (R337) -/

/-- A write to device memory changes bytes, poison bits and errors of device memory, and nothing else. -/
theorem Mem.devWrite_frame (m : Mem) (pa : Nat) (l : List PB) :
    ∃ d p e, m.devWrite pa l = { m with dram := d, dpois := p, ecc := e } := by
  unfold Mem.devWrite
  dsimp only
  split
  · exact ⟨m.dram, m.dpois, m.ecc, rfl⟩
  · exact ⟨_, _, _, rfl⟩

/-- A write inside one chunk leaves the bytes of every other chunk, whatever keys it is under. -/
theorem Mem.devWrite_dram_other (m : Mem) (pa q : Nat) (l : List PB) (hl : pa % 64 + l.length ≤ 64) (hq : q / 64 ≠ pa / 64) :
    tblGet 0 (m.devWrite pa l).dram q = tblGet 0 m.dram q := by
  unfold Mem.devWrite
  dsimp only
  split
  · rfl
  · dsimp only
    split
    · rw [tblGet_putAll, if_neg]
      simp only [pbBytes, List.length_map]
      omega
    · rename_i k _
      have hx := m.length_xts_le false k (pa / 64) (splice (m.plain (64 * (pa / 64)) 64) (pa % 64) (pbBytes l))
      rw [tblGet_putAll, if_neg (by omega)]

/-- A write outside the ranges of the key slots, to a pseudo-channel that is online, puts its bytes in place. -/
theorem Mem.devWrite_dram_open (m : Mem) (pa : Nat) (l : List PB) (ho : m.offline pa = false) (hk : m.keysAt pa = []) :
    (m.devWrite pa l).dram = tblPutAll 0 m.dram pa (pbBytes l) := by
  simp [Mem.devWrite, Mem.keyShut, Mem.keySlot, ho, hk]

/-! ### A line of device memory -/

theorem Mem.devWriteLine_frame (m : Mem) (pa : Nat) (l : List PB) :
    ∃ d p e, m.devWriteLine pa l = { m with dram := d, dpois := p, ecc := e } := by
  obtain ⟨d, p, e, h⟩ := m.devWrite_frame pa (l.take 64)
  obtain ⟨d', p', e', h'⟩ := (m.devWrite pa (l.take 64)).devWrite_frame (pa + 64) (l.drop 64)
  exact ⟨d', p', e', by rw [Mem.devWriteLine, h', h]⟩

theorem Mem.writeBack_frame (m : Mem) (l : Line) : ∃ d p e, m.writeBack l = { m with dram := d, dpois := p, ecc := e } := by
  unfold Mem.writeBack
  split
  · exact m.devWriteLine_frame _ _
  · exact ⟨m.dram, m.dpois, m.ecc, rfl⟩

@[simp] theorem Mem.writeBack_lines (m : Mem) (l : Line) : (m.writeBack l).lines = m.lines := by
  obtain ⟨d, p, e, h⟩ := m.writeBack_frame l; rw [h]
@[simp] theorem Mem.writeBack_banks (m : Mem) (l : Line) : (m.writeBack l).banks = m.banks := by
  obtain ⟨d, p, e, h⟩ := m.writeBack_frame l; rw [h]
@[simp] theorem Mem.writeBack_edge (m : Mem) (l : Line) : (m.writeBack l).edge = m.edge := by
  obtain ⟨d, p, e, h⟩ := m.writeBack_frame l; rw [h]
@[simp] theorem Mem.writeBack_cfg (m : Mem) (l : Line) : (m.writeBack l).cfg = m.cfg := by
  obtain ⟨d, p, e, h⟩ := m.writeBack_frame l; rw [h]

/-- The configuration registers alone say which pseudo-channels are offline (R341) and which addresses the key slots hold (R402). -/
theorem Mem.offline_congr {m b : Mem} (h : m.cfg = b.cfg) (pa : Nat) : m.offline pa = b.offline pa := by
  have hr : m.hmrow = b.hmrow := by unfold Mem.hmrow; rw [h]
  simp only [Mem.offline, Mem.pcOf, hr, h]
theorem Mem.keysAt_congr {m b : Mem} (h : m.cfg = b.cfg) (pa : Nat) : m.keysAt pa = b.keysAt pa := by
  simp only [Mem.keysAt, h]

/-- Writing a line leaves the bytes of every other line. -/
theorem Mem.devWriteLine_dram_other (m : Mem) (name q : Nat) (l : List PB) (hl : l.length = 128) (hq : q / 128 ≠ name) :
    tblGet 0 (m.devWriteLine (128 * name) l).dram q = tblGet 0 m.dram q := by
  unfold Mem.devWriteLine
  rw [Mem.devWrite_dram_other _ _ _ _ (by simp; omega) (by omega), Mem.devWrite_dram_other _ _ _ _ (by simp; omega) (by omega)]

/-- Device memory holds the bytes of a line. -/
def Mem.Holds (m : Mem) (k : Line) : Prop := ∀ i, i < 128 → tblGet 0 m.dram (128 * k.name + i) = (k.data.getD i (0, false)).1

/-- Both chunks of a line are online and in no range of a key slot. -/
def Mem.LineOpen (m : Mem) (name : Nat) : Prop := ∀ h, h < 2 → m.offline (128 * name + 64 * h) = false ∧ m.keysAt (128 * name + 64 * h) = []

theorem getD_pbBytes (l : List PB) (i : Nat) : (pbBytes l).getD i 0 = (l.getD i (0, false)).1 := by
  rw [pbBytes, List.getD_eq_getElem?_getD, List.getD_eq_getElem?_getD, List.getElem?_map]
  cases l[i]? <;> rfl

/-- A dirty line that is written back stands in device memory. -/
theorem Mem.holds_writeBack (m : Mem) (l : Line) (hd : l.dirty = true) (hl : l.data.length = 128) (ho : m.LineOpen l.name) :
    (m.writeBack l).Holds l := by
  obtain ⟨hoff0, hkey0⟩ : m.offline (128 * l.name) = false ∧ m.keysAt (128 * l.name) = [] := ho 0 (by decide)
  obtain ⟨hoff1, hkey1⟩ := ho 1 (by decide)
  obtain ⟨d, p, e, hw⟩ := m.devWrite_frame (128 * l.name) (l.data.take 64)
  have hcfg : (m.devWrite (128 * l.name) (l.data.take 64)).cfg = m.cfg := by rw [hw]
  intro i hi
  rw [Mem.writeBack, if_pos hd, Mem.devWriteLine,
    Mem.devWrite_dram_open _ _ _ ((Mem.offline_congr hcfg _).trans hoff1) ((Mem.keysAt_congr hcfg _).trans hkey1),
    Mem.devWrite_dram_open _ _ _ hoff0 hkey0, tblGet_putAll, tblGet_putAll, getD_pbBytes, getD_pbBytes]
  simp only [pbBytes, List.length_map, List.length_take, List.length_drop, hl, List.getD_eq_getElem?_getD, List.getElem?_drop]
  by_cases h : i < 64
  · rw [if_neg (by omega), if_pos (by omega), Nat.add_sub_cancel_left, List.getElem?_take_of_lt h]
  · rw [if_pos (by omega), show 64 + (128 * l.name + i - (128 * l.name + 64)) = i by omega]

end Sys2Proof.Machine
end

section
/-! SUPPORT. The lines of the slices and the bytes of device memory after a piece of a range is dropped or written back (R328, R333, R334). -/
namespace Sys2Proof.Machine

/-! ### The recall of edge entries (R328) -/

/-- From `m` to `m'` the banks are as they were, and each line is a line of `m`, or a backed one with a name in `N` that a backed line of `m` has. -/
def Updates (N : Nat → Prop) (m m' : Mem) : Prop :=
  m'.banks = m.banks ∧ ∀ k ∈ m'.lines, k ∈ m.lines ∨ (k.unb = false ∧ N k.name ∧ ∃ o ∈ m.lines, o.unb = false ∧ o.name = k.name)

theorem Updates.refl (N : Nat → Prop) (m : Mem) : Updates N m m := ⟨rfl, fun _ hk => .inl hk⟩

theorem Updates.mono {N P : Nat → Prop} {m m' : Mem} (h : Updates N m m') (hNP : ∀ n, N n → P n) : Updates P m m' :=
  ⟨h.1, fun k hk => (h.2 k hk).imp_right fun ⟨hu, hn, ho⟩ => ⟨hu, hNP _ hn, ho⟩⟩

theorem Updates.trans {N : Nat → Prop} {m m' m'' : Mem} (h : Updates N m m') (h' : Updates N m' m'') : Updates N m m'' := by
  refine ⟨h'.1.trans h.1, fun k hk => ?_⟩
  rcases h'.2 k hk with hk | ⟨hu, hn, o, ho, hou, hon⟩
  · exact h.2 k hk
  · rcases h.2 o ho with ho | ⟨-, -, o', ho', hou', hon'⟩
    · exact .inr ⟨hu, hn, o, ho, hou, hon⟩
    · exact .inr ⟨hu, hn, o', ho', hou', hon'.trans hon⟩

theorem Updates.foldl {α : Type} {N : Nat → Prop} (f : Mem → α → Mem) (l : List α) (m : Mem) (hf : ∀ m, ∀ x ∈ l, Updates N m (f m x)) :
    Updates N m (l.foldl f m) :=
  List.foldlRecOn l f (Updates.refl N m) fun m' h x hx => h.trans (hf m' x hx)

/-- Two lines stand in one way of a slice (R304). -/
def Line.SameWay (k l : Line) : Prop := k.slice = l.slice ∧ k.set = l.set ∧ k.way = l.way

theorem Line.not_sameWay_iff (k l : Line) :
    (!(decide (k.slice = l.slice) && decide (k.set = l.set) && decide (k.way = l.way))) = true ↔ ¬ k.SameWay l := by
  rw [Bool.not_eq_true', Bool.eq_false_iff, Ne, Bool.and_eq_true, Bool.and_eq_true, decide_eq_true_eq, decide_eq_true_eq, decide_eq_true_eq,
    and_assoc, Line.SameWay]

/-- The lines after one is put in its way. -/
theorem Mem.mem_putLine (m : Mem) (l k : Line) : k ∈ (m.putLine l).lines ↔ k = l ∨ (k ∈ m.lines ∧ ¬ k.SameWay l) := by
  rw [Mem.putLine, List.mem_cons, List.mem_filter, Line.not_sameWay_iff]

/-- What the search for a backed line finds is one, with the name asked for. -/
theorem Mem.findLine_some {m : Mem} {s name : Nat} {l : Line} (h : m.findLine s name = some l) :
    l ∈ m.lines ∧ l.name = name ∧ l.unb = false := by
  have hp := List.find?_some h
  simp only [Bool.and_eq_true, decide_eq_true_eq, Bool.not_eq_true'] at hp
  obtain ⟨⟨-, hname⟩, hunb⟩ := hp
  exact ⟨List.mem_of_find?_eq_some h, hname, hunb⟩

/-- The recall of a line's edge entries changes that line alone, or device memory. -/
theorem Mem.recall_updates (m : Mem) (pa : Nat) : Updates (· = pa / 128) m (m.recall pa) := by
  have hdrop : Updates (· = pa / 128) m { m with edge := m.edge.filter fun e => !decide (e.pa / 128 = pa / 128) } := ⟨rfl, fun _ hk => .inl hk⟩
  unfold Mem.recall
  refine hdrop.trans (Updates.foldl _ _ _ fun m e he => ?_)
  have hpa : e.pa / 128 = pa / 128 := by
    simpa using (Bool.and_eq_true_iff.mp (List.mem_filter.mp he).2).1
  split
  · rename_i l hl
    obtain ⟨hmem, hname, hunb⟩ := Mem.findLine_some hl
    refine ⟨rfl, fun k hk => ?_⟩
    rcases (Mem.mem_putLine _ _ _).mp hk with rfl | hk
    · exact .inr ⟨hunb, hname.trans hpa, l, hmem, hunb, rfl⟩
    · exact .inl hk.1
  · obtain ⟨d, p, c, h⟩ := m.devWrite_frame e.pa e.word
    rw [h]
    exact ⟨rfl, fun k hk => .inl hk⟩

theorem Mem.recallRange_updates (m : Mem) (pa n : Nat) : Updates (fun a => ∃ q, pa ≤ q ∧ q < pa + n ∧ a = q / 128) m (m.recallRange pa n) := by
  refine Updates.foldl _ _ _ fun m e he => (m.recall_updates e.pa).mono fun a ha => ⟨e.pa, ?_⟩
  have hin := (List.mem_filter.mp he).2
  simp only [Bool.and_eq_true, decide_eq_true_eq] at hin
  exact ⟨hin.1, hin.2, ha⟩

/-- With the edge caches empty there is nothing to recall. -/
theorem Mem.recallRange_of_edge_nil (m : Mem) (pa n : Nat) (h : m.edge = []) : m.recallRange pa n = m := by
  simp [Mem.recallRange, h]

/-! ### The pieces of a range (R333) -/

/-- The parts of a piece of a page begin at a line where the range does. -/
theorem pieces_aligned (k va n : Nat) (hva : va % 128 = 0) : ∀ y ∈ pieces k va n 4096, y.1 % 128 = 0 := by
  induction k generalizing va n with
  | zero => simp [pieces]
  | succ k ih =>
    intro y hy
    rw [pieces] at hy
    split at hy
    · simp at hy
    · split at hy
      · obtain rfl := List.mem_singleton.mp hy
        exact hva
      · rcases List.mem_cons.mp hy with rfl | hy
        · exact hva
        · exact ih _ _ (by omega) y hy

/-- The pages that pass the checks of a range are those of the range, in their order. -/
theorem Mem.rangeCheck_pages (core p : Nat) (perm : Perm) (rcOk : Bool) (ga : Nat) (ps : List (Nat × Nat)) (m m' : Mem)
    (ls : List (Leaf × Nat × Nat)) (h : Mem.rangeCheck core p perm rcOk ga m ps = (.ok ls, m')) : ls.map (·.2) = ps := by
  induction ps generalizing m ls with
  | nil =>
    simp only [Mem.rangeCheck, Prod.mk.injEq, Except.ok.injEq] at h
    rw [← h.1]; rfl
  | cons y ps ih =>
    obtain ⟨va, n⟩ := y
    unfold Mem.rangeCheck at h
    split at h
    · simp at h
    · split at h
      · simp at h
      · split at h
        · rename_i hr
          simp only [Prod.mk.injEq, Except.ok.injEq] at h
          obtain ⟨rfl, rfl⟩ := h
          exact congrArg _ (ih _ _ hr)
        · rename_i hr
          exact absurd h (hr _ _)

theorem Mem.rangeCheck_aligned {core p : Nat} {perm : Perm} {rcOk : Bool} {ga va n : Nat} {m m' : Mem} {ls : List (Leaf × Nat × Nat)}
    (h : Mem.rangeCheck core p perm rcOk ga m (rangePages va n) = (.ok ls, m')) (hva : va % 128 = 0) : ∀ x ∈ ls, x.2.1 % 128 = 0 := by
  intro x hx
  have hmem : x.2 ∈ rangePages va n := Mem.rangeCheck_pages _ _ _ _ _ _ _ _ _ h ▸ List.mem_map_of_mem hx
  exact pieces_aligned _ _ _ hva _ hmem

/-- The frame behind a piece that begins at a line begins at a line. -/
theorem Mem.frameOf_aligned {m : Mem} {p va pa : Nat} {l : Leaf} (h : m.frameOf p l va = some pa) (hva : va % 128 = 0) : pa % 128 = 0 := by
  have hpage : 128 ∣ 2 ^ l.bits := by
    rw [Leaf.bits, lvlBits]
    exact Nat.pow_dvd_pow 2 (show 7 ≤ 12 + 9 * l.lvl by omega)
  have hoff : bitsOf va 0 l.bits % 128 = 0 := by
    rw [bitsOf, Nat.shiftRight_zero, Nat.mod_mod_of_dvd _ hpage, hva]
  simp only [Mem.frameOf, Leaf.paOf] at h
  split at h
  · split at h
    · simp at h
    · split at h
      · obtain rfl := Option.some.inj h
        omega
      · simp at h
  · split at h
    · obtain rfl := Option.some.inj h
      omega
    · simp at h

/-- The frame of a page that is not unbacked is its leaf's, whatever the memory holds. -/
theorem Mem.frameOf_backed (m b : Mem) (p va : Nat) (l : Leaf) (h : l.ub = false) : m.frameOf p l va = b.frameOf p l va := by
  simp [Mem.frameOf, h]

/-- The backed lines of a range of frames, by their names. -/
theorem Line.inFrames_iff (l : Line) (pa n : Nat) : l.inFrames pa n = true ↔ l.unb = false ∧ pa ≤ 128 * l.name ∧ 128 * l.name < pa + n := by
  simp [Line.inFrames, and_assoc]

/-! ### Dropping a piece (R333) -/

/-- Whether a line is one of a piece of an unbacked page, by its part and its number. -/
def Line.inPart (p va n : Nat) (k : Line) : Bool :=
  k.unb && decide (k.part = p) && decide (k.vpart = bitsOf va 12 36) && decide (bitsOf va 7 32 ≤ k.name) && decide (k.name < bitsOf va 7 32 + n / 128)

/-- Drop the backed lines of a range of frames, after the recall of their edge entries. -/
def Mem.dropFrames (m : Mem) (n : Nat) : Option Nat → Mem
  | some pa => { m.recallRange pa n with lines := (m.recallRange pa n).lines.filter fun k => !k.inFrames pa n }
  | none => m

/-- A piece is dropped by its frame and then by its part. -/
theorem Mem.discardPiece_eq (p : Nat) (m : Mem) (l : Leaf) (va n : Nat) :
    Mem.discardPiece p m (l, va, n) =
      let m' := m.dropFrames n (m.frameOf p l va)
      ({ m' with lines := m'.lines.filter fun k => !(l.ub && k.inPart p va n) } : Mem).addLines p
        (-(m'.lines.countP fun k => l.ub && k.inPart p va n : Nat)) := by
  simp only [Mem.discardPiece, Line.inPart, Bool.and_assoc]
  cases m.frameOf p l va <;> rfl

theorem Mem.dropFrames_updates (m : Mem) (n : Nat) (f : Option Nat) : Updates (fun _ => True) m (m.dropFrames n f) := by
  cases f with
  | none => exact Updates.refl _ m
  | some pa =>
    obtain ⟨hb, hl⟩ := (m.recallRange_updates pa n).mono fun _ _ => trivial
    exact ⟨hb, fun k hk => hl k (List.mem_filter.mp hk).1⟩

theorem Mem.mem_discardPiece {p : Nat} {m : Mem} {x : Leaf × Nat × Nat} {k : Line} (h : k ∈ (Mem.discardPiece p m x).lines) :
    k ∈ (m.dropFrames x.2.2 (m.frameOf p x.1 x.2.1)).lines ∧ (x.1.ub && k.inPart p x.2.1 x.2.2) = false := by
  obtain ⟨l, va, n⟩ := x
  rw [Mem.discardPiece_eq] at h
  simpa only [Bool.not_eq_true'] using List.mem_filter.mp h

theorem Mem.discardPiece_updates (p : Nat) (m : Mem) (x : Leaf × Nat × Nat) : Updates (fun _ => True) m (Mem.discardPiece p m x) := by
  obtain ⟨hb, hl⟩ := m.dropFrames_updates x.2.2 (m.frameOf p x.1 x.2.1)
  refine ⟨?_, fun k hk => hl k (Mem.mem_discardPiece hk).1⟩
  obtain ⟨l, va, n⟩ := x
  rw [Mem.discardPiece_eq]
  exact hb

/-- No backed line of the frame remains. -/
theorem Mem.discardPiece_backed {p : Nat} {m : Mem} {x : Leaf × Nat × Nat} {pa : Nat} (hf : m.frameOf p x.1 x.2.1 = some pa) {k : Line}
    (h : k ∈ (Mem.discardPiece p m x).lines) : k.inFrames pa x.2.2 = false := by
  have hk := (Mem.mem_discardPiece h).1
  rw [hf] at hk
  simpa using (List.mem_filter.mp hk).2

/-- Without edge entries a dropped piece writes nothing back and adds no line. -/
theorem Mem.discardPiece_edge_nil {p : Nat} {m : Mem} (x : Leaf × Nat × Nat) (he : m.edge = []) :
    (Mem.discardPiece p m x).edge = [] ∧ (Mem.discardPiece p m x).dram = m.dram ∧ ∀ k ∈ (Mem.discardPiece p m x).lines, k ∈ m.lines := by
  obtain ⟨l, va, n⟩ := x
  have hd (f : Option Nat) : (m.dropFrames n f).edge = [] ∧ (m.dropFrames n f).dram = m.dram ∧ ∀ k ∈ (m.dropFrames n f).lines, k ∈ m.lines := by
    cases f with
    | none => exact ⟨he, rfl, fun _ hk => hk⟩
    | some pa =>
      rw [Mem.dropFrames, m.recallRange_of_edge_nil pa n he]
      exact ⟨he, rfl, fun _ hk => (List.mem_filter.mp hk).1⟩
  obtain ⟨hedge, hdram, hlines⟩ := hd (m.frameOf p l va)
  rw [Mem.discardPiece_eq]
  exact ⟨hedge, hdram, fun k hk => hlines k (List.mem_filter.mp hk).1⟩

/-! ### Writing a piece back (R334) -/

/-- Write a line back, and leave it clean (R304, R334). -/
def Mem.cleanLine (m : Mem) (k : Line) : Mem := (m.writeBack k).touch { k with dirty := false }

theorem Mem.wbackPiece_none {p : Nat} {m : Mem} {x : Leaf × Nat × Nat} (h : m.frameOf p x.1 x.2.1 = none) : Mem.wbackPiece p m x = m := by
  obtain ⟨l, va, n⟩ := x
  simp only [Mem.wbackPiece, h]

theorem Mem.wbackPiece_some {p : Nat} {m : Mem} {x : Leaf × Nat × Nat} {pa : Nat} (h : m.frameOf p x.1 x.2.1 = some pa) :
    Mem.wbackPiece p m x = ((m.recallRange pa x.2.2).lines.filter (fun k => k.inFrames pa x.2.2)).foldl Mem.cleanLine (m.recallRange pa x.2.2) := by
  obtain ⟨l, va, n⟩ := x
  simp only [Mem.wbackPiece, h]
  rfl

@[simp] theorem Mem.cleanLine_banks (m : Mem) (k : Line) : (m.cleanLine k).banks = m.banks := m.writeBack_banks k
@[simp] theorem Mem.cleanLine_edge (m : Mem) (k : Line) : (m.cleanLine k).edge = m.edge := m.writeBack_edge k
@[simp] theorem Mem.cleanLine_cfg (m : Mem) (k : Line) : (m.cleanLine k).cfg = m.cfg := m.writeBack_cfg k

theorem Mem.mem_cleanLine (m : Mem) (j k : Line) : k ∈ (m.cleanLine j).lines ↔
    k = { j with dirty := false, stamp := (m.writeBack j).stamp } ∨ (k ∈ m.lines ∧ ¬ k.SameWay j) := by
  rw [← m.writeBack_lines j]
  exact Mem.mem_putLine { m.writeBack j with stamp := (m.writeBack j).stamp + 1 } { j with dirty := false, stamp := (m.writeBack j).stamp } k

/-- A line that is dirty after lines were written back is none of those. -/
theorem Mem.dirty_of_mem_foldl_cleanLine {k : Line} (hd : k.dirty = true) (js : List Line) (m : Mem) (h : k ∈ (js.foldl Mem.cleanLine m).lines) :
    k ∈ m.lines ∧ k ∉ js := by
  induction js generalizing m with
  | nil => exact ⟨h, List.not_mem_nil⟩
  | cons j js ih =>
    obtain ⟨hk, hjs⟩ := ih _ h
    rcases (Mem.mem_cleanLine _ _ _).mp hk with rfl | ⟨hk, hway⟩
    · cases hd
    · exact ⟨hk, fun hmem => (List.mem_cons.mp hmem).elim (fun e => hway (e ▸ ⟨rfl, rfl, rfl⟩)) hjs⟩

theorem Mem.wbackPiece_banks (p : Nat) (m : Mem) (x : Leaf × Nat × Nat) : (Mem.wbackPiece p m x).banks = m.banks := by
  cases hf : m.frameOf p x.1 x.2.1 with
  | none => rw [Mem.wbackPiece_none hf]
  | some pa =>
    rw [Mem.wbackPiece_some hf]
    exact List.foldlRecOn (motive := fun m' : Mem => m'.banks = m.banks) _ _ (m.recallRange_updates pa x.2.2).1 fun m' h j _ => by simpa using h

/-- A backed line that is dirty after a piece was written back was so before, and lies outside the piece's frame. -/
theorem Mem.dirty_of_mem_wbackPiece {p : Nat} {m : Mem} {x : Leaf × Nat × Nat} (hx : x.2.1 % 128 = 0) {k : Line} (hu : k.unb = false)
    (hd : k.dirty = true) (h : k ∈ (Mem.wbackPiece p m x).lines) :
    k ∈ m.lines ∧ ∀ pa, m.frameOf p x.1 x.2.1 = some pa → k.inFrames pa x.2.2 = false := by
  cases hf : m.frameOf p x.1 x.2.1 with
  | none =>
    rw [Mem.wbackPiece_none hf] at h
    exact ⟨h, by simp⟩
  | some pa =>
    rw [Mem.wbackPiece_some hf] at h
    obtain ⟨hk, hout⟩ := Mem.dirty_of_mem_foldl_cleanLine hd _ _ h
    have hin : k.inFrames pa x.2.2 = false := by simpa [hk] using hout
    have hpa := Mem.frameOf_aligned hf hx
    refine ⟨((m.recallRange_updates pa x.2.2).2 k hk).resolve_right ?_, fun pa' e => Option.some.inj e ▸ hin⟩
    rintro ⟨-, ⟨q, hlo, hhi, hname⟩, -⟩
    refine Bool.eq_false_iff.mp hin ((k.inFrames_iff _ _).mpr ⟨hu, ?_, ?_⟩) <;> omega

/-! ### What a dirty line becomes (R334) -/

/-- A line but for what a write-back changes of it. -/
def Line.still (l : Line) : Line := { l with dirty := false, stamp := 0 }

theorem Line.still_iff (c k : Line) : c.still = k.still ↔ { c with dirty := k.dirty, stamp := k.stamp } = k := by
  cases c; cases k; simp [Line.still]

/-- A dirty backed line of `b` that no other line is named as, open to device memory, among whole lines of which no two stand in one way. -/
structure Flushable (b : Mem) (k : Line) : Prop where
  ways : LineWays b
  whole : ∀ j ∈ b.lines, j.data.length = 128
  mem : k ∈ b.lines
  dirty : k.dirty = true
  unique : ∀ j ∈ b.lines, j.unb = false → j.name = k.name → j = k
  isOpen : b.LineOpen k.name

/-- While a range is written back, from `b` to `m`: every line is one of `b`, line `k` stands, and where it is clean device memory holds it. -/
structure Flushing (b : Mem) (k : Line) (m : Mem) : Prop where
  edge : m.edge = []
  cfg : m.cfg = b.cfg
  copies : ∀ c ∈ m.lines, ∃ o ∈ b.lines, c.still = o.still
  stands : ∃ c ∈ m.lines, c.still = k.still
  clean : ∀ c ∈ m.lines, c.still = k.still → c.dirty = false → m.Holds k

theorem Line.sameWay_of_still {c o : Line} (h : c.still = o.still) : c.SameWay o :=
  ⟨(congrArg Line.slice h :), (congrArg Line.set h :), (congrArg Line.way h :)⟩

theorem Line.name_of_still {c o : Line} (h : c.still = o.still) : c.name = o.name := (congrArg Line.name h :)
theorem Line.data_of_still {c o : Line} (h : c.still = o.still) : c.data = o.data := (congrArg Line.data h :)
theorem Line.unb_of_still {c o : Line} (h : c.still = o.still) : c.unb = o.unb := (congrArg Line.unb h :)

section
variable {b : Mem} {k : Line}

/-- Two lines in one way are copies of one line. -/
theorem Flushable.still_eq (hb : Flushable b k) {c o c' o' : Line} (ho : o ∈ b.lines) (hc : c.still = o.still) (ho' : o' ∈ b.lines)
    (hc' : c'.still = o'.still) (hw : c.SameWay c') : c.still = c'.still := by
  obtain ⟨h1, h2, h3⟩ := Line.sameWay_of_still hc
  obtain ⟨h1', h2', h3'⟩ := Line.sameWay_of_still hc'
  obtain ⟨w1, w2, w3⟩ := hw
  rw [hc, hc', hb.ways o ho o' ho' (by rw [← h1, w1, h1']) (by rw [← h2, w2, h2']) (by rw [← h3, w3, h3'])]

theorem Flushable.start (hb : Flushable b k) (he : b.edge = []) : Flushing b k b := by
  refine ⟨he, rfl, fun c hc => ⟨c, hc, rfl⟩, ⟨k, hb.mem, rfl⟩, fun c hc hs hd => ?_⟩
  obtain ⟨h1, h2, h3⟩ := Line.sameWay_of_still hs
  rw [hb.ways c hc k hb.mem h1 h2 h3, hb.dirty] at hd
  cases hd

/-- After a copy of a backed line of `b` is written back, device memory holds line `k` if it did before, or if the copy is a dirty one of `k`. -/
theorem Flushable.holds_writeBack (hb : Flushable b k) {m : Mem} (hcfg : m.cfg = b.cfg) {j o : Line} (ho : o ∈ b.lines) (hs : j.still = o.still)
    (hu : j.unb = false) (h : m.Holds k ∨ (j.still = k.still ∧ j.dirty = true)) : (m.writeBack j).Holds k := by
  have hname : j.name = o.name := Line.name_of_still hs
  have hdata : j.data = o.data := Line.data_of_still hs
  have hunb : o.unb = false := (Line.unb_of_still hs).symm.trans hu
  by_cases hd : j.dirty = true
  · have hlen : j.data.length = 128 := hdata ▸ hb.whole o ho
    by_cases hn : j.name = k.name
    · have hok : o = k := hb.unique o ho hunb (hname ▸ hn)
      have hopen : m.LineOpen j.name := fun i hi => by
        rw [hn, Mem.offline_congr hcfg, Mem.keysAt_congr hcfg]
        exact hb.isOpen i hi
      have hw := m.holds_writeBack j hd hlen hopen
      intro i hi
      rw [← hn, ← hok, ← hdata]
      exact hw i hi
    · have hk : m.Holds k := h.resolve_right fun e => hn (Line.name_of_still e.1)
      intro i hi
      rw [Mem.writeBack, if_pos hd, Mem.devWriteLine_dram_other _ _ _ _ hlen (by omega)]
      exact hk i hi
  · rw [Mem.writeBack, if_neg hd]
    exact h.resolve_right fun e => hd e.2

/-- One line is written back. -/
theorem Flushing.cleanLine (hb : Flushable b k) {m : Mem} (h : Flushing b k m) {j o : Line} (ho : o ∈ b.lines) (hs : j.still = o.still)
    (hu : j.unb = false) (hj : j.still = k.still → j.dirty = false → m.Holds k) :
    Flushing b k (m.cleanLine j) ∧ (m.Holds k → (m.cleanLine j).Holds k) := by
  have hkeep : m.Holds k → (m.cleanLine j).Holds k := fun hk => hb.holds_writeBack h.cfg ho hs hu (.inl hk)
  refine ⟨⟨by simpa using h.edge, by simpa using h.cfg, fun c hc => ?_, ?_, fun c hc hsc hd => ?_⟩, hkeep⟩
  · rcases (Mem.mem_cleanLine _ _ _).mp hc with rfl | ⟨hc, -⟩
    · exact ⟨o, ho, hs⟩
    · exact h.copies c hc
  · obtain ⟨c, hc, hsc⟩ := h.stands
    rcases Classical.em (c.SameWay j) with hw | hw
    · have hcj : c.still = j.still := hb.still_eq hb.mem hsc ho hs hw
      exact ⟨_, (Mem.mem_cleanLine _ _ _).mpr (.inl rfl), hcj.symm.trans hsc⟩
    · exact ⟨c, (Mem.mem_cleanLine _ _ _).mpr (.inr ⟨hc, hw⟩), hsc⟩
  · rcases (Mem.mem_cleanLine _ _ _).mp hc with rfl | ⟨hc, -⟩
    · cases hjd : j.dirty with
      | false => exact hkeep (hj hsc hjd)
      | true => exact hb.holds_writeBack h.cfg ho hs hu (.inr ⟨hsc, hjd⟩)
    · exact hkeep (h.clean c hc hsc hd)

/-- One piece is written back. -/
theorem Flushing.wbackPiece (hb : Flushable b k) {m : Mem} (h : Flushing b k m) (p : Nat) (x : Leaf × Nat × Nat) :
    Flushing b k (Mem.wbackPiece p m x) := by
  cases hf : m.frameOf p x.1 x.2.1 with
  | none => rwa [Mem.wbackPiece_none hf]
  | some pa =>
    rw [Mem.wbackPiece_some hf, m.recallRange_of_edge_nil pa x.2.2 h.edge]
    refine (List.foldlRecOn (motive := fun m' => Flushing b k m' ∧ (m.Holds k → m'.Holds k)) _ _ ⟨h, id⟩ ?_).1
    rintro m' ⟨h', hkeep⟩ j hj
    obtain ⟨hjm, hin⟩ := List.mem_filter.mp hj
    obtain ⟨o, ho, hs⟩ := h.copies j hjm
    obtain ⟨hnext, hkeep'⟩ := h'.cleanLine hb ho hs ((j.inFrames_iff _ _).mp hin).1 fun hsk hd => hkeep (h.clean j hjm hsk hd)
    exact ⟨hnext, hkeep' ∘ hkeep⟩

theorem Flushing.foldl (hb : Flushable b k) (he : b.edge = []) (p : Nat) (ls : List (Leaf × Nat × Nat)) :
    Flushing b k (ls.foldl (Mem.wbackPiece p) b) :=
  List.foldlRecOn _ _ (hb.start he) fun _ h x _ => h.wbackPiece hb p x

end

end Sys2Proof.Machine
end

section
/-! SUPPORT. The cache instructions run (R109, R332-R335): what each answers once its operands are there. -/
namespace Sys2Proof.Machine

/-! ### L1 mode (R335) -/

/-- `l1inv` empties the L1-mode lines of its core and retires. -/
theorem execL1inv_of {s : State} {sn : Nat} {t : Strand} (hr : Runs s sn t) :
    execL1inv s = .next ((s.setStrand sn (t.retire 4)).modCore (coreOfSn sn) fun c => { c with l1 := [] }) :=
  State.onStrand_of s _ sn t hr.1 hr.2

theorem State.core_modCore (s : State) (n k : Nat) (f : Core → Core) : (s.modCore n f).core k = if k = n then f (s.core n) else s.core k :=
  State.core_setCore s n k _

/-! ### Pins (R332) -/

/-- The entry of a `pin` or `unpin` in the load table: code 3 at once where the page cannot be pinned and no race check is owed. -/
def pinAcc (t : Strand) (unpin : Bool) (gd ga : Reg) (l : Leaf) : Acc :=
  let bad := !l.pinEl || l.ub || decide (l.loc ≠ 0)
  ⟨t.seq.nextId, t.seq.seq, gd.toNat, (t.g ga).toNat, .pin unpin bad (if bad && !l.rc then some 3 else none), [l.part (t.g ga).toNat 1 []], l.rc, false⟩

/-- A strand after an access has entered its load table. -/
def Strand.entered (t : Strand) (x : Acc) : Strand := t.nextAcc.nextSeq.mapSeq fun q => { q with loads := q.loads ++ [x] }

@[simp] theorem Strand.entered_loads (t : Strand) (x : Acc) : (t.entered x).seq.loads = t.seq.loads ++ [x] := rfl
@[simp] theorem Strand.entered_pc (t : Strand) (x : Acc) : (t.entered x).seq.pc = t.seq.pc := rfl

/-- The registers are what their four tables say. -/
theorem regsKept_of_tables {t t' : Strand} (hg : t'.seq.g = t.seq.g) (hp : t'.seq.gp = t.seq.gp) (hpend : t'.seq.gpend = t.seq.gpend)
    (hlat : t'.seq.glat = t.seq.glat) : RegsKept t t' :=
  fun r => ⟨by unfold Strand.g; rw [hg], by unfold Strand.gp; rw [hp], by unfold Strand.pend; rw [hpend, hlat]⟩

/-- The strand of a `pin` or `unpin` after its access has entered the load table. -/
def Strand.pinned (t : Strand) (unpin : Bool) (gd ga : Reg) (l : Leaf) : Strand :=
  if l.rc then (t.entered (pinAcc t unpin gd ga l)).setWait (.check t.seq.nextId)
  else ((t.entered (pinAcc t unpin gd ga l)).setPend gd).retire 4

theorem exec_pinOp (unpin : Bool) (gd ga : Reg) (s : State) : exec (if unpin then .unpin gd ga else .pin gd ga) s = pinOp unpin gd ga s := by
  cases unpin <;> rfl

/-- A `pin` or `unpin` of a page that translates enters the load table. -/
theorem pinOp_of {s : State} {sn : Nat} {t : Strand} {gd ga : Reg} {l : Leaf} {m : Mem} (unpin : Bool) (hr : Runs s sn t)
    (hb : t.busy [gd, ga] = false) (hp : t.gp ga = false) (hw : inWindow (t.g ga).toNat = false) (hf : t.loadFull = false)
    (hm : s.mem.page (coreOfSn sn) (partOfSn sn) (t.g ga).toNat .r = (.ok l, m)) :
    pinOp unpin gd ga s = .next ((s.setMem m).setStrand sn (t.pinned unpin gd ga l)) := by
  rw [pinOp, State.onStrand_of s _ sn t hr.1 hr.2]
  simp only [hb, hp, hw, hf, hm, Bool.false_eq_true, if_false]
  rfl

theorem Strand.pinned_loads (t : Strand) (unpin : Bool) (gd ga : Reg) (l : Leaf) :
    (t.pinned unpin gd ga l).seq.loads = t.seq.loads ++ [pinAcc t unpin gd ga l] := by
  unfold Strand.pinned
  split
  · rfl
  · simp

/-- On a plain page a `pin` retires with gd pending. -/
theorem Strand.pinned_plain (t : Strand) (unpin : Bool) (gd ga : Reg) (l : Leaf) (h : l.rc = false) :
    (t.pinned unpin gd ga l).seq.pc = t.seq.pc + 4#64 ∧
      ∀ r : Reg, (t.pinned unpin gd ga l).g r = t.g r ∧ (t.pinned unpin gd ga l).pend r = (decide (r = gd ∧ r ≠ 0) || t.pend r) := by
  rw [Strand.pinned, if_neg (Bool.eq_false_iff.mp h)]
  refine ⟨by simp, fun r => ?_⟩
  have hkept : RegsKept t (t.entered (pinAcc t unpin gd ga l)) := regsKept_of_tables rfl rfl rfl rfl
  obtain ⟨hg, -, hpend⟩ := hkept r
  refine ⟨by rw [Strand.g_retire, Strand.g_setPend, hg], ?_⟩
  rw [Strand.pend_retire, Strand.pend_setPend, hpend]
  by_cases hr : r = gd ∧ r ≠ 0
  · rw [if_pos hr, decide_eq_true hr, Bool.true_or]
  · rw [if_neg hr, decide_eq_false hr, Bool.false_or]

/-- On a race-checked page it waits for the check. -/
theorem Strand.pinned_rc (t : Strand) (unpin : Bool) (gd ga : Reg) (l : Leaf) (h : l.rc = true) :
    RegsKept t (t.pinned unpin gd ga l) ∧ (t.pinned unpin gd ga l).seq.pc = t.seq.pc ∧
      (t.pinned unpin gd ga l).seq.wait = .check t.seq.nextId := by
  rw [Strand.pinned, if_pos h]
  exact ⟨regsKept_of_tables rfl rfl rfl rfl, rfl, rfl⟩

/-! ### Ranges (R333, R334) -/

section
variable {s : State} {sn : Nat} {t : Strand} {ga gb : Reg} {wb : Bool}

theorem rangeOp_empty (hr : Runs s sn t) (hb : t.busy [ga, gb] = false) (hpa : t.gp ga = false) (hpb : t.gp gb = false)
    (hn : (t.g gb).toNat = 0) : rangeOp wb ga gb s = .next (s.setStrand sn (t.retire 4)) := by
  rw [rangeOp, State.onStrand_of s _ sn t hr.1 hr.2]
  simp only [hb, t.firstPois_pair, hpa, hpb, hn, Bool.false_eq_true, if_false, if_true]

theorem rangeOp_badRange (hr : Runs s sn t) (hb : t.busy [ga, gb] = false) (hpa : t.gp ga = false) (hpb : t.gp gb = false)
    (hn : (t.g gb).toNat ≠ 0) (hok : rangeOk (t.g ga).toNat (t.g gb).toNat = false) :
    rangeOp wb ga gb s = .next (s.trap sn 0x12 0 0 (t.g ga).toNat) := by
  rw [rangeOp, State.onStrand_of s _ sn t hr.1 hr.2]
  simp only [hb, t.firstPois_pair, hpa, hpb, hn, hok, Bool.false_eq_true, Bool.not_false, if_false, if_true]

/-- The state after a range is written back or dropped, with its pages `ls` in frames `fs`. -/
def State.afterRange (s : State) (sn : Nat) (t : Strand) (wb : Bool) (ls : List (Leaf × Nat × Nat)) (m : Mem) (fs : List (Nat × Nat)) : State :=
  if wb then (s.setMem (ls.foldl (Mem.wbackPiece (partOfSn sn)) m)).setStrand sn (t.retire 4)
  else ((s.setMem (ls.foldl (Mem.discardPiece (partOfSn sn)) m)).modCore (coreOfSn sn) (fun c => { c with l1 := c.l1.filter (fun k =>
    !(fs.any (fun f => decide (f.1 ≤ 128 * k.name) && decide (128 * k.name < f.1 + f.2)))) })).setStrand sn (t.retire 4)

/-- Where nothing holds a range back, it completes in one step (log entry 8). -/
theorem rangeOp_completes {ls : List (Leaf × Nat × Nat)} {m : Mem} {fs : List (Nat × Nat)} (hr : Runs s sn t) (hb : t.busy [ga, gb] = false)
    (hpa : t.gp ga = false) (hpb : t.gp gb = false) (hn : (t.g gb).toNat ≠ 0) (hok : rangeOk (t.g ga).toNat (t.g gb).toNat = true)
    (hbar : t.barred (dieOfSn sn) t.seq.seq 3 = false) (hadm : s.admits (partOfSn sn) = true) (hat : t.atBehind ls = false)
    (hheld : m.rangeHeld (partOfSn sn) ls = false)
    (hfs : fs = ls.filterMap (fun x => (m.frameOf (partOfSn sn) x.1 x.2.1).map (fun pa => (pa, x.2.2))))
    (hck : Mem.rangeCheck (coreOfSn sn) (partOfSn sn) (if wb then .r else .w) wb (t.g ga).toNat s.mem
      (rangePages (t.g ga).toNat (t.g gb).toNat) = (.ok ls, m)) (hfr : m.framesHeld wb fs = false) :
    rangeOp wb ga gb s = .next (s.afterRange sn t wb ls m fs) := by
  rw [rangeOp, State.onStrand_of s _ sn t hr.1 hr.2]
  subst hfs
  simp only [hb, t.firstPois_pair, hpa, hpb, hn, hok, hbar, hadm, hck, hat, hheld, hfr, Bool.false_eq_true, Bool.not_true, Bool.or_self, if_false]
  rfl

end

theorem retiresTo_of_retire {i : Instr} {s : State} {sn : Nat} {t : Strand} (hx : exec i s = .next (s.setStrand sn (t.retire 4))) :
    RetiresTo i s sn t (t.seq.pc + 4#64) :=
  ⟨_, _, hx, .set s sn _, fun _ => ⟨rfl, rfl, rfl⟩, ⟨rfl, rfl⟩, rfl, rfl, rfl⟩

theorem rangeOk_eq_false_of_partial {ga gb : Nat} (h : ga % 128 ≠ 0 ∨ gb % 128 ≠ 0) : rangeOk ga gb = false := by
  rcases h with h | h <;> simp [rangeOk, h]

/-! ### The pieces of a range, one after another -/

/-- The state of memory when a piece's turn comes, where its frame is still the one found when the range was checked. -/
theorem foldl_at_piece (f : Mem → Leaf × Nat × Nat → Mem) (p : Nat) (m : Mem) {ls : List (Leaf × Nat × Nat)} {x : Leaf × Nat × Nat} (hx : x ∈ ls) :
    ∃ (m1 : Mem) (post : List (Leaf × Nat × Nat)), ls.foldl f m = post.foldl f (f m1 x) ∧ (∀ y ∈ post, y ∈ ls) ∧
      (x.1.ub = false ∨ ls = [x] → m1.frameOf p x.1 x.2.1 = m.frameOf p x.1 x.2.1) := by
  obtain ⟨pre, post, rfl⟩ := List.append_of_mem hx
  refine ⟨pre.foldl f m, post, by rw [List.foldl_append, List.foldl_cons], fun y hy => by simp [hy], ?_⟩
  rintro (hu | hone)
  · exact Mem.frameOf_backed _ _ p _ _ hu
  · have hlen := congrArg List.length hone
    rw [List.length_append, List.length_cons, List.length_singleton] at hlen
    rw [List.eq_nil_of_length_eq_zero (l := pre) (by omega), List.foldl_nil]

/-- A line outside a range of frames. -/
theorem Line.outside_of_not_inFrames {k : Line} {pa n : Nat} (hu : k.unb = false) (h : k.inFrames pa n = false) :
    128 * k.name < pa ∨ pa + n ≤ 128 * k.name := by
  rcases Nat.lt_or_ge (128 * k.name) pa with hlo | hlo
  · exact .inl hlo
  · exact .inr (Nat.le_of_not_lt fun hhi => Bool.eq_false_iff.mp h ((k.inFrames_iff _ _).mpr ⟨hu, hlo, hhi⟩))

section
variable {p : Nat} {m : Mem} {ls : List (Leaf × Nat × Nat)} {x : Leaf × Nat × Nat}

theorem discard_updates (p : Nat) (m : Mem) (ls : List (Leaf × Nat × Nat)) : Updates (fun _ => True) m (ls.foldl (Mem.discardPiece p) m) :=
  Updates.foldl _ _ _ fun m x _ => m.discardPiece_updates p x

/-- No backed line of a dropped range remains (R333). -/
theorem discard_backed (hx : x ∈ ls) {pa : Nat} (hf : m.frameOf p x.1 x.2.1 = some pa) (h1 : x.1.ub = false ∨ ls = [x]) {k : Line}
    (hk : k ∈ (ls.foldl (Mem.discardPiece p) m).lines) (hu : k.unb = false) : 128 * k.name < pa ∨ pa + x.2.2 ≤ 128 * k.name := by
  obtain ⟨m1, post, hfold, -, hsame⟩ := foldl_at_piece (Mem.discardPiece p) p m hx
  rw [hfold] at hk
  have hout {o : Line} (ho : o ∈ (Mem.discardPiece p m1 x).lines) (hou : o.unb = false) : 128 * o.name < pa ∨ pa + x.2.2 ≤ 128 * o.name :=
    Line.outside_of_not_inFrames hou (Mem.discardPiece_backed ((hsame h1).trans hf) ho)
  rcases (discard_updates p _ post).2 k hk with hk | ⟨-, -, o, ho, hou, hname⟩
  · exact hout hk hu
  · exact hname ▸ hout ho hou

/-- No unbacked line of a dropped range remains (R333). -/
theorem discard_unbacked (hx : x ∈ ls) (hub : x.1.ub = true) {k : Line} (hk : k ∈ (ls.foldl (Mem.discardPiece p) m).lines) (hu : k.unb = true)
    (hp : k.part = p) (hv : k.vpart = bitsOf x.2.1 12 36) : k.name < bitsOf x.2.1 7 32 ∨ bitsOf x.2.1 7 32 + x.2.2 / 128 ≤ k.name := by
  obtain ⟨m1, post, hfold, -, -⟩ := foldl_at_piece (Mem.discardPiece p) p m hx
  rw [hfold] at hk
  have hk := ((discard_updates p _ post).2 k hk).resolve_right fun h => Bool.noConfusion (hu.symm.trans h.1)
  have hout := (Mem.mem_discardPiece hk).2
  simp only [hub, Line.inPart, hu, hp, hv, decide_true, Bool.true_and, Bool.and_eq_false_iff, decide_eq_false_iff_not] at hout
  omega

/-- Without edge entries a dropped range writes nothing back and adds no line (R333). -/
theorem discard_edge_nil (he : m.edge = []) : (ls.foldl (Mem.discardPiece p) m).dram = m.dram ∧
    ∀ k ∈ (ls.foldl (Mem.discardPiece p) m).lines, k ∈ m.lines := by
  refine (List.foldlRecOn (motive := fun m' : Mem => m'.edge = [] ∧ m'.dram = m.dram ∧ ∀ k ∈ m'.lines, k ∈ m.lines) _ _
    ⟨he, rfl, fun _ hk => hk⟩ ?_).2
  rintro m' ⟨he', hd', hl'⟩ x -
  obtain ⟨he'', hd'', hl''⟩ := Mem.discardPiece_edge_nil (p := p) x he'
  exact ⟨he'', hd''.trans hd', fun k hk => hl' k (hl'' k hk)⟩

theorem wback_banks : (ls.foldl (Mem.wbackPiece p) m).banks = m.banks :=
  List.foldlRecOn (motive := fun m' : Mem => m'.banks = m.banks) _ _ rfl fun m' h x _ => (m'.wbackPiece_banks p x).trans h

/-- A backed line that is dirty after pieces were written back was so before. -/
theorem dirty_of_mem_wback (hal : ∀ x ∈ ls, x.2.1 % 128 = 0) {k : Line} (hu : k.unb = false) (hd : k.dirty = true)
    (hk : k ∈ (ls.foldl (Mem.wbackPiece p) m).lines) : k ∈ m.lines :=
  List.foldlRecOn (motive := fun m' : Mem => k ∈ m'.lines → k ∈ m.lines) _ _ id
    (fun _ h x hx hk => h (Mem.dirty_of_mem_wbackPiece (hal x hx) hu hd hk).1) hk

/-- Every backed line of a range that was written back is clean (R334). -/
theorem wback_clean (hal : ∀ x ∈ ls, x.2.1 % 128 = 0) (hx : x ∈ ls) {pa : Nat} (hf : m.frameOf p x.1 x.2.1 = some pa)
    (h1 : x.1.ub = false ∨ ls = [x]) {k : Line} (hk : k ∈ (ls.foldl (Mem.wbackPiece p) m).lines) (hu : k.unb = false)
    (hlo : pa ≤ 128 * k.name) (hhi : 128 * k.name < pa + x.2.2) : k.dirty = false := by
  obtain ⟨m1, post, hfold, hpost, hsame⟩ := foldl_at_piece (Mem.wbackPiece p) p m hx
  rw [hfold] at hk
  refine Bool.eq_false_iff.mpr fun hd => ?_
  have hk1 := dirty_of_mem_wback (fun y hy => hal y (hpost y hy)) hu hd hk
  have hout := (Mem.dirty_of_mem_wbackPiece (hal x hx) hu hd hk1).2 pa ((hsame h1).trans hf)
  exact Bool.eq_false_iff.mp hout ((k.inFrames_iff _ _).mpr ⟨hu, hlo, hhi⟩)

/-- A dirty backed line of the range stands in place, clean, with its bytes in device memory (R334). -/
theorem wback_flushes (hal : ∀ x ∈ ls, x.2.1 % 128 = 0) (hx : x ∈ ls) {pa : Nat} (hf : m.frameOf p x.1 x.2.1 = some pa)
    (h1 : x.1.ub = false ∨ ls = [x]) (he : m.edge = []) {k : Line} (hb : Flushable m k) (hu : k.unb = false) (hlo : pa ≤ 128 * k.name)
    (hhi : 128 * k.name < pa + x.2.2) :
    (∃ c ∈ (ls.foldl (Mem.wbackPiece p) m).lines, { c with dirty := k.dirty, stamp := k.stamp } = k ∧ c.dirty = false) ∧
      (ls.foldl (Mem.wbackPiece p) m).Holds k := by
  have h := Flushing.foldl hb he p ls
  obtain ⟨c, hc, hs⟩ := h.stands
  have hname := Line.name_of_still hs
  have hclean := wback_clean hal hx hf h1 hc ((Line.unb_of_still hs).trans hu) (hname ▸ hlo) (hname ▸ hhi)
  exact ⟨⟨c, hc, (c.still_iff k).mp hs, hclean⟩, h.clean c hc hs hclean⟩

end

end Sys2Proof.Machine
end

section
/-! PROOF. The cache instructions: O24. -/
open Sys2Proof Sys2Proof.Machine

/-- Settles O24: `l1inv`, the operand checks and the pins by the equation of each; a range by what each of its pieces does, in their order. -/
theorem cacheResult : Obligations.CacheResult := by
  refine ⟨fun s sn t ga gb hr => ⟨?_, fun hb hpa hpb i hi => ?_, fun gd l m hb hp hw hf hm u => ?_⟩,
    fun s sn t ga gb ls m hr hb hpa hpb hn hok hbar hadm hat hheld fs hfs => ⟨fun hck hfr => ?_, fun hck hfr => ?_⟩⟩
  · exact ⟨_, execL1inv_of hr, by simp, rfl, by simp [State.core_modCore], fun k hk => by simp [State.core_modCore, hk]⟩
  · obtain ⟨wb, hx⟩ : ∃ wb, exec i s = rangeOp wb ga gb s := by
      rw [List.mem_cons, List.mem_singleton] at hi
      rcases hi with rfl | rfl
      · exact ⟨false, rfl⟩
      · exact ⟨true, rfl⟩
    exact ⟨fun hn => retiresTo_of_retire (hx.trans (rangeOp_empty hr hb hpa hpb hn)), fun hh hn hal =>
      raisesInto_of_trap (hx.trans (rangeOp_badRange hr hb hpa hpb hn (rangeOk_eq_false_of_partial hal))) hr hh (.inl rfl)⟩
  · refine ⟨_, _, pinAcc t u gd ga l, (exec_pinOp u gd ga s).trans (pinOp_of u hr hb hp hw hf hm), .set _ sn _,
      t.pinned_loads u gd ga l, rfl, rfl, fun hrc => ?_, t.pinned_rc u gd ga l, fun he hub hloc => by simp [pinAcc, he, hub, hloc]⟩
    obtain ⟨hpc, hregs⟩ := t.pinned_plain u gd ga l hrc
    exact ⟨hpc, hregs, fun he => by simp [pinAcc, he, hrc]⟩
  · refine ⟨_, rangeOp_completes (wb := false) hr hb hpa hpb hn hok hbar hadm hat hheld hfs hck hfr, by simp [State.afterRange],
      (discard_updates _ m ls).1, discard_edge_nil, fun x hx => ⟨fun pa hf => ⟨fun y hy => ?_, fun h1 k hk hu => ?_⟩, fun hub k hk hu hp hv => ?_⟩⟩
    · simp only [State.afterRange, Bool.false_eq_true, if_false, State.core_setStrand, State.core_modCore, if_true] at hy
      have hfx : (pa, x.2.2) ∈ fs := hfs ▸ List.mem_filterMap.mpr ⟨x, hx, by simp [hf]⟩
      have hout := (List.mem_filter.mp hy).2
      simp only [Bool.not_eq_true', List.any_eq_false, Bool.and_eq_true, decide_eq_true_eq] at hout
      have := hout _ hfx
      omega
    · exact discard_backed hx hf h1 hk hu
    · exact discard_unbacked hx hub hk hu hp hv
  · have hal := Mem.rangeCheck_aligned hck (by simp only [rangeOk, Bool.and_eq_true, decide_eq_true_eq] at hok; omega)
    refine ⟨_, rangeOp_completes (wb := true) hr hb hpa hpb hn hok hbar hadm hat hheld hfs hck hfr, by simp [State.afterRange], wback_banks,
      fun x hx h1 pa hf => ⟨fun k hk hu hlo hhi => wback_clean hal hx hf h1 hk hu hlo hhi, fun hways he hwhole k hk hu hd hlo hhi huniq hopen => ?_⟩⟩
    exact wback_flushes hal hx hf h1 he ⟨hways, hwhole, hk, hd, huniq, hopen⟩ hu hlo hhi

end
